-- ==== Sys2Proof/Word.lean ====
section
/-! DEFINITION. The word types of the module: bytes, 64-bit registers, and the sparse tables that hold
everything the spec counts in thousands (Skeins, flags, bytes of memory). -/
namespace Sys2Proof

/-- One byte of memory or of a packet. -/
abbrev Byte := BitVec 8

/-- One 64-bit register (R446). -/
abbrev Reg64 := BitVec 64

/-- A sparse table: entries (key, value) with strictly rising keys and no entry at the default value. -/
abbrev Tbl (α : Type) := List (Nat × α)

end Sys2Proof
end

