-- ==== Sys2Proof/Machine/Bits.lean ====
section
/-! DEFINITION. Bit fields, sign extension, byte order, and reads and writes of sparse tables. -/
namespace Sys2Proof.Machine

/-- The w bits of x that start at bit lo. -/
def fld (x lo w : Nat) : Nat := (x >>> lo) % 2 ^ w

/-- Bit i of x. -/
def bitOf (x i : Nat) : Bool := x.testBit i

/-- x with its w bits at lo replaced by v. -/
def setFld (x lo w v : Nat) : Nat :=
  x - fld x lo w * 2 ^ lo + (v % 2 ^ w) * 2 ^ lo

/-- The w-bit number x read as two's complement. -/
def sext (x w : Nat) : Int :=
  let y := x % 2 ^ w
  if 2 ^ (w - 1) ≤ y then (y : Int) - 2 ^ w else y

/-- An integer as w bits of two's complement. -/
def toTwos (w : Nat) (i : Int) : Nat := (i % (2 ^ w : Nat)).toNat

/-- The field [lo + w - 1 : lo] of a register. -/
def BV.fld {n : Nat} (x : BitVec n) (lo w : Nat) : Nat := Machine.fld x.toNat lo w

/-- A register with one field replaced. -/
def BV.put {n : Nat} (x : BitVec n) (lo w v : Nat) : BitVec n := BitVec.ofNat n (setFld x.toNat lo w v)

/-- Little-endian bytes as a number. -/
def ofLE : List Byte → Nat
  | [] => 0
  | b :: t => b.toNat + 256 * ofLE t

/-- The low k bytes of a number, little-endian. -/
def toLE : Nat → Nat → List Byte
  | 0, _ => []
  | k + 1, x => BitVec.ofNat 8 x :: toLE k (x / 256)

/-- The low k bytes of a number, most significant first (network order, R322). -/
def toBE (k x : Nat) : List Byte := (toLE k x).reverse

/-- Most-significant-first bytes as a number. -/
def ofBE (l : List Byte) : Nat := ofLE l.reverse

/-- The quotient rounded up. -/
def cdiv (a b : Nat) : Nat := (a + b - 1) / b

/-- x rounded up to a multiple of m. -/
def alignUp (x m : Nat) : Nat := cdiv x m * m

/-- The low k bits of x in reversed order (R483). -/
def bitRev : Nat → Nat → Nat
  | 0, _ => 0
  | k + 1, x => (x % 2) * 2 ^ k + bitRev k (x / 2)

/-- The entry of a sparse table, or its default. -/
def tget {α : Type} (d : α) : Tbl α → Nat → α
  | [], _ => d
  | (k, v) :: t, n => if n = k then v else tget d t n

/-- The entries whose key a test keeps. -/
def tkeep {α : Type} (p : Nat → Bool) (t : Tbl α) : Tbl α := t.filter fun e => p e.1

/-- An entry put in its place. -/
def tput {α : Type} : Tbl α → Nat → α → Tbl α
  | [], n, v => [(n, v)]
  | (k, w) :: t, n, v => if n < k then (n, v) :: (k, w) :: t else if n = k then (n, v) :: t else (k, w) :: tput t n v

/-- A sparse table with one entry written; the default value is never listed. -/
def tset {α : Type} [DecidableEq α] (d : α) (t : Tbl α) (n : Nat) (v : α) : Tbl α :=
  if v = d then tkeep (fun k => k ≠ n) t else tput t n v

/-- Several consecutive entries written from a key on. -/
def tsetMany {α : Type} [DecidableEq α] (d : α) (t : Tbl α) (k : Nat) : List α → Tbl α
  | [] => t
  | v :: r => tsetMany d (tset d t k v) (k + 1) r

/-- k consecutive entries. -/
def tgetMany {α : Type} (d : α) (t : Tbl α) (k n : Nat) : List α :=
  (List.range n).map fun i => tget d t (k + i)

/-- The canonical form: strictly rising keys, no entry at the default. -/
def twf {α : Type} [DecidableEq α] (d : α) : Tbl α → Bool
  | [] => true
  | [(_, v)] => decide (v ≠ d)
  | (k, v) :: (k', v') :: t => decide (v ≠ d) && decide (k < k') && twf d ((k', v') :: t)

/-- The canonical form of a memory: strictly rising keys, no entry equal to what an unlisted address reads as. -/
def Memory.wf (m : Tbl Byte) : Bool := twf 0 m

/-- A set of numbers as a strictly rising list: insertion. -/
def sins : List Nat → Nat → List Nat
  | [], n => [n]
  | k :: t, n => if n < k then n :: k :: t else if n = k then k :: t else k :: sins t n

/-- The entry of a list, or a default. -/
def nth {α : Type} (d : α) (l : List α) (i : Nat) : α := (l[i]?).getD d

/-- A list padded with a value or cut to n entries. -/
def padTo {α : Type} (d : α) (n : Nat) (l : List α) : List α := (List.range n).map fun i => nth d l i

/-- Sum of naturals. -/
def sumN : List Nat → Nat
  | [] => 0
  | x :: t => x + sumN t

/-- Largest of a list of integers, or none. -/
def maxI : List Int → Option Int
  | [] => none
  | x :: t => match maxI t with
    | none => some x
    | some y => some (max x y)

/-- ⌊log2 x⌋ of a positive number. -/
def lg (x : Nat) : Nat := Nat.log2 x

/-- Integer square root by bits: the largest r below 2^k built from r0 with r*r ≤ x. -/
def isqrtGo (x : Nat) : Nat → Nat → Nat
  | 0, r => r
  | k + 1, r => let r' := r + 2 ^ k; if r' * r' ≤ x then isqrtGo x k r' else isqrtGo x k r

/-- ⌊√x⌋. -/
def isqrt (x : Nat) : Nat := isqrtGo x (lg x / 2 + 1) 0

/-- 2 to an integer power as a numerator and a denominator. -/
def pow2num (e : Int) : Nat := if 0 ≤ e then 2 ^ e.toNat else 1
/-- The denominator of 2 to an integer power. -/
def pow2den (e : Int) : Nat := if e < 0 then 2 ^ (-e).toNat else 1

end Sys2Proof.Machine
end

