-- ==== Sys2Proof/Machine/Desc.lean ====
section
/-! DEFINITION. The fields of a task descriptor (spec/10 R270, R273, R274). -/
namespace Sys2Proof.Machine

/-! ### Fields of a task descriptor (R270, R273, R274) -/

/-- The type-specific block. -/
def TD.spec (d : Nat) : Nat := fld d 768 256
/-- Window index of a reference. -/
def TD.win (d r : Nat) : Nat := fld d (512 + 16 * r) 16
/-- Tensor ID of a reference. -/
def TD.tref (d r : Nat) : Nat := fld d (256 + 32 * r) 32
/-- `SEGMENTS`. -/
def TD.segments (d : Nat) : Nat := fld d 224 32
/-- `DEPS`. -/
def TD.deps (d : Nat) : Nat := fld d 204 20
/-- `NWAIT`. -/
def TD.nwait (d : Nat) : Nat := fld d 192 12
/-- `STEP`. -/
def TD.step (d : Nat) : Nat := fld d 160 32
/-- `MBID`. -/
def TD.mbid (d : Nat) : Nat := fld d 144 16
/-- Initial loop count of a level. -/
def TD.lc (d l : Nat) : Nat := fld d (64 + 16 * l) 16
/-- `TYPE`. -/
def TD.typ (d : Nat) : Nat := fld d 44 4
/-- `PRIO`. -/
def TD.prio (d : Nat) : Nat := fld d 41 3
/-- `VARIANT`. -/
def TD.variant (d : Nat) : Nat := fld d 39 2
/-- `LSCALE`. -/
def TD.lscale (d : Nat) : Bool := bitOf d 38
/-- `SPLIT`. -/
def TD.split (d : Nat) : Bool := bitOf d 37
/-- `PANELS`. -/
def TD.panels (d : Nat) : Nat := fld d 31 6
/-- `PROG_ID`. -/
def TD.prog (d : Nat) : Nat := fld d 0 16
/-- `REDID`. -/
def TD.redid (d : Nat) : Nat := fld d 748 20
/-- `GROUP`. -/
def TD.group (d : Nat) : Nat := fld d 742 6
/-- `CLASS`. -/
def TD.cls (d : Nat) : Nat := fld d 740 2
/-- `DANCHOR`, signed. -/
def TD.danchor (d : Nat) : Int := sext (fld d 724 16) 16
/-- `PRE`. -/
def TD.pre (d : Nat) : Bool := bitOf d 723
/-- `PREMEM`. -/
def TD.premem (d : Nat) : Nat := fld d 703 20
/-- `KSUM`. -/
def TD.ksum (d : Nat) : Nat := fld d 663 40
/-- `NCTASK`. -/
def TD.nctask (d : Nat) : Nat := fld d 647 16
/-- `MASKMODE` of a GEMM block. -/
def TD.maskMode (d : Nat) : Nat := fld d 1022 2
/-- `A_CAX`. -/
def TD.aCax (d : Nat) : Nat := fld d 1020 2
/-- `A_FAX`. -/
def TD.aFax (d : Nat) : Nat := fld d 1018 2
/-- `B_CAX`. -/
def TD.bCax (d : Nat) : Nat := fld d 1016 2
/-- `B_FAX`. -/
def TD.bFax (d : Nat) : Nat := fld d 1014 2
/-- `C_AAX`. -/
def TD.cAax (d : Nat) : Nat := fld d 1012 2
/-- `C_BAX`. -/
def TD.cBax (d : Nat) : Nat := fld d 1010 2
/-- `IDXBASE`. -/
def TD.idxBase (d : Nat) : Nat := fld d 946 64
/-- Does the type run on panels (R271)? -/
def TD.onPanels (d : Nat) : Bool := TD.typ d ≤ 3

/-- Batch axes of a tensor: all but the two named (R75). -/
def batchAxes (a b : Nat) : List Nat := (List.range 4).filter fun x => x ≠ a ∧ x ≠ b

end Sys2Proof.Machine
end

