-- ==== Sys2Proof/Config.lean ====
section
/-! DEFINITION. What an implementation fixes and the spec leaves open. Each constant is opaque: no
proof can see a value of it, so a claim holds whatever it is. -/
namespace Sys2Proof

/-- The n-th free value the model draws: a number nothing constrains (log 5). It stands for every value
the spec leaves undefined after an operation that goes on, and for the module's random draws (R370). -/
opaque Config.freeNat : Nat → Nat

/-- A free value that depends on what it is a value of and on nothing else: the same wherever and whenever it is asked for (R1, R4).
The key names the open point and its inputs (log 5). -/
opaque Config.freeOf : List Nat → Nat

/-- The module's internal stream digest (R373): one step of folding an entry into 128 bits. -/
opaque Config.digestStep : BitVec 128 → List Byte → BitVec 128

/-- Byte k of the XMSS signature of a message under a key's leaf (SP 800-208, R460, R461): the private
seeds never leave the Harbour chiplet, so the bytes are free. -/
opaque Config.xmssByte : Nat → Nat → List Byte → Nat → Byte

/-- Public key bytes of a key (R461). -/
opaque Config.publicKeyByte : Nat → Nat → Byte

/-- Byte k of the device identity certificate that the Thrumril certification key signed at manufacture (R460). -/
opaque Config.identityCertByte : Nat → Byte

/-- The 64-bit checksum of a page's bytes (R307). -/
opaque Config.pageSum : List Byte → BitVec 64

/-- Byte k of a known-answer operand image: format, side, byte (R433). The signed firmware carries it. -/
opaque Config.knownAnswerByte : Nat → Nat → Nat → Byte

/-- The 128-bit generator state after bring-up seeds it, and entropy draws at input power (R425). -/
opaque Config.entropy : Nat → Nat

/-- The sub-port MAC, fuse, firmware and enterprise constants of one module: by name number. -/
opaque Config.moduleConst : Nat → Nat

end Sys2Proof
end

