-- ==== Sys2Proof/Machine/Exact.lean ====
section
/-! DEFINITION. Exact values: decoded numbers, exact rational and square-root magnitudes, and the single
rounding of each onto a grid (R65, R84, R186). Every intermediate of the module is one of these. -/
namespace Sys2Proof.Machine

/-- A decoded value: NaN, an infinity, or (−1)^neg × m × 2^e. -/
inductive Val where
  | nan
  | inf (neg : Bool)
  | fin (neg : Bool) (m : Nat) (e : Int)
  deriving DecidableEq, Repr

/-- +0. -/
def Val.zero : Val := .fin false 0 0

/-- A nonnegative exact magnitude: a fraction, or the square root of one (R186). -/
inductive Mag where
  | rat (num den : Nat)
  | sqrt (num den : Nat)
  deriving DecidableEq, Repr

/-- An exact intermediate of R178: NaN, an infinity, a value beyond every destination's range, or a signed magnitude. A value
beyond every range wraps into an integer destination where `wraps` is set (R184), and is only a stand-in that does not otherwise
(step 3 of R95). -/
inductive Ex where
  | nan
  | inf (neg : Bool)
  | over (neg wraps : Bool)
  | num (neg : Bool) (m : Mag)
  deriving DecidableEq, Repr

/-- The exact magnitude m × 2^e. -/
def magDy (m : Nat) (e : Int) : Mag := .rat (m * pow2num e) (pow2den e)

/-- A decoded value as an exact intermediate. -/
def Val.toEx : Val → Ex
  | .nan => .nan
  | .inf n => .inf n
  | .fin n m e => .num n (magDy m e)

/-- Is the magnitude zero? -/
def Mag.isZero : Mag → Bool
  | .rat n _ => n == 0
  | .sqrt n _ => n == 0

/-- ⌊mag / 2^L⌋ and whether the quotient is that integer exactly. -/
def floorAt (m : Mag) (L : Int) : Nat × Bool :=
  match m with
  | .rat n d =>
    let a := n * pow2num (-L)
    let b := d * pow2den (-L)
    (a / b, a % b == 0)
  | .sqrt n d =>
    let a := n * pow2num (-2 * L)
    let b := d * pow2den (-2 * L)
    let q := isqrt (a / b)
    (q, a % b == 0 && q * q == a / b)

/-- ⌊log2 mag⌋ of a positive magnitude. -/
def magLog (m : Mag) : Int :=
  let ratLog (n d : Nat) : Int :=
    let e : Int := (lg n : Int) - lg d
    if n * pow2den e < d * pow2num e then e - 1 else e
  match m with
  | .rat n d => ratLog n d
  | .sqrt n d => Int.fdiv (ratLog n d) 2

/-- Round to nearest, ties to even, onto multiples of 2^L: the integer quotient (R84). -/
def rneAt (m : Mag) (L : Int) : Nat :=
  let (f, ex) := floorAt m (L - 1)
  let q := f / 2
  if f % 2 = 0 then q else if ex then q + q % 2 else q + 1

/-- Keyed stochastic rounding onto multiples of 2^L with the random word u (R65). -/
def stochAt (u : Nat) (m : Mag) (L : Int) : Nat :=
  let q := (floorAt m L).1
  let f := (floorAt m (L - 32)).1 - q * 2 ^ 32
  if u % 2 ^ 32 < f then q + 1 else q

/-- A rounding choice: nearest even, or stochastic with a random word. -/
inductive Rnd where
  | rne
  | stoch (u : Nat)
  deriving DecidableEq, Repr

/-- One rounding onto multiples of 2^L. -/
def roundAt (r : Rnd) (m : Mag) (L : Int) : Nat :=
  match r with
  | .rne => rneAt m L
  | .stoch u => stochAt u m L

/-- Signed integer of a value rounded to nearest even onto multiples of 2^L (R84). -/
def rneInt (neg : Bool) (m : Mag) (L : Int) : Int :=
  let q : Int := rneAt m L
  if neg then -q else q

/-- Is the magnitude a ≥ b? Compared exactly through common denominators of the squares or fractions. -/
def magLe (a b : Mag) : Bool :=
  match a, b with
  | .rat n d, .rat n' d' => n * d' ≤ n' * d
  | .sqrt n d, .sqrt n' d' => n * d' ≤ n' * d
  | .rat n d, .sqrt n' d' => n * n * d' ≤ n' * (d * d)
  | .sqrt n d, .rat n' d' => n * (d' * d') ≤ n' * n' * d

/-- Signed exact dyadic as an integer multiple of 2^e: the common grid of a sum. -/
def signed (neg : Bool) (m : Nat) : Int := if neg then -(m : Int) else m

/-- Exact sum of two finite dyadics: significand and exponent. -/
def dyAdd (a : Int) (ea : Int) (b : Int) (eb : Int) : Int × Int :=
  let e := min ea eb
  (a * 2 ^ (ea - e).toNat + b * 2 ^ (eb - e).toNat, e)

/-- The finite value of a signed significand and exponent; an exact zero takes the given sign. -/
def Val.ofInt (zneg : Bool) (i : Int) (e : Int) : Val :=
  if i = 0 then .fin zneg 0 0 else .fin (decide (i < 0)) i.natAbs e

/-- Exact sum under the special-operand and zero-sign rules of IEEE 754 (R180). -/
def Val.add : Val → Val → Val
  | .nan, _ => .nan
  | _, .nan => .nan
  | .inf a, .inf b => if a = b then .inf a else .nan
  | .inf a, _ => .inf a
  | _, .inf b => .inf b
  | .fin a m e, .fin b n f =>
    let (s, g) := dyAdd (signed a m) e (signed b n) f
    Val.ofInt (a && b) s g

/-- Negation. -/
def Val.neg : Val → Val
  | .nan => .nan
  | .inf a => .inf (!a)
  | .fin a m e => .fin (!a) m e

/-- Exact product under the IEEE 754 rules for special operands (R73, R180). -/
def Val.mul : Val → Val → Val
  | .nan, _ => .nan
  | _, .nan => .nan
  | .inf a, .inf b => .inf (a != b)
  | .inf a, .fin b n _ => if n = 0 then .nan else .inf (a != b)
  | .fin a m _, .inf b => if m = 0 then .nan else .inf (a != b)
  | .fin a m e, .fin b n f => .fin (a != b) (m * n) (if m * n = 0 then 0 else e + f)

/-- Multiplication by 2^k, exact. -/
def Val.scale (v : Val) (k : Int) : Val :=
  match v with
  | .fin n m e => if m = 0 then v else .fin n m (e + k)
  | _ => v

/-- Is the value finite? -/
def Val.isFin : Val → Bool
  | .fin _ _ _ => true
  | _ => false

/-- Is the value a finite nonzero number? -/
def Val.isNz : Val → Bool
  | .fin _ m _ => m != 0
  | _ => false

/-- The gauge ⌊log2 |x|⌋ + 1 of a finite nonzero value (R50). -/
def Val.gauge : Val → Option Int
  | .fin _ m e => if m = 0 then none else some ((lg m : Int) + e + 1)
  | _ => none

/-- The rank of a value in the order of R191, ahead of magnitude: −∞, negative, −0, +0, positive, +∞. -/
def Val.cls : Val → Nat
  | .nan => 6
  | .inf true => 0
  | .fin true m _ => if m = 0 then 2 else 1
  | .fin false m _ => if m = 0 then 3 else 4
  | .inf false => 5

/-- a < b in the order of R191, neither being NaN; finite values by their exact values. -/
def Val.lt (a b : Val) : Bool :=
  if a.cls ≠ b.cls then a.cls < b.cls else
  match a, b with
  | .fin na m e, .fin nb n f =>
    let (d, _) := dyAdd (signed na m) e (-(signed nb n)) f
    decide (d < 0)
  | _, _ => false

/-- Equal in the order of R191 (neither below the other). -/
def Val.eqv (a b : Val) : Bool := a.cls = b.cls && !a.lt b && !b.lt a

/-- The larger under R191, NaN if either is NaN (R192). -/
def Val.max (a b : Val) : Val := if a = .nan ∨ b = .nan then .nan else if a.lt b then b else a
/-- The smaller under R191, NaN if either is NaN (R192). -/
def Val.min (a b : Val) : Val := if a = .nan ∨ b = .nan then .nan else if b.lt a then b else a

end Sys2Proof.Machine
end

