-- ==== Sys2Proof/Machine/Formats.lean ====
section
/-! DEFINITION. Element formats, block scales, block writes, bobbles, gauge tags, the quantisation-error
monitor and keyed stochastic rounding (spec/02_number_formats.md, R28 to R66). -/
namespace Sys2Proof.Machine

/-- The thirteen formats (R28), in code order. -/
inductive Fmt where
  | fp32 | bf16 | fp16 | e4m3 | e5m2 | e2m3 | e3m2 | e2m1 | int8 | int4 | t2 | b1 | selv
  deriving DecidableEq, Repr

/-- The format of a code; codes 0x0D to 0x1F are reserved (R28). -/
def Fmt.ofCode : Nat → Option Fmt
  | 0 => some .fp32 | 1 => some .bf16 | 2 => some .fp16 | 3 => some .e4m3 | 4 => some .e5m2
  | 5 => some .e2m3 | 6 => some .e3m2 | 7 => some .e2m1 | 8 => some .int8 | 9 => some .int4
  | 10 => some .t2 | 11 => some .b1 | 12 => some .selv | _ => none

/-- The code of a format (R28). -/
def Fmt.code : Fmt → Nat
  | .fp32 => 0 | .bf16 => 1 | .fp16 => 2 | .e4m3 => 3 | .e5m2 => 4 | .e2m3 => 5 | .e3m2 => 6
  | .e2m1 => 7 | .int8 => 8 | .int4 => 9 | .t2 => 10 | .b1 => 11 | .selv => 12

/-- Bits per element (R28). -/
def Fmt.width : Fmt → Nat
  | .fp32 => 32 | .bf16 => 16 | .fp16 => 16 | .e4m3 => 8 | .e5m2 => 8 | .e2m3 => 6 | .e3m2 => 6
  | .e2m1 => 4 | .int8 => 8 | .int4 => 4 | .t2 => 2 | .b1 => 1 | .selv => 64

/-- Block-scaled formats: the narrow ones (R28). -/
def Fmt.scaled (f : Fmt) : Bool := decide (3 ≤ f.code ∧ f.code ≤ 11)

/-- Mantissa bits and bias of a floating-point format, its largest finite code (R31). -/
def Fmt.float : Fmt → Option (Nat × Int × Nat)
  | .fp32 => some (23, 127, 0x7F7FFFFF) | .bf16 => some (7, 127, 0x7F7F) | .fp16 => some (10, 15, 0x7BFF)
  | .e5m2 => some (2, 15, 0x7B) | .e4m3 => some (3, 7, 0x7E) | .e3m2 => some (2, 3, 0x1F)
  | .e2m3 => some (3, 1, 0x1F) | .e2m1 => some (1, 1, 7) | _ => none

/-- Has the format IEEE-style infinities just above its largest finite code? (R31) -/
def Fmt.hasInf : Fmt → Bool
  | .fp32 | .bf16 | .fp16 | .e5m2 => true
  | _ => false

/-- The canonical NaN code written, positive sign (R31, R32). -/
def Fmt.nanCode : Fmt → Nat
  | .fp32 => 0x7FC00000 | .bf16 => 0x7FC0 | .fp16 => 0x7E00 | .e5m2 => 0x7E | .e4m3 => 0x7F
  | .selv => 0x8000000000000000 | _ => 0

/-- The value of an element code relative to its block scale (R31 to R36). A T2 code 0b10 reads 0. -/
def Fmt.decode (f : Fmt) (code : Nat) : Val :=
  match f with
  | .int8 => let i := sext code 8; Val.ofInt false i 0
  | .int4 => let i := sext code 4; Val.ofInt false i 0
  | .t2 => if code % 4 = 1 then .fin false 1 0 else if code % 4 = 3 then .fin true 1 0 else .zero
  | .b1 => .fin (code % 2 = 1) 1 0
  | .selv =>
    if code = 0x8000000000000000 then .nan else if code = 0x8000000000000001 then .inf true
    else if code = 0x7FFFFFFFFFFFFFFF then .inf false else Val.ofInt false (sext code 64) 0
  | _ =>
    match f.float with
    | none => .nan
    | some (mb, bias, top) =>
      let w := f.width
      let neg := code.testBit (w - 1)
      let c := code % 2 ^ (w - 1)
      let m := c % 2 ^ mb
      let e := c / 2 ^ mb
      if top < c then (if f.hasInf ∧ c = top + 1 then .inf neg else .nan)
      else if e = 0 then (if m = 0 then .fin neg 0 0 else .fin neg m (1 - bias - mb))
      else .fin neg (2 ^ mb + m) (e - bias - mb)

/-- Does reading the code set FMT? Only the reserved T2 code does (R34). -/
def Fmt.readsFmt (f : Fmt) (code : Nat) : Bool := f = .t2 ∧ code % 4 = 2

/-- The element code magnitude for a magnitude on a floating-point grid that continues past the largest
finite value with the same spacing rule (R42). -/
def encFloatMag (mb : Nat) (bias : Int) (r : Rnd) (m : Mag) : Nat :=
  if m.isZero then 0 else
  let e := max (magLog m) (1 - bias)
  ((e - (1 - bias)).toNat) * 2 ^ mb + roundAt r m (e - mb)

/-- The rounded magnitude in the format's grid as a code count, or none when out of range (R48): a
stochastic rounding of a value that nearest-even rounds to the limit gives the limit (R65). -/
def encMag (mb : Nat) (bias : Int) (top : Nat) (r : Rnd) (m : Mag) : Option Nat :=
  if top < encFloatMag mb bias .rne m then none else some (min (encFloatMag mb bias r m) top)

/-- Write limit of an integer or ternary format in code units (R42). -/
def Fmt.intLimit : Fmt → Nat
  | .int8 => 127 | .int4 => 7 | _ => 1

/-- The scale ceiling of a block-scaled format (R43). -/
def Fmt.ceiling : Fmt → Int
  | .e4m3 => 119 | .e5m2 => 112 | .e2m3 => 125 | .e3m2 => 123 | .e2m1 => 125 | .int8 => 121
  | .int4 => 125 | _ => 127

/-- A magnitude multiplied by 2^k. -/
def Mag.scale (m : Mag) (k : Int) : Mag :=
  match m with
  | .rat n d => .rat (n * pow2num k) (d * pow2den k)
  | .sqrt n d => .sqrt (n * pow2num (2 * k)) (d * pow2den (2 * k))

/-- Does a scaled magnitude round to at most the write limit? For B1: is it below 2 (R42)? Under a fixed scale the same test says
what is out of range for B1: DESIGN CHOICE, log 42. -/
def Fmt.fits (f : Fmt) (y : Mag) : Bool :=
  match f.float with
  | some (mb, bias, top) => encFloatMag mb bias .rne y ≤ top
  | none => if f = .b1 then (floorAt y 1).1 = 0 else rneAt y 0 ≤ f.intLimit

/-- The automatic scale exponent of a block whose largest finite magnitude is a (R42, R44). -/
def autoScale (f : Fmt) (a : Option Mag) : Int :=
  match a with
  | none => -127
  | some a =>
    if a.isZero then -127 else
    let n := (f.ceiling + 128).toNat
    match (List.range n).find? (fun (i : Nat) => f.fits (a.scale (127 - Int.ofNat i))) with
    | some i => (i : Int) - 127
    | none => f.ceiling

/-- How a writer handles values its destination cannot hold (R46, R48). -/
structure WrMode where
  inf : Bool          -- overflow mode: true infinity, false saturate
  wrap : Bool         -- integer mode: true wrap, false saturate
  deriving DecidableEq, Repr

/-- One element write: the code, whether it saturated, whether it marks the whole scale block NaN. -/
structure ElemW where
  code : Nat
  sat : Bool := false
  blockNan : Bool := false
  deriving DecidableEq, Repr

/-- The sign bit of a floating-point code. -/
def Fmt.signBit (f : Fmt) (neg : Bool) : Nat := if neg then 2 ^ (f.width - 1) else 0

/-- One infinity or out-of-range value written to a format at its scale (the table of R48, R46). -/
def Fmt.encOver (f : Fmt) (w : WrMode) (fixed neg isInf : Bool) (m : Mag) (s : Int) : ElemW :=
  match f.float with
  | some (_, _, top) =>
    if w.inf then
      (if f.hasInf then { code := f.signBit neg + top + 1 }
       else if f = .e4m3 then { code := f.signBit neg + 0x7F }
       else { code := 0, blockNan := true })
    else { code := f.signBit neg + top, sat := true }
  | none =>
    if f = .t2 ∨ f = .b1 then
      (if w.inf then { code := 0, blockNan := true }
       else { code := if f = .t2 then (if neg then 3 else 1) else (if neg then 1 else 0), sat := true })
    else
      let wd := f.width
      if fixed ∧ ¬ isInf ∧ w.wrap then { code := toTwos wd (rneInt neg m s) }
      else
        let lim : Int := if neg then (if fixed then -(f.intLimit + 1 : Nat) else -(f.intLimit : Int)) else f.intLimit
        { code := toTwos wd lim, sat := true }

/-- One value written as an element code at scale exponent s (R31, R32, R45, R46, R48). s is 0 for the
unscaled formats. -/
def Fmt.encElem (f : Fmt) (w : WrMode) (fixed : Bool) (s : Int) (r : Rnd) (x : Ex) : ElemW :=
  match x with
  | .nan => match f with
    | .fp32 | .bf16 | .fp16 | .e4m3 | .e5m2 => { code := f.nanCode }
    | _ => { code := 0, blockNan := true }
  | .inf neg => f.encOver w fixed neg true (.rat 0 1) s
  | .over neg wraps => f.encOver { w with wrap := w.wrap && wraps } fixed neg false (.rat 0 1) s
  | .num neg m =>
    let y := m.scale (-s)
    match f.float with
    | some (mb, bias, top) =>
      (match encMag mb bias top r y with
       | some c => { code := f.signBit neg + c }
       | none => f.encOver w fixed neg false m s)
    | none =>
      if f = .b1 then
        (if f.fits y then { code := if neg ∧ ¬ m.isZero then 1 else 0 } else f.encOver w fixed neg false m s)
      else
        let q0 := rneAt y 0
        let hi := f.intLimit + (if fixed ∧ neg ∧ f ≠ .t2 then 1 else 0)
        if hi < q0 then f.encOver w fixed neg false m s
        else
          let q := min (roundAt r y 0) hi
          if f = .t2 then { code := if q = 0 then 0 else if neg then 3 else 1 }
          else { code := toTwos f.width (signed neg q) }

/-! ### The format word (R29) -/

/-- `FORMAT` of a format word. -/
def FW.fmt (w : Reg64) : Option Fmt := Fmt.ofCode (BV.fld w 20 5)
/-- `BLOCK_SIZE` in elements; 32 where the code is reserved. -/
def FW.block (w : Reg64) : Nat :=
  match BV.fld w 25 3 with
  | 1 => 16 | 2 => 32 | 3 => 64 | 4 => 128 | _ => 32
/-- `SCALE_MODE` = 1. -/
def FW.fixed (w : Reg64) : Bool := BV.fld w 36 1 = 1
/-- `FIXED_SCALE`. -/
def FW.fixedScale (w : Reg64) : Nat := BV.fld w 28 8
/-- Bobble slots per 32-element block. -/
def FW.bobs (w : Reg64) : Nat :=
  match BV.fld w 39 2 with
  | 0 => 0 | 1 => 1 | 2 => 2 | _ => 4
/-- `BOB_THRESH`, signed. -/
def FW.bobThresh (w : Reg64) : Int := sext (BV.fld w 41 4) 4
/-- `QE_EN`. -/
def FW.qeEn (w : Reg64) : Bool := BV.fld w 45 1 = 1
/-- `QE_THRESH`. -/
def FW.qeThresh (w : Reg64) : Nat := BV.fld w 46 6
/-- `ROUND` = keyed stochastic. -/
def FW.stoch (w : Reg64) : Bool := BV.fld w 37 2 = 1
/-- `TAGS_PRESENT`. -/
def FW.tags (w : Reg64) : Bool := BV.fld w 19 1 = 1
/-- The purpose code of a default purpose under `PURPOSE_OVR` (R64). -/
def FW.purpose (w : Reg64) (d : Nat) : Nat :=
  if BV.fld w 18 1 = 1 ∧ (d = 1 ∨ d = 2) then BV.fld w 10 8 else d

/-- The format words the module rejects (R30), reserved fields apart. -/
def FW.bad (w : Reg64) : Bool :=
  match FW.fmt w with
  | none => true
  | some f =>
    let bs := BV.fld w 25 3
    (f.scaled && (bs = 0 || 4 < bs))
    || (!f.scaled && (bs ≠ 0 || BV.fld w 36 1 ≠ 0 || FW.fixedScale w ≠ 0 || BV.fld w 39 2 ≠ 0
        || BV.fld w 41 4 ≠ 0 || FW.qeEn w || FW.qeThresh w ≠ 0))
    || (BV.fld w 39 2 ≠ 0 && !(f = .e2m1 || f = .int4 || f = .t2))
    || (FW.fixed w && (FW.fixedScale w = 0xFF || decide ((127 + f.ceiling).toNat < FW.fixedScale w)))
    || (BV.fld w 18 1 = 1 && BV.fld w 10 8 < 0x80)
    || (1 < BV.fld w 37 2)

/-- Reserved fields of the format word are 0 (R14, R29). -/
def FW.reserved0 (w : Reg64) : Bool := BV.fld w 52 12 = 0 ∧ BV.fld w 0 10 = 0

/-! ### Philox4x32-10 (R63) -/

/-- One Philox round on four counter words under two key words. -/
def philoxRound (k0 k1 c0 c1 c2 c3 : Nat) : Nat × Nat × Nat × Nat :=
  let p0 := 0xD2511F53 * c0
  let p1 := 0xCD9E8D57 * c2
  (Nat.xor (Nat.xor (p1 / 2 ^ 32) c1) k0, p1 % 2 ^ 32, Nat.xor (Nat.xor (p0 / 2 ^ 32) c3) k1, p0 % 2 ^ 32)

/-- n rounds, the key bumped by the Weyl constants between them. -/
def philoxGo : Nat → Nat → Nat → Nat × Nat × Nat × Nat → Nat × Nat × Nat × Nat
  | 0, _, _, c => c
  | n + 1, k0, k1, (c0, c1, c2, c3) =>
    philoxGo n ((k0 + 0x9E3779B9) % 2 ^ 32) ((k1 + 0xBB67AE85) % 2 ^ 32) (philoxRound k0 k1 c0 c1 c2 c3)

/-- Philox4x32-10: the four output words. -/
def philox (k0 k1 c0 c1 c2 c3 : Nat) : Nat × Nat × Nat × Nat := philoxGo 10 k0 k1 (c0, c1, c2, c3)

/-- The random word u of an element (R63): key from the seed, counter from index, purpose, step, tensor. -/
def elemRandom (seed : Nat) (tid step purpose i : Nat) : Nat :=
  let q := i / 4
  let (a, b, c, d) := philox (seed % 2 ^ 32) (seed / 2 ^ 32 % 2 ^ 32) (q % 2 ^ 32)
    (purpose % 256 * 2 ^ 24 + q / 2 ^ 32 % 64) (step % 2 ^ 32) (tid % 2 ^ 32)
  match i % 4 with
  | 0 => a | 1 => b | 2 => c | _ => d

/-! ### Block writes -/

/-- The magnitude of a finite exact value. -/
def Ex.mag? : Ex → Option Mag
  | .num _ m => some m
  | _ => none

/-- The largest finite magnitude of a list. A value beyond every range (`Ex.over`) is no finite value here: DESIGN CHOICE, log 41. -/
def maxMag : List Ex → Option Mag
  | [] => none
  | x :: t => match x.mag?, maxMag t with
    | none, r => r
    | some m, none => some m
    | some m, some n => some (if magLe m n then n else m)

/-- A written scale block: scale code, element codes, SAT. -/
structure BlockW where
  scale : Nat
  codes : List Nat
  sat : Bool
  deriving DecidableEq, Repr

/-- A zero of an automatically scaled block that holds no nonzero finite value is written as code 0, whatever its sign (R44,
log 43). -/
def zeroCode (bare : Bool) (x : Ex) (e : ElemW) : ElemW :=
  match x with
  | .num _ m => if bare ∧ m.isZero then { e with code := 0 } else e
  | _ => e

/-- A scale block written from its exact values with one rounding each (R42 to R48); `rnd i` is the
rounding of position i. One NaN in a format without NaN codes marks the whole block. -/
def writeScaled (f : Fmt) (w : WrMode) (fixed : Option Nat) (rnd : List Rnd) (xs : List Ex) : BlockW :=
  let s : Int := match fixed with
    | some c => (c : Int) - 127
    | none => autoScale f (maxMag xs)
  let es := xs.zip (rnd ++ List.replicate (xs.length - rnd.length) .rne)
  let bare := fixed.isNone && ((maxMag xs).elim true Mag.isZero)
  let ws := es.map fun (x, r) => zeroCode bare x (f.encElem w fixed.isSome s r x)
  if ws.any (·.blockNan) then { scale := 0xFF, codes := xs.map (fun _ => 0), sat := ws.any (·.sat) }
  else { scale := (s + 127).toNat, codes := ws.map (·.code), sat := ws.any (·.sat) }

/-- A NaN-marked block reads NaN everywhere; otherwise the code value times 2^s (R39, R41). -/
def scaledVal (f : Fmt) (scale code : Nat) : Val :=
  if scale = 0xFF then .nan else (f.decode code).scale ((scale : Int) - 127)

/-! ### Bobbles (R56 to R60) -/

/-- A square root as a fraction good to 2^-2048 of itself, for ordering errors (log 90). -/
def Mag.toRat (m : Mag) : Nat × Nat :=
  match m with
  | .rat n d => (n, d)
  | .sqrt _ _ =>
    if m.isZero then (0, 1) else
    let L := magLog m - 2048
    ((floorAt m L).1 * pow2num L, pow2den L)

/-- |x − d × 2^e| as a fraction, for a signed exact x and a dyadic value. -/
def errOf (x : Ex) (v : Val) : Option (Nat × Nat) :=
  match x, v with
  | .num neg m, .fin n k e =>
    let (a, b) := m.toRat
    let c := k * pow2num e
    let d := pow2den e
    some ((signed neg (a * d) - signed n (c * b)).natAbs, b * d)
  | _, _ => none

/-- The bobble slots of one 32-element block: (index, value code), in decreasing error with ties to the
smaller index (R58). `scaleOf i` is the scale exponent of position i, none in a NaN-marked block. -/
def chooseBobbles (f : Fmt) (slots : Nat) (t : Int) (scaleOf : List (Option Int)) (xs : List Ex) : List (Nat × Nat) :=
  let cand := (List.range xs.length).filterMap fun i =>
    match nth none scaleOf i, nth Ex.nan xs i with
    | some s, .num neg m =>
      let y := m.scale (-s)
      if !(match f.float with | some (mb, bias, top) => encFloatMag mb bias .rne y ≤ top | none => rneAt y 0 ≤ f.intLimit) then none
      else
        let c := (f.encElem { inf := false, wrap := false } false s .rne (.num neg m)).code
        (match errOf (.num neg m) ((f.decode c).scale s) with
         | some (a, b) =>
           let th := s + t
           if b * pow2num th < a * pow2den th then
             some (i, a, b, Fmt.signBit .e4m3 neg + (encMag 3 7 0x7E .rne y).getD 0x7E)
           else none
         | none => none)
    | _, _ => none
  let rec insert (x : Nat × Nat × Nat × Nat) : List (Nat × Nat × Nat × Nat) → List (Nat × Nat × Nat × Nat)
    | [] => [x]
    | y :: r => if y.2.1 * x.2.2.1 < x.2.1 * y.2.2.1 then x :: y :: r else y :: insert x r
  ((cand.foldl (fun l x => insert x l) []).take slots).map fun (i, _, _, c) => (i, c)

/-- The bobble slot word of a used slot (R57). -/
def bobSlot (i c : Nat) : Nat := 0x8000 + i % 32 * 256 + c % 256

/-- The bobble that applies to an element: the earliest valid slot that names it (R60). -/
def bobbleOf (slots : List Nat) (i : Nat) : Option Nat :=
  (slots.find? fun w => bitOf w 15 && fld w 8 5 = i).map fun w => fld w 0 8

/-- Does reading the block's slots set FMT? A later valid slot repeats an element (R60). -/
def bobblesFmt : List Nat → Bool
  | [] => false
  | w :: t => (bitOf w 15 && t.any fun v => bitOf v 15 && fld v 8 5 = fld w 8 5) || bobblesFmt t

/-- The exact stored value of an element: bobble value or code value, times the scale (R41, R60). -/
def elemVal (f : Fmt) (scale code : Nat) (bob : Option Nat) : Val :=
  if scale = 0xFF ∧ f.scaled then .nan
  else match bob with
    | some c => (Fmt.decode .e4m3 c).scale ((scale : Int) - 127)
    | none => if f.scaled then scaledVal f scale code else f.decode code

/-! ### Gauge tags (R50, R51) -/

/-- The gauge of a list of stored values, before clamping. -/
def gaugeOf (vs : List Val) : Option Int := maxI (vs.filterMap Val.gauge)

/-- The tag byte of a block's stored values (R50). -/
def tagByte (vs : List Val) : Nat :=
  match gaugeOf vs with
  | none => 0
  | some g => (max (-127) (min 128 g) + 127).toNat

/-- The gauge a tag byte stands for. -/
def tagGauge (b : Nat) : Int := (b : Int) - 127

/-! ### Selvedge-64 (R36, R37) -/

/-- Stored value of a Selvedge-64 code under block exponent E. -/
def selvVal (E : Int) (code : Nat) : Val := (Fmt.decode .selv code).scale E

/-- Header bits [31:0]: gauge and exponent. -/
def selvHeader (g : Option Int) (E : Int) : Nat :=
  toTwos 16 E + 2 ^ 16 * (match g with | none => 0x8000 | some g => toTwos 16 (min 32767 g))

/-- The block exponent of a header. -/
def selvE (h : Nat) : Int := sext (fld h 0 16) 16
/-- The block gauge of a header, none when it holds no nonzero finite element. -/
def selvG (h : Nat) : Option Int := if fld h 16 16 = 0x8000 then none else some (sext (fld h 16 16) 16)

/-- The exact gauge of a value about to be written. -/
def Ex.gauge : Ex → Option Int
  | .num _ m => if m.isZero then none else some (magLog m + 1)
  | _ => none

/-- The block exponent of a Selvedge-64 write: 62 below the gauge of the block's finite values (R37; `Ex.over` has no gauge,
log 41). -/
def selvExp (xs : List Ex) : Int :=
  match maxI (xs.filterMap Ex.gauge) with
  | none => 0
  | some g => max (-32768) (min 32767 (g - 62))

/-- One element of a Selvedge-64 write under block exponent E (R37, R48): its code and whether it saturated. An element the write
does not cover (`new` false) rounds by nearest even and keeps its special codes. -/
def selvCode (infMode : Bool) (E : Int) (x : Ex × Rnd × Bool) : Nat × Bool :=
  match x.1 with
  | .nan => (0x8000000000000000, false)
  | .inf n | .over n _ =>
    if x.2.2 && !infMode then (toTwos 64 (signed n (2 ^ 63 - 2)), true)
    else (if n then 0x8000000000000001 else 0x7FFFFFFFFFFFFFFF, false)
  | .num n m =>
    let q := roundAt (if x.2.2 then x.2.1 else .rne) m E
    if 2 ^ 63 - 2 < q then
      (if infMode then (if n then 0x8000000000000001 else 0x7FFFFFFFFFFFFFFF, false)
       else (toTwos 64 (signed n (2 ^ 63 - 2)), true))
    else (toTwos 64 (signed n q), false)

/-- A Selvedge-64 block written whole (R37): new values round by their choice, values the write does not
cover (`false`) by nearest even. Answers header, codes and SAT. -/
def writeSelv (infMode : Bool) (xs : List (Ex × Rnd × Bool)) : Nat × List Nat × Bool :=
  let E := selvExp (xs.map (·.1))
  let cs := xs.map (selvCode infMode E)
  (selvHeader (gaugeOf (cs.map fun c => selvVal E c.1)) E, cs.map (·.1), cs.any (·.2))

/-! ### Quantisation-error monitor (R61, R62) -/

/-- One element's terms of Sb and Eb in units of 2^−32: the input, its scale exponent, the stored value
relative to the scale. -/
def qeTerm (x : Ex) (s : Int) (c : Val) : Nat × Nat :=
  match x, c with
  | .num neg m, .fin cn cm ce =>
    let lim : Int := 2 ^ 33 - 1
    let a := max (-lim) (min lim (rneInt neg (m.scale (-s)) (-16)))
    let cc : Int := signed cn (cm * 2 ^ (ce + 16).toNat)
    ((a * a).toNat, ((a - cc) * (a - cc)).toNat)
  | _, _ => (0, 0)

/-- A block term brought to units of 2^−288 (R61). -/
def qeScale (b : Nat) (s : Int) : Nat := b * 2 ^ (2 * s + 256).toNat

/-- Does the monitor raise its event? E × 2^θ > S (R62). -/
def qeRaises (S E θ : Nat) : Bool := S < E * 2 ^ θ

end Sys2Proof.Machine
end

