-- ==== Sys2Proof/Machine/Fp32.lean ====
section
/-! DEFINITION. The FP32 operations inside functions and update programs (R179): binary32, nearest even,
subnormals kept, overflow to infinity, every NaN result 0x7FC0_0000. Values are kept decoded. -/
namespace Sys2Proof.Machine

/-- Round an exact intermediate to FP32, infinity mode: the stored code. -/
def f32Code (x : Ex) : Nat := (Fmt.encElem .fp32 { inf := true, wrap := false } false 0 .rne x).code

/-- Round an exact intermediate to an FP32 value. -/
def f32 (x : Ex) : Val := Fmt.decode .fp32 (f32Code x)

/-- The value of an FP32 code. -/
def ofF32 (c : Nat) : Val := Fmt.decode .fp32 (c % 2 ^ 32)

/-- The FP32 code of a value that FP32 holds. -/
def toF32 (v : Val) : Nat := f32Code v.toEx

/-- FP32 addition (R179). -/
def f32Add (a b : Val) : Val := f32 (a.add b).toEx
/-- FP32 subtraction. -/
def f32Sub (a b : Val) : Val := f32 (a.add b.neg).toEx
/-- FP32 multiplication. -/
def f32Mul (a b : Val) : Val := f32 (a.mul b).toEx
/-- FP32 fused multiply-add, one rounding. -/
def f32Fma (a b c : Val) : Val := f32 ((a.mul b).add c).toEx

/-- The exact reciprocal with the special inputs of R181 (R186). -/
def exRecip : Val → Ex
  | .nan => .nan
  | .inf n => .num n (.rat 0 1)
  | .fin n m e => if m = 0 then .inf n else .num n (.rat (pow2den e) (m * pow2num e))

/-- The exact reciprocal square root (R181, R186). -/
def exRsqrt : Val → Ex
  | .nan => .nan
  | .inf n => if n then .nan else .num false (.rat 0 1)
  | .fin n m e => if m = 0 then .inf n else if n then .nan else .num false (.sqrt (pow2den e) (m * pow2num e))

/-- The exact square root (R181, R186). -/
def exSqrt : Val → Ex
  | .nan => .nan
  | .inf n => if n then .nan else .inf false
  | .fin n m e => if m = 0 then .num n (.rat 0 1) else if n then .nan else .num false (.sqrt (m * pow2num e) (pow2den e))

/-- A^t with the special operands of IEEE 754 pown for t ≥ 1 (R253), rounded once to FP32. -/
def f32Pow (a : Val) (t : Nat) : Val :=
  match a with
  | .nan => if t = 0 then .fin false 1 0 else .nan
  | .inf n => if t = 0 then .fin false 1 0 else .inf (n && t % 2 = 1)
  | .fin n m e =>
    if t = 0 then .fin false 1 0
    else f32 (Val.fin (n && t % 2 = 1) (m ^ t) (if m = 0 then 0 else e * t)).toEx

end Sys2Proof.Machine
end

