-- ==== Sys2Proof/Machine/Skein.lean ====
section
/-! DEFINITION. Skein accumulators and the anchored grid (spec/03, R67 to R107), the compare-mode words
(R121, R191 to R195), and the contributions of two operand slices (R72, R73, R115). -/
namespace Sys2Proof.Machine

/-- A Skein word (R67). -/
abbrev SkeinW := BitVec 196

/-- A Skein word taken apart: the special-state bits and ACC as an integer (R67). -/
structure Sk where
  nan : Bool
  pinf : Bool
  ninf : Bool
  sat : Bool
  acc : Int
  deriving DecidableEq, Repr

/-- The fields of a Skein word. -/
def Sk.of (w : SkeinW) : Sk :=
  { nan := w.getLsbD 195, pinf := w.getLsbD 194, ninf := w.getLsbD 193, sat := w.getLsbD 192
    acc := sext (BV.fld w 0 192) 192 }

/-- The Skein word of its fields; ACC wraps at 192 bits. -/
def Sk.toW (k : Sk) : SkeinW :=
  BitVec.ofNat 196 (toTwos 192 k.acc + 2 ^ 192 * (k.sat.toNat + 2 * k.ninf.toNat + 4 * k.pinf.toNat + 8 * k.nan.toNat))

/-- The identity of the exact sum: a cleared Skein. -/
def Sk.zero : Sk := { nan := false, pinf := false, ninf := false, sat := false, acc := 0 }

/-- Exact combination: integer addition and OR of the special-state bits (R74). -/
def Sk.add (a b : Sk) : Sk :=
  { nan := a.nan || b.nan, pinf := a.pinf || b.pinf, ninf := a.ninf || b.ninf, sat := a.sat || b.sat
    acc := a.acc + b.acc }

/-- The integer width W of a precision class code (R68). -/
def clsW (c : Nat) : Int := if c = 0 then 192 else if c = 1 then 96 else 128
/-- The headroom G of a precision class code (R68). -/
def clsG (c : Nat) : Int := if c = 0 then 48 else if c = 1 then 32 else 40
/-- The grid least significant bit L = T + G − W + 1 (R84). -/
def gridL (c : Nat) (T : Int) : Int := T + clsG c - clsW c + 1
/-- 2^(W − G − 1), the magnitude at which a contribution has reached 2^T (R85). -/
def climbLim (c : Nat) : Nat := 2 ^ (clsW c - clsG c - 1).toNat

/-! ### Anchor records (R81) -/

/-- An anchor record taken apart. -/
structure Anc where
  climb : Bool
  valid : Bool
  cls : Nat
  epoch : Nat
  T : Int
  deriving DecidableEq, Repr

/-- The fields of an anchor record. -/
def Anc.of (w : BitVec 32) : Anc :=
  { climb := w.getLsbD 31, valid := w.getLsbD 30, cls := BV.fld w 20 2, epoch := BV.fld w 16 4
    T := sext (BV.fld w 0 16) 16 }

/-- The anchor record of its fields; reserved bits 0. -/
def Anc.toW (a : Anc) : BitVec 32 :=
  BitVec.ofNat 32 (toTwos 16 a.T + 2 ^ 16 * (a.epoch % 16) + 2 ^ 20 * (a.cls % 4) + 2 ^ 30 * a.valid.toNat + 2 ^ 31 * a.climb.toNat)

/-- An anchor raised by 16 at the end of an epoch, 32,767 at most; CLIMB falls (R91, R94). -/
def Anc.rise (a : Anc) : Anc := { a with T := min 32767 (a.T + 16), climb := false, epoch := (a.epoch + 1) % 16 }

/-! ### Contributions -/

/-- One contribution: special-state bits and, when finite, an exact value (R72, R73). -/
structure Contrib where
  nan : Bool
  pinf : Bool
  ninf : Bool
  sig : Int
  exp : Int
  deriving DecidableEq, Repr

/-- The contribution of one decoded value: a preload or an input element (R73). -/
def Contrib.ofVal (v : Val) : Contrib :=
  match v with
  | .nan => { nan := true, pinf := false, ninf := false, sig := 0, exp := 0 }
  | .inf n => { nan := false, pinf := !n, ninf := n, sig := 0, exp := 0 }
  | .fin n m e => { nan := false, pinf := false, ninf := false, sig := signed n m, exp := e }

/-- Two contributions of one block partial joined: exact sum, OR of bits (R73). -/
def Contrib.join (a b : Contrib) : Contrib :=
  let (s, e) := dyAdd a.sig a.exp b.sig b.exp
  { nan := a.nan || b.nan, pinf := a.pinf || b.pinf, ninf := a.ninf || b.ninf, sig := s, exp := if s = 0 then 0 else e }

/-- A contribution rounded once onto the grid and tested for the climb (R84, R85, R94): what is added to
the Skein, and whether CLIMB is set. At the ceiling it is added as a stand-in with SAT. -/
def Contrib.round (c : Contrib) (a : Anc) : Sk × Bool :=
  let i := rneInt (decide (c.sig < 0)) (magDy c.sig.natAbs c.exp) (gridL a.cls a.T)
  let lim : Int := climbLim a.cls
  let bits : Sk := { nan := c.nan, pinf := c.pinf, ninf := c.ninf, sat := false, acc := 0 }
  if i.natAbs < climbLim a.cls then ({ bits with acc := i }, false)
  else if a.T = 32767 then ({ bits with acc := if i < 0 then -(lim - 1) else lim - 1, sat := true }, false)
  else (bits, true)

/-- An element of a slice: value relative to its scale, and its scale exponent (0 where unscaled); a NaN
element or a NaN-marked block reads NaN. -/
structure SlEl where
  v : Val
  s : Int
  deriving DecidableEq, Repr

/-- The exact product of two slice elements as a contribution (R72, R73). -/
def prodContrib (a b : SlEl) : Contrib :=
  Contrib.ofVal ((a.v.mul b.v).scale (a.s + b.s))

/-- Split a list in runs of n. -/
def runs {α : Type} (n : Nat) : Nat → List α → List (List α)
  | 0, _ => []
  | _ + 1, [] => []
  | k + 1, l => l.take n :: runs n k (l.drop n)

/-- The contributions of one slice pair (R72): block partials of `blk` products when both operands carry
scale blocks along the contracted axis, else one product each. -/
def sliceContribs (blk : Option Nat) (a b : List SlEl) : List Contrib :=
  let ps := (a.zip b).map fun (x, y) => prodContrib x y
  match blk with
  | none => ps
  | some n => (runs n (ps.length + 1) ps).map fun r =>
      r.foldl Contrib.join { nan := false, pinf := false, ninf := false, sig := 0, exp := 0 }

/-- All contributions of a slice pair rounded and summed: the addend of the Skein and whether one climbed
(R113, R114). -/
def sliceSum (an : Anc) (cs : List Contrib) : Sk × Bool :=
  cs.foldl (fun (k, cl) c => let (d, x) := c.round an; (k.add d, cl || x)) (Sk.zero, false)

/-! ### Drain values (R95, R96) -/

/-- What a drain writes, before the destination's rules: steps 1 to 4 of R95, with 2^ls the loss-scale
factor (R235). -/
def Sk.drain (k : Sk) (cls : Nat) (T : Int) (ls : Int) : Ex :=
  if k.nan || (k.pinf && k.ninf) then .nan
  else if k.pinf then .inf false
  else if k.ninf then .inf true
  else if k.sat then .over (decide (k.acc < 0)) false
  else .num (decide (k.acc < 0)) (magDy k.acc.natAbs (gridL cls T + ls))

/-! ### Compare words (R121, R193, R194) -/

/-- A compare-mode Skein taken apart: the held winner and its index. -/
structure Cmp where
  nan : Bool
  pinf : Bool
  ninf : Bool
  held : Bool
  idx : Nat
  sign : Bool
  exp : Int
  sig : Nat
  deriving DecidableEq, Repr

/-- The fields of a compare word (R121). -/
def Cmp.of (w : SkeinW) : Cmp :=
  { nan := w.getLsbD 195, pinf := w.getLsbD 194, ninf := w.getLsbD 193, held := w.getLsbD 192
    idx := BV.fld w 128 64, sign := w.getLsbD 34, exp := sext (BV.fld w 24 10) 10, sig := BV.fld w 0 24 }

/-- The compare word of its fields. -/
def Cmp.toW (c : Cmp) : SkeinW :=
  BitVec.ofNat 196 (c.sig % 2 ^ 24 + 2 ^ 24 * toTwos 10 c.exp + 2 ^ 34 * c.sign.toNat + 2 ^ 128 * (c.idx % 2 ^ 64)
    + 2 ^ 192 * (c.held.toNat + 2 * c.ninf.toNat + 4 * c.pinf.toNat + 8 * c.nan.toNat))

/-- The winner of a compare word; NaN when the mark is set. -/
def Cmp.val (c : Cmp) : Val :=
  if c.nan then .nan else if c.pinf then .inf false else if c.ninf then .inf true
  else .fin c.sign c.sig (if c.sig = 0 then 0 else c.exp - 23)

/-- The key fields of a finite winner: sign, exponent, 24-bit significand with bit 23 set, or zero (R121). -/
def cmpKey (v : Val) : Bool × Int × Nat :=
  match v with
  | .fin n m e =>
    if m = 0 then (n, 0, 0)
    else
      let l := lg m
      (n, (l : Int) + e, if l ≤ 23 then m * 2 ^ (23 - l) else m / 2 ^ (l - 23))
  | _ => (false, 0, 0)

/-- One compare update with an element (v, i), in the order of R193. `isMax` picks the operation. -/
def Cmp.upd (isMax : Bool) (c : Cmp) (v : Val) (i : Nat) : Cmp :=
  let beats : Bool := if isMax then c.val.lt v else v.lt c.val
  let c' : Cmp :=
    if v = .nan then
      (if c.nan then { c with idx := min c.idx i }
       else { c with nan := true, pinf := false, ninf := false, sign := false, exp := 0, sig := 0, idx := i })
    else if c.nan then c
    else if !c.held || beats then
      let (sg, e, m) := cmpKey v
      { nan := false, pinf := v = .inf false, ninf := v = .inf true, held := c.held, idx := i, sign := sg, exp := e, sig := m }
    else if c.val.eqv v then { c with idx := min c.idx i }
    else c
  { c' with held := true }

/-- Two compare words combined; a word with HELD clear is the identity (R194). -/
def Cmp.comb (isMax : Bool) (a b : Cmp) : Cmp := if b.held then a.upd isMax b.val b.idx else a

/-- What a winner-value drain writes (R195, R121). -/
def Cmp.drainVal (c : Cmp) : Ex := if c.held then c.val.toEx else .num false (.rat 0 1)

/-- What a winner-index drain writes: IDX as a signed integer, −1 when HELD is clear (R195). -/
def Cmp.drainIdx (c : Cmp) : Ex :=
  let i : Int := if c.held then sext c.idx 64 else -1
  .num (decide (i < 0)) (.rat i.natAbs 1)

/-! ### Forerunner order (R103 to R107) -/

/-- Group size and permitted operand formats of a forerunner shape code (R105). -/
def shapeGroup (c : Nat) : Option (Nat × List Fmt) :=
  match c with
  | 0 => some (16, [.e4m3, .e5m2]) | 1 => some (8, [.e4m3, .e5m2]) | 2 => some (8, [.e4m3, .e5m2])
  | 3 => some (8, [.bf16, .fp16]) | 4 => some (4, [.bf16, .fp16]) | 5 => some (4, [.fp32]) | _ => none

/-- Pairwise tree sum of binary32 values, every addition rounded (R106); k levels. -/
def treeSum : Nat → List Val → List Val
  | 0, l => l
  | k + 1, l =>
    let rec pairs : List Val → List Val
      | a :: b :: t => f32Add a b :: pairs t
      | r => r
    treeSum k (pairs l)

/-- One slice's groups added in order into the binary32 accumulator (R104). -/
def foreStep (g : Nat) (acc : Val) (ps : List Val) : Val :=
  (runs g (ps.length + 1) ps).foldl
    (fun a r => f32Add a (nth Val.zero (treeSum (lg g) (padTo Val.zero g r)) 0)) acc

/-- The products of a slice pair, each rounded once to binary32 (R104). -/
def foreProds (a b : List SlEl) : List Val :=
  (a.zip b).map fun (x, y) => f32 ((x.v.mul y.v).scale (x.s + y.s)).toEx

end Sys2Proof.Machine
end

