-- ==== Sys2Proof/Machine/ElemFn.lean ====
section
/-! DEFINITION. Bit-exact element functions (spec/06, R177 to R192): tables, fixed-point algorithms,
composite sequences and the special-input table. -/
namespace Sys2Proof.Machine

/-! ### Tables (R183): each entry is the stated value rounded to nearest, evaluated with 256 fraction bits -/

/-- Fraction bits of the table evaluations. -/
def tabP : Nat := 256

/-- arctan(1/k) with tabP fraction bits: n terms of its series. -/
def atanInv (k : Nat) : Nat → Int → Nat → Int → Int
  | 0, _, _, acc => acc
  | n + 1, t, d, acc => atanInv k n (-(t / (k * k : Nat))) (d + 2) (acc + t / (d : Int))

/-- π with tabP fraction bits, by Machin's formula. -/
def piFix : Nat :=
  let at' (k : Nat) : Int := atanInv k 200 (2 ^ tabP / (k : Int)) 1 0
  (16 * at' 5 - 4 * at' 239).toNat

/-- Alternating power series Σ (−1)^i t_i with t_{i+1} = t_i × y / ((d+1)(d+2)) in fixed point: sine and
cosine. -/
def trigGo (y : Nat) : Nat → Int → Nat → Int → Int
  | 0, _, _, acc => acc
  | n + 1, t, d, acc =>
    trigGo y n (-(t * y / 2 ^ tabP / (((d + 1) * (d + 2) : Nat) : Int))) (d + 2) (acc + t)

/-- sin of an angle in fixed point. -/
def sinFix (x : Nat) : Int := trigGo (x * x / 2 ^ tabP) 60 x 1 0

/-- SIN_S: sin(πj/512) × 2^63 to nearest. -/
def sinS (j : Nat) : Nat :=
  if j = 0 then 0 else if 256 ≤ j then 2 ^ 63 else
  rneAt (.rat (sinFix (piFix * j / 512)).toNat (2 ^ tabP)) (-63)

/-- SIN_C: cos(πj/512) × 2^63 to nearest; cos is sin of the complement. -/
def sinC (j : Nat) : Nat := sinS (256 - j)

/-- EXP_T: 2^(j/64) × 2^31 to nearest, from the floor of the 64th root of 2^(j + 64 × 32). -/
def expT (j : Nat) : Nat :=
  let y := isqrt (isqrt (isqrt (isqrt (isqrt (isqrt (2 ^ (j + 64 * 32)))))))
  (y + 1) / 2

/-- Bits of log2 of x in [1, 2), x with tabP fraction bits, by repeated squaring. -/
def logGo : Nat → Nat → Nat → Nat
  | 0, _, acc => acc
  | n + 1, x, acc =>
    let y := x * x / 2 ^ tabP
    if 2 * 2 ^ tabP ≤ y then logGo n (y / 2) (2 * acc + 1) else logGo n y (2 * acc)

/-- LOG_B: log2(1 + j/64) × 2^32 to nearest. -/
def logB (j : Nat) : Nat := (logGo 33 ((64 + j) * 2 ^ tabP / 64) 0 + 1) / 2

/-- LOG_C: 2^32 / (1 + j/64) to nearest, ties to even. -/
def logC (j : Nat) : Nat := rneAt (.rat (2 ^ 38) (64 + j)) 0

/-- e^(−y) for y with tabP fraction bits: series terms. -/
def expNegGo (y : Nat) : Nat → Int → Nat → Int → Int
  | 0, _, _, acc => acc
  | n + 1, t, i, acc => expNegGo y n (-(t * y / 2 ^ tabP / ((i + 1 : Nat) : Int))) (i + 1) (acc + t)

/-- erf series Σ (−1)^i x^(2i+1) / (i! (2i+1)). -/
def erfGo (y : Nat) : Nat → Int → Nat → Int → Int
  | 0, _, _, acc => acc
  | n + 1, t, i, acc =>
    erfGo y n (-(t * y / 2 ^ tabP / ((i + 1 : Nat) : Int))) (i + 1) (acc + t / ((2 * i + 1 : Nat) : Int))

/-- 2/√π with tabP fraction bits. -/
def twoOverSqrtPi : Nat := 2 * 2 ^ tabP * 2 ^ tabP / isqrt (piFix * 2 ^ tabP)

/-- x_j = j/64 in fixed point. -/
def erfX (j : Nat) : Nat := j * 2 ^ tabP / 64

/-- A fixed-point number as an FP32 value. -/
def fixF32 (i : Int) : Val := f32 (.num (decide (i < 0)) (.rat i.natAbs (2 ^ tabP)))

/-- ERF_D1 before rounding: γ_j = (2/√π) e^(−x²). -/
def erfGamma (j : Nat) : Int := expNegGo (erfX j * erfX j / 2 ^ tabP) 200 (2 ^ tabP) 0 0 * twoOverSqrtPi / 2 ^ tabP

/-- ERF_D0: FP32 of erf(x_j). -/
def erfD0 (j : Nat) : Val :=
  fixF32 (erfGo (erfX j * erfX j / 2 ^ tabP) 200 (erfX j) 0 0 * twoOverSqrtPi / 2 ^ tabP)
/-- ERF_D1: FP32 of γ_j. -/
def erfD1 (j : Nat) : Val := fixF32 (erfGamma j)
/-- ERF_D2: FP32 of −x_j γ_j. -/
def erfD2 (j : Nat) : Val := fixF32 (-(erfGamma j * erfX j / 2 ^ tabP))
/-- ERF_D3: FP32 of ((2x² − 1)/3) γ_j. -/
def erfD3 (j : Nat) : Val :=
  fixF32 ((2 * (erfX j * erfX j / 2 ^ tabP : Nat) - (2 ^ tabP : Nat) : Int) * erfGamma j / 2 ^ tabP / 3)

/-! ### exp2 and log2 -/

/-- ⌊x × 2^k⌋ of a finite value, as an integer. -/
def floorInt (neg : Bool) (m : Nat) (e : Int) (k : Int) : Int :=
  Int.fdiv (signed neg m * pow2num (e + k)) (pow2den (e + k))

/-- The exp2 intermediate of a value (R181, R184). At 256 and above it is a multiple of 2^225, so every integer destination in
wrap mode takes 0 from it (log 40). -/
def exExp2 : Val → Ex
  | .nan => .nan
  | .inf n => if n then .num false (.rat 0 1) else .inf false
  | .fin neg m0 e0 =>
    let X := floorInt neg m0 e0 32
    let n := Int.fdiv X (2 ^ 32)
    let f := (X - n * 2 ^ 32).toNat
    if 256 ≤ n then .over false true
    else if n < -256 ∨ (n = -256 ∧ neg ∧ (magDy m0 e0 = magDy 256 0 ∨ magLe (magDy 256 0) (magDy m0 e0))) then .num false (.rat 0 1)
    else
      let j := f / 2 ^ 26
      let r := f % 2 ^ 26
      let q := 0x0E35846B * r / 2 ^ 32 + 0x3D7F7BFF
      let q := q * r / 2 ^ 32 + 0xB17217F8
      let p := q * r / 2 ^ 32
      let m := expT j + expT j * p / 2 ^ 32
      .num false (magDy m (n - 31))

/-- y of R185 for a positive finite value m × 2^e: the log2 intermediate in units of 2^−32. -/
def log2Fix (m : Nat) (e0 : Int) : Int :=
  let l := lg m
  let e : Int := (l : Int) + e0
  let mf := m * 2 ^ 32 / 2 ^ l - 2 ^ 32
  let j := mf / 2 ^ 26
  let t := mf % 2 ^ 26
  let u : Int := (t * logC j / 2 ^ 32 : Nat)
  let sh (a : Int) (k : Nat) : Int := Int.fdiv a (2 ^ k)
  let q : Int := sext 0xE8EAB89B 32
  let q := sext 0x1EC709DC 32 + sh (q * u) 32
  let q := sext 0xD1D57136 32 + sh (q * u) 32
  let q := sext 0x5C551D95 32 + sh (q * u) 32
  e * 2 ^ 32 + logB j + sh (q * u) 30

/-- The log2 intermediate (R181, R185). -/
def exLog2 : Val → Ex
  | .nan => .nan
  | .inf n => if n then .nan else .inf false
  | .fin neg m e =>
    if m = 0 then .inf true else if neg then .nan
    else let y := log2Fix m e; .num (decide (y < 0)) (magDy y.natAbs (-32))

/-! ### sin and cos of a fixed-point angle (R187, R188) -/

/-- v and its sign for an angle in units of 2^−64 turn (R188). -/
def sinTurn (th : Nat) : Bool × Nat :=
  let qd := th / 2 ^ 62 % 4
  let phi := th % 2 ^ 62
  let phi := if qd % 2 = 1 then 2 ^ 62 - phi else phi
  let j := phi / 2 ^ 54
  let h := phi % 2 ^ 54
  let b := h * 0xC90FDAA22168C235 / 2 ^ 61
  let b2 := b * b / 2 ^ 64
  let b3 := b2 * b / 2 ^ 64
  let sb := (b - b3 * 0x2AAAAAAAAAAAAAAB / 2 ^ 64) / 2
  let cb := 2 ^ 63 - b2 / 4
  (2 ≤ qd, (sinS j * cb + sinC j * sb) / 2 ^ 63)

/-- The signed exact sine of an angle as a value; a zero result is +0. -/
def sinVal (th : Nat) : Val :=
  let (n, v) := sinTurn th
  .fin (n && v ≠ 0) v (-63)

/-- Codes 0x1A and 0x1B: the position p must be an integer from 0 to 2^24 (R187). -/
def exSinCos (isCos : Bool) (x : Val) (omega : Nat) : Ex :=
  match x with
  | .fin neg m e =>
    let n := m * pow2num e
    let d := pow2den e
    if n % d ≠ 0 ∨ (neg ∧ n ≠ 0) ∨ 2 ^ 24 < n / d then .nan
    else (sinVal ((n / d * omega + (if isCos then 2 ^ 62 else 0)) % 2 ^ 64)).toEx
  | _ => .nan

/-! ### Composite functions (R189, R190) -/

/-- exp2_32: code 0x10 to FP32, nearest even, infinity mode (R179). -/
def exp2f (v : Val) : Val := f32 (exExp2 v)
/-- recip_32. -/
def recipf (v : Val) : Val := f32 (exRecip v)

/-- The absolute value. -/
def Val.abs : Val → Val
  | .fin _ m e => .fin false m e
  | .inf _ => .inf false
  | .nan => .nan
/-- The sign bit. -/
def Val.sgn : Val → Bool
  | .fin n _ _ => n
  | .inf n => n
  | .nan => false
/-- The value with a sign attached. -/
def Val.withSign (n : Bool) (v : Val) : Val := if n then v.abs.neg else v.abs

/-- tanh of a finite FP32 value (R189). -/
def tanhSeq (x : Val) : Val :=
  let a := x.abs
  if a.lt (ofF32 0x3D800000) then
    let s := f32Mul x x
    let q := f32Fma s (ofF32 0x3E088889) (ofF32 0xBEAAAAAB)
    let q := f32Mul q s
    f32Fma x q x
  else
    let e := exp2f (f32Mul a (ofF32 0xC038AA3B))
    let one := ofF32 0x3F800000
    (f32Mul (f32Sub one e) (recipf (f32Add one e))).withSign x.sgn

/-- tanh_32 with the special inputs of R181. -/
def tanhf (x : Val) : Val :=
  match x with
  | .nan => .nan
  | .inf n => .fin n 1 0
  | .fin n m _ => if m = 0 then .fin n 0 0 else tanhSeq x

/-- Sigmoid (R181, R189). -/
def sigmoidf (x : Val) : Val :=
  match x with
  | .nan => .nan
  | .inf n => if n then .zero else .fin false 1 0
  | .fin _ m _ =>
    if m = 0 then .fin false 1 (-1)
    else recipf (f32Add (ofF32 0x3F800000) (exp2f (f32Mul x (ofF32 0xBFB8AA3B))))

/-- GELU in tanh form (R181, R189). -/
def geluf (x : Val) : Val :=
  match x with
  | .nan => .nan
  | .inf n => if n then .fin true 0 0 else .inf false
  | .fin n m _ =>
    if m = 0 then .fin n 0 0 else
    let p := f32Mul (f32Mul x x) (ofF32 0x3D372713)
    let a := f32Mul (f32Fma p x x) (ofF32 0x3F4C422A)
    f32Mul (f32Mul x (ofF32 0x3F000000)) (f32Add (ofF32 0x3F800000) (tanhf a))

/-- SiLU (R181, R189). -/
def siluf (x : Val) : Val :=
  match x with
  | .nan => .nan
  | .inf n => if n then .fin true 0 0 else .inf false
  | .fin n m _ => if m = 0 then .fin n 0 0 else f32Mul x (sigmoidf x)

/-- erf by table and cubic (R181, R190). -/
def erff (x : Val) : Val :=
  match x with
  | .nan => .nan
  | .inf n => .fin n 1 0
  | .fin n m e =>
    if m = 0 then .fin n 0 0
    else if !(x.abs.lt (.fin false 4 0)) then .fin n 1 0
    else
      let j := (floorAt (magDy m e) (-6)).1
      let h := f32Sub x.abs (.fin false j (-6))
      (f32Fma h (f32Fma h (f32Fma h (erfD3 j) (erfD2 j)) (erfD1 j)) (erfD0 j)).withSign n

/-- The intermediate of an element-unit function code (R155, R178, R180, R181): x the decoded input, the
immediates as FP32 codes, μ and ρ of the Norm group. Code 0x07 and the reserved codes are not here. -/
def elemFn (code : Nat) (x : Val) (a b : Nat) (mu rho : Val) : Ex :=
  let A := ofF32 a
  let B := ofF32 b
  match code with
  | 0x00 => x.toEx
  | 0x01 => (x.add A).toEx
  | 0x02 => (x.mul A).toEx
  | 0x03 => ((x.mul A).add B).toEx
  | 0x04 => (x.max A).toEx
  | 0x05 => (x.min A).toEx
  | 0x06 => ((x.add mu.neg).mul rho).toEx
  | 0x10 => exExp2 x
  | 0x11 => exLog2 x
  | 0x12 => exRecip x
  | 0x13 => exRsqrt x
  | 0x14 => exSqrt x
  | 0x15 => (tanhf (f32 x.toEx)).toEx
  | 0x16 => (sigmoidf (f32 x.toEx)).toEx
  | 0x17 => (geluf (f32 x.toEx)).toEx
  | 0x18 => (siluf (f32 x.toEx)).toEx
  | 0x19 => (erff (f32 x.toEx)).toEx
  | 0x1A => exSinCos false x (a % 2 ^ 32 * 2 ^ 32 + b % 2 ^ 32)
  | 0x1B => exSinCos true x (a % 2 ^ 32 * 2 ^ 32 + b % 2 ^ 32)
  | _ => .nan

/-- Transcendental codes take the 20-cycle path at 16 lanes per cycle (R155, R135). -/
def isTrans (code : Nat) : Bool := 0x10 ≤ code ∧ code ≤ 0x1B

/-- Function codes that exist (R155). -/
def elemCodeOk (code : Nat) : Bool := code ≤ 0x07 ∨ (0x10 ≤ code ∧ code ≤ 0x1B)

/-! ### Norm groups (R196 to R200) -/

/-- One Norm group: sums in units of 2^−149 and 2^−298, count, marks, results (R197). -/
structure NormG where
  s1 : Int := 0
  s2 : Nat := 0
  n : Nat := 0
  mNan : Bool := false
  mPinf : Bool := false
  mNinf : Bool := false
  mOvf : Bool := false
  mu : BitVec 32 := 0
  var : BitVec 32 := 0
  rho : BitVec 32 := 0
  deriving DecidableEq, Repr

/-- One element accumulated (R197). -/
def NormG.acc1 (g : NormG) (v : Val) : NormG :=
  let g := match v with
    | .nan => { g with mNan := true }
    | .inf n => if n then { g with mNinf := true } else { g with mPinf := true }
    | .fin n m e =>
      let k := m * 2 ^ (e + 149).toNat
      { g with s1 := g.s1 + signed n k, s2 := g.s2 + k * k }
  if g.n + 1 ≤ 2 ^ 32 - 1 then { g with n := g.n + 1 } else { g with mOvf := true }

/-- Finish: μ, V and ρ from the exact sums (R198, R199). ε is a BF16 code. -/
def NormG.finish (g : NormG) (eps : Nat) : NormG :=
  let set (a b c : Ex) : NormG :=
    { g with mu := BitVec.ofNat 32 (f32Code a), var := BitVec.ofNat 32 (f32Code b), rho := BitVec.ofNat 32 (f32Code c) }
  let rsq (vn vd : Nat) : Ex :=
    match Fmt.decode .bf16 eps with
    | .nan => .nan
    | .inf n => if n then .nan else .num false (.rat 0 1)
    | .fin n m e =>
      let num : Int := vn * pow2den e + signed n (m * pow2num e * vd)
      if num = 0 then .inf false else if num < 0 then .nan
      else .num false (.sqrt (vd * pow2den e) num.toNat)
  if g.mNan || g.mOvf || (g.mPinf && g.mNinf) then set .nan .nan .nan
  else if g.mPinf then set (.inf false) .nan .nan
  else if g.mNinf then set (.inf true) .nan .nan
  else if g.n = 0 then set (.num false (.rat 0 1)) (.num false (.rat 0 1)) (rsq 0 1)
  else
    let D := (g.n : Int) * g.s2 - g.s1 * g.s1
    let vd := g.n * g.n * 2 ^ 298
    set (.num (decide (g.s1 < 0)) (.rat g.s1.natAbs (g.n * 2 ^ 149))) (.num (decide (D < 0)) (.rat D.natAbs vd)) (rsq D.toNat vd)

end Sys2Proof.Machine
end

