-- ==== Sys2Proof/Machine/Tensor.lean ====
section
/-! DEFINITION. Tensors in memory (spec/11 R291 to R301, spec/02 R35 to R66, spec/07 R205 to R218): the record,
the layout of a copy, reading an element exactly, and the one operation that writes a row of exact values with its
scales, bobbles, gauge tags and shadow. Memory here is a sparse table of bytes at unit base 0x00. -/
namespace Sys2Proof.Machine

/-- A tensor record (R291): the fields a create carries, with what the module adds. The layout offsets are functions
of these (R295). -/
structure TRec where
  fmt : Reg64 := 0
  attn : Reg64 := 0
  upd : Reg64 := 0
  e0 : Nat := 1
  e1 : Nat := 1
  e2 : Nat := 1
  e3 : Nat := 1
  place : Nat := 0
  tid : Nat := 0
  gen : Nat := 0
  ctx : Nat := 0
  part : Nat := 0
  spill : Bool := false
  grad : Bool := false
  raw : Bool := false
  deriving DecidableEq, Repr

/-- The element format; a raw object counts as bytes (INT8 width). -/
def TRec.f (t : TRec) : Fmt := (FW.fmt t.fmt).getD .fp32
/-- Bits per element. -/
def TRec.width (t : TRec) : Nat := if t.raw then 8 else t.f.width
/-- H, the number of innermost rows (R295). -/
def TRec.rows (t : TRec) : Nat := t.e1 * t.e2 * t.e3
/-- Extent along an axis. -/
def TRec.ext (t : TRec) (a : Nat) : Nat := match a with | 0 => t.e0 | 1 => t.e1 | 2 => t.e2 | _ => t.e3
/-- Number of elements. -/
def TRec.elems (t : TRec) : Nat := t.e0 * t.rows
/-- Is the tensor block-scaled? -/
def TRec.scaled (t : TRec) : Bool := !t.raw && t.f.scaled
/-- Its scale block size. -/
def TRec.blk (t : TRec) : Nat := FW.block t.fmt
/-- The padding unit u of R295. -/
def TRec.unit (t : TRec) : Nat := if t.scaled then max 32 t.blk else 32
/-- Row pitch in bytes. -/
def TRec.pitch (t : TRec) : Nat :=
  if t.raw then alignUp t.e0 128 else alignUp (cdiv (alignUp t.e0 t.unit * t.width) 8) 128
/-- Is it Selvedge-64? -/
def TRec.selv (t : TRec) : Bool := !t.raw && t.f = .selv
/-- `SCALE_OFS`. -/
def TRec.scaleOfs (t : TRec) : Nat := alignUp (t.rows * t.pitch) 4096
/-- Scale blocks of one row, or Selvedge headers of one row. -/
def TRec.rowScales (t : TRec) : Nat := if t.scaled then cdiv t.e0 t.blk else if t.selv then cdiv t.e0 32 else 0
/-- Bytes of the scale area. -/
def TRec.scaleBytes (t : TRec) : Nat := t.rows * t.rowScales * (if t.selv then 8 else 1)
/-- `TAG_OFS`. -/
def TRec.tagOfs (t : TRec) : Nat := alignUp (t.scaleOfs + t.scaleBytes) 4096
/-- 32-element blocks of one row. -/
def TRec.rowBlocks (t : TRec) : Nat := cdiv t.e0 32
/-- Has the tensor a tag area? -/
def TRec.hasTags (t : TRec) : Bool := !t.raw && !t.selv
/-- `BOB_OFS`. -/
def TRec.bobOfs (t : TRec) : Nat := alignUp (t.tagOfs + (if t.hasTags then t.rows * t.rowBlocks else 0)) 4096
/-- Bobble slots per 32-element block. -/
def TRec.bobs (t : TRec) : Nat := if t.raw then 0 else FW.bobs t.fmt
/-- `SHD_OFS`. -/
def TRec.shdOfs (t : TRec) : Nat := alignUp (t.bobOfs + t.rows * t.rowBlocks * 2 * t.bobs) 4096
/-- `SH_EN`; a raw object has no shadow area (R293). -/
def TRec.shEn (t : TRec) : Bool := !t.raw && bitOf t.attn.toNat 31
/-- `ROT_EN`. -/
def TRec.rotEn (t : TRec) : Bool := !t.raw && bitOf t.attn.toNat 29
/-- Shadow block size (R206). -/
def TRec.shBlk (t : TRec) : Nat := if t.scaled then t.blk else 32
/-- Code bytes of one vector's shadow. -/
def TRec.shCodes (t : TRec) : Nat := cdiv t.e0 2
/-- Scale bytes of one vector's shadow: one for each shadow block, a part block at the row's end included (R206; DEDUCED, log 67). -/
def TRec.shScales (t : TRec) : Nat := cdiv t.e0 t.shBlk
/-- Bytes of one vector's shadow. -/
def TRec.shVec (t : TRec) : Nat := t.shCodes + t.shScales + 1
/-- `END_OFS`. -/
def TRec.endOfs (t : TRec) : Nat := if t.shEn then t.shdOfs + t.rows * t.shVec else t.shdOfs
/-- `PAGES` per copy. -/
def TRec.pages (t : TRec) : Nat := if t.elems = 0 then 0 else cdiv t.endOfs (2 ^ 21)
/-- `FIN_EN` (R245). -/
def TRec.finEn (t : TRec) : Bool := bitOf t.upd.toNat 30
/-- `FIN_COPY`. -/
def TRec.finCopy (t : TRec) : Nat := fld t.upd.toNat 31 1
/-- `FIN_STEP`. -/
def TRec.finStep (t : TRec) : Nat := fld t.upd.toNat 32 32
/-- Pages of all copies (R246). -/
def TRec.allPages (t : TRec) : Nat := if t.finEn then 2 * t.pages else t.pages
/-- Device address of a copy (R295). -/
def TRec.copyAt (t : TRec) (c : Nat) : Nat := t.place + (if t.finEn then c * t.pages * 2 ^ 21 else 0)
/-- Device address of the committed copy, which every read reads (R246). -/
def TRec.base (t : TRec) : Nat := t.copyAt t.finCopy
/-- Device address of the other copy, which every STORE writes (R246). -/
def TRec.shadowBase (t : TRec) : Nat := t.copyAt (1 - t.finCopy)
/-- The key of a device address of a context in the module's memory. -/
def memKey (ctx a : Nat) : Nat := ctx * 2 ^ 40 + a % 2 ^ 40

/-- The 1,024-bit record (R291); a computed field that is wider than its place shows its low bits (log 60). -/
def TRec.word (t : TRec) : BitVec 1024 :=
  BitVec.ofNat 1024 (t.fmt.toNat * 2 ^ 960 + t.attn.toNat * 2 ^ 896 + t.upd.toNat * 2 ^ 832
    + (t.e3 * 2 ^ 96 + t.e2 * 2 ^ 64 + t.e1 * 2 ^ 32 + t.e0) * 2 ^ 704 + t.place * 2 ^ 656 + t.pages % 2 ^ 24 * 2 ^ 632
    + t.pitch % 2 ^ 32 * 2 ^ 600 + t.scaleOfs % 2 ^ 40 * 2 ^ 560 + t.tagOfs % 2 ^ 40 * 2 ^ 520 + t.bobOfs % 2 ^ 40 * 2 ^ 480
    + t.shdOfs % 2 ^ 40 * 2 ^ 440 + t.endOfs % 2 ^ 40 * 2 ^ 400 + t.tid * 2 ^ 368 + t.gen * 2 ^ 360 + t.ctx * 2 ^ 356 + t.part * 2 ^ 354
    + t.spill.toNat * 2 ^ 353 + t.grad.toNat * 2 ^ 352 + t.raw.toNat * 2 ^ 351)

/-- The create command's RW fields of a 1,024-bit record image (R291, R292). -/
def TRec.ofWord (w : BitVec 1024) : TRec :=
  let n := w.toNat
  { fmt := BitVec.ofNat 64 (n >>> 960), attn := BitVec.ofNat 64 (n >>> 896), upd := BitVec.ofNat 64 (n >>> 832)
    e0 := fld n 704 32, e1 := fld n 736 32, e2 := fld n 768 32, e3 := fld n 800 32, tid := fld n 368 32
    part := fld n 354 2, spill := bitOf n 353, grad := bitOf n 352, raw := bitOf n 351 }

/-! ### Bytes and bit runs -/

/-- One byte of memory; unlisted bytes read 0x00. -/
def rdB (m : Tbl Byte) (k : Nat) : Byte := tget 0 m k
/-- n bytes from a key on. -/
def rdBs (m : Tbl Byte) (k n : Nat) : List Byte := tgetMany 0 m k n
/-- One byte written. -/
def wrB (m : Tbl Byte) (k : Nat) (b : Byte) : Tbl Byte := tset 0 m k b
/-- Bytes written from a key on. -/
def wrBs (m : Tbl Byte) (k : Nat) (l : List Byte) : Tbl Byte := tsetMany 0 m k l

/-- w bits at a bit offset from a key, the least significant bits of each byte first (R35). -/
def rdBits (m : Tbl Byte) (k bit w : Nat) : Nat :=
  let b0 := bit / 8
  fld (ofLE (rdBs m (k + b0) (cdiv (bit % 8 + w) 8))) (bit % 8) w

/-- w bits written at a bit offset (R35). -/
def wrBits (m : Tbl Byte) (k bit w v : Nat) : Tbl Byte :=
  let b0 := k + bit / 8
  let n := cdiv (bit % 8 + w) 8
  wrBs m b0 (toLE n (setFld (ofLE (rdBs m b0 n)) (bit % 8) w v))

/-! ### Reading elements -/

/-- The key of a copy: context and device address. -/
def TRec.key (t : TRec) (base : Nat) : Nat := memKey t.ctx base

/-- The stored code of element (row, col) of a copy. -/
def TRec.code (t : TRec) (m : Tbl Byte) (base row col : Nat) : Nat :=
  rdBits m (t.key base) (row * t.pitch * 8 + col * t.width) t.width

/-- The scale code of the block of an element; a placeholder 127 (factor 1) where the format has none. -/
def TRec.scale (t : TRec) (m : Tbl Byte) (base row col : Nat) : Nat :=
  if t.scaled then (rdB m (t.key base + t.scaleOfs + row * t.rowScales + col / t.blk)).toNat else 127

/-- The bobble slot words of the 32-element block of an element. -/
def TRec.bobWords (t : TRec) (m : Tbl Byte) (base row col : Nat) : List Nat :=
  (List.range t.bobs).map fun k => ofLE (rdBs m (t.key base + t.bobOfs + ((row * t.rowBlocks + col / 32) * t.bobs + k) * 2) 2)

/-- The header of an element's Selvedge-64 block (R36). -/
def TRec.header (t : TRec) (m : Tbl Byte) (base row col : Nat) : Nat :=
  ofLE (rdBs m (t.key base + t.scaleOfs + (row * t.rowScales + col / 32) * 8) 8)

/-- The gauge tag byte of an element's block (R53); for Selvedge-64, of the header's gauge. -/
def TRec.tag (t : TRec) (m : Tbl Byte) (base row col : Nat) : Int :=
  if t.selv then (selvG (t.header m base row col)).getD (-127)
  else tagGauge (rdB m (t.key base + t.tagOfs + row * t.rowBlocks + col / 32)).toNat

/-- The exact decoded value of an element (R41, R60). -/
def TRec.val (t : TRec) (m : Tbl Byte) (base row col : Nat) : Val :=
  if t.selv then selvVal (selvE (t.header m base row col)) (t.code m base row col)
  else elemVal t.f (t.scale m base row col) (t.code m base row col) (bobbleOf (t.bobWords m base row col) (col % 32))

/-- Does reading an element set FMT (R34, R60)? -/
def TRec.fmtFlag (t : TRec) (m : Tbl Byte) (base row col : Nat) : Bool :=
  t.f.readsFmt (t.code m base row col) || bobblesFmt (t.bobWords m base row col)

/-- The row number of indices along axes 1 to 3, axis 1 fastest (R295). -/
def TRec.rowOf (t : TRec) (i1 i2 i3 : Nat) : Nat := i1 + t.e1 * (i2 + t.e2 * i3)
/-- Index along axis 1, 2 or 3 of a row. -/
def TRec.rowIdx (t : TRec) (row a : Nat) : Nat :=
  match a with | 1 => row % t.e1 | 2 => row / t.e1 % t.e2 | _ => row / (t.e1 * t.e2)
/-- The linear index of an element (R63). -/
def TRec.lin (t : TRec) (row col : Nat) : Nat := row * t.e0 + col
/-- The value at four indices. -/
def TRec.at4 (t : TRec) (m : Tbl Byte) (i0 i1 i2 i3 : Nat) : Val := t.val m t.base (t.rowOf i1 i2 i3) i0

/-! ### Writing exact values -/

/-- How a write rounds and what its destination does: modes, rounding choice with the random draw's key. -/
structure WrHow where
  w : WrMode := { inf := false, wrap := false }
  stoch : Bool := false
  purpose : Nat := 1
  seed : Nat := 0
  step : Nat := 0
  deriving DecidableEq, Repr

/-- The rounding of element i (R63 to R66). A stochastic write that no row of R64 covers (a MOVE into FP32 or a 16-bit format)
draws under purpose code 1: DESIGN CHOICE, log 44. -/
def WrHow.rnd (h : WrHow) (t : TRec) (i : Nat) : Rnd :=
  if h.stoch then .stoch (elemRandom h.seed t.tid h.step (if t.selv then 6 else FW.purpose t.fmt h.purpose) i) else .rne

/-- What a write produced besides bytes: SAT, special values written (for R236), a reserved code read back for a gauge tag (R34),
QE sums (R61). -/
structure WrOut where
  sat : Bool := false
  special : Bool := false
  fmt : Bool := false
  qS : Nat := 0
  qE : Nat := 0
  deriving DecidableEq, Repr

/-- Two write results joined. -/
def WrOut.join (a b : WrOut) : WrOut :=
  { sat := a.sat || b.sat, special := a.special || b.special, fmt := a.fmt || b.fmt, qS := a.qS + b.qS, qE := a.qE + b.qE }

/-- A written run of whole scale blocks: scale codes, element codes, bobble slot words per 32 elements, and what each scale block
produced besides. -/
structure UnitW where
  scales : List Nat
  codes : List Nat
  bobs : List Nat
  outs : List WrOut
  deriving DecidableEq, Repr

/-- What the scale blocks of a run that a test keeps produced together. -/
def UnitW.out (u : UnitW) (wrote : Nat → Bool) : WrOut :=
  (u.outs.zipIdx.filter fun x => wrote x.2).foldl (fun a x => a.join x.1) {}

/-- Exact +0. -/
def Ex.zero : Ex := .num false (.rat 0 1)

/-- Is a written value NaN or an infinity in its stored code, relative to the block's scale (R236)? -/
def storedSpecial (f : Fmt) (scale code : Nat) : Bool := !(scaledVal f scale code).isFin

/-- Scaled-format write of a run of elements that starts at a block boundary (R42 to R48, R56 to R61), with the rounding of each
element. -/
def encRun (t : TRec) (w : WrMode) (rn : List Rnd) (xs : List Ex) : UnitW :=
  let f := t.f
  let n := alignUp xs.length t.blk
  let xp := padTo Ex.zero n xs
  let fixed := if FW.fixed t.fmt then some (FW.fixedScale t.fmt) else none
  let bls := (List.range (n / t.blk)).map fun k =>
    writeScaled f w fixed ((rn.drop (k * t.blk)).take t.blk) ((xp.drop (k * t.blk)).take t.blk)
  let codes := (bls.map (·.codes)).flatten
  let scaleAt (k : Nat) : Nat := (nth { scale := 0, codes := [], sat := false } bls (k / t.blk)).scale
  let n32 := cdiv n 32
  let bobs := (List.range n32).map fun b =>
    if t.bobs = 0 then [] else
      chooseBobbles f t.bobs (FW.bobThresh t.fmt)
        ((List.range 32).map fun j => let s := scaleAt (b * 32 + j); if s = 0xFF ∨ n ≤ b * 32 + j then none else some ((s : Int) - 127))
        (padTo Ex.zero 32 ((xp.drop (b * 32)).take 32))
  let bobAt (k : Nat) : Option Nat := ((nth [] bobs (k / 32)).find? fun p => p.1 = k % 32).map (·.2)
  let codes' := (List.range n).map fun k =>
    if (bobAt k).isSome ∨ xs.length ≤ k then 0 else nth 0 codes k
  let mine (b : Nat) : List Nat := (List.range (min t.blk (xs.length - b * t.blk))).map (b * t.blk + ·)
  let qe (b : Nat) : Nat × Nat := if !FW.qeEn t.fmt then (0, 0) else
      (mine b).foldl (fun (p : Nat × Nat) k =>
        let s := scaleAt k
        if s = 0xFF then p else
        let c : Val := match bobAt k with
          | some c => Fmt.decode .e4m3 c
          | none => f.decode (nth 0 codes' k)
        let (a, b) := qeTerm (nth Ex.nan xs k) ((s : Int) - 127) c
        (p.1 + qeScale a ((s : Int) - 127), p.2 + qeScale b ((s : Int) - 127))) (0, 0)
  { scales := bls.map (·.scale), codes := codes'
    bobs := (bobs.map fun l => padTo 0 t.bobs (l.map fun p => bobSlot p.1 p.2)).flatten
    outs := bls.zipIdx.map fun (x, b) =>
      { sat := x.sat, special := (mine b).any (fun k => storedSpecial f (scaleAt k) (nth 0 codes' k)), qS := (qe b).1, qE := (qe b).2 } }

/-- Scaled-format write of a run of elements that starts at a block boundary, by the write's own rounding choice. -/
def encUnit (t : TRec) (h : WrHow) (i0 : Nat) (xs : List Ex) : UnitW :=
  encRun t h.w ((List.range (alignUp xs.length t.blk)).map fun k => h.rnd t (i0 + k)) xs

/-- The gauge tag of the block of (row, col) from its stored values (R50, R51). -/
def TRec.tagNow (t : TRec) (m : Tbl Byte) (base row col : Nat) : Nat :=
  let c0 := col / 32 * 32
  tagByte ((List.range (min 32 (t.e0 - c0))).map fun j => t.val m base row (c0 + j))

/-- The gauge tags of the blocks that columns [c0, c0 + n) of a row touch, rewritten (R52). -/
def TRec.retag (t : TRec) (m : Tbl Byte) (base row c0 n : Nat) : Tbl Byte :=
  if !t.hasTags ∨ n = 0 then m else
  (List.range ((c0 + n - 1) / 32 + 1 - c0 / 32)).foldl (fun m k =>
    let b := c0 / 32 + k
    wrB m (t.key base + t.tagOfs + row * t.rowBlocks + b) (BitVec.ofNat 8 (t.tagNow m base row (b * 32)))) m

/-- Does recomputing those tags read a reserved code (R34, R52)? -/
def TRec.tagReadsFmt (t : TRec) (m : Tbl Byte) (base row c0 n : Nat) : Bool :=
  t.hasTags && decide (0 < n) && (List.range (min t.e0 (alignUp (c0 + n) 32) - c0 / 32 * 32)).any fun j => t.fmtFlag m base row (c0 / 32 * 32 + j)

/-- The exact square of a dyadic value, as a fraction. -/
def sqOf (v : Val) : Nat × Nat :=
  match v with
  | .fin _ k e => (k * k * pow2num (2 * e), pow2den (2 * e))
  | _ => (0, 1)

/-- Sum of fractions. -/
def sumFrac : List (Nat × Nat) → Nat × Nat
  | [] => (0, 1)
  | (a, b) :: t => let (c, d) := sumFrac t; (a * d + c * b, b * d)

/-- The value of a shadow error byte under the largest scale exponent (R207), as a dyadic. -/
def errByteVal (smax : Int) (c : Nat) : Val :=
  if c = 0 then .zero else .fin false (8 + c % 8) ((c / 8 : Nat) + smax - 27)

/-- The smallest error byte whose value is at least the root of a fraction. -/
def errByte (smax : Int) (q : Nat × Nat) : Nat :=
  if q.1 = 0 then 0 else
  match (List.range 254).find? (fun k => let (a, b) := sqOf (errByteVal smax (k + 1)); q.1 * b ≤ a * q.2) with
  | some k => k + 1
  | none => 0xFE

/-- The shadow of a vector (R206, R207): codes, scales, error byte. -/
def shadowOf (blk : Nat) (xs : List Val) : List Nat × List Nat × Nat :=
  if xs.any (fun v => !v.isFin) then (xs.map fun _ => 0, (List.range (cdiv xs.length blk)).map fun _ => 0, 0xFF) else
  let bl := (runs blk (xs.length + 1) xs).map fun r => (r, writeScaled .e2m1 { inf := false, wrap := false } none [] (r.map Val.toEx))
  let smax : Int := (maxI (bl.map fun b => (b.2.scale : Int) - 127)).getD (-127)
  let errs := (bl.map fun (r, b) => (r.zip b.codes).map fun (v, c) => sqOf (v.add (scaledVal .e2m1 b.scale c).neg)).flatten
  ((bl.map (·.2.codes)).flatten, bl.map (·.2.scale), errByte smax (sumFrac errs))

/-- Base key of a vector's shadow. -/
def TRec.shKey (t : TRec) (base row : Nat) : Nat := t.key base + t.shdOfs + row * t.shVec

/-- The shadow of a row rewritten from its stored contents (R206). -/
def TRec.reshadow (t : TRec) (m : Tbl Byte) (base row : Nat) : Tbl Byte :=
  if !t.shEn then m else
  let (cs, ss, e) := shadowOf t.shBlk ((List.range t.e0).map fun c => t.val m base row c)
  let k := t.shKey base row
  let m := (cs.zip (List.range cs.length)).foldl (fun m (c, j) => wrBits m k (4 * j) 4 c) m
  let m := wrBs m (k + t.shCodes) (ss.map (BitVec.ofNat 8))
  wrB m (k + t.shCodes + t.shScales) (BitVec.ofNat 8 e)

/-- The two halves of the rotation of a pair (R218). -/
def rotPair (omega p : Nat) (x y : Val) : Val × Val :=
  let s := sinVal (p * omega % 2 ^ 64)
  let c := sinVal ((p * omega + 2 ^ 62) % 2 ^ 64)
  ((x.mul c).add (y.mul s).neg, (x.mul s).add (y.mul c))

/-- An exact rational intermediate as a value, where it is dyadic. -/
def Ex.toVal : Ex → Option Val
  | .nan => some .nan
  | .inf n => some (.inf n)
  | .num n (.rat a b) => if b = 2 ^ lg b then some (.fin n a (-(lg b : Int))) else none
  | _ => none

/-- A finite exact intermediate as a signed fraction (irrational ones to 2^-2048 of themselves, log 90). -/
def Ex.frac : Ex → Option (Int × Nat)
  | .num n m => let (a, b) := m.toRat; some (signed n a, b)
  | _ => none

/-- A value of the same kind and sign, for a pair whose other member is special. -/
def Ex.rough : Ex → Val
  | .nan => .nan
  | .inf n | .over n _ => .inf n
  | .num n m => .fin n (if m.isZero then 0 else 1) 0

/-- x × u + y × v for fractions and dyadic factors, as an exact intermediate. -/
def fracComb (x y : Int × Nat) (u v : Val) : Ex :=
  let f (w : Val) : Int × Nat := match w with
    | .fin n m e => (signed n (m * pow2num e), pow2den e)
    | _ => (0, 1)
  let (p, q) := f u
  let (r, t) := f v
  let num : Int := x.1 * p * (y.2 * t : Nat) + y.1 * r * (x.2 * q : Nat)
  .num (decide (num < 0)) (.rat num.natAbs (x.2 * q * (y.2 * t)))

/-- A run of exact values that starts at an even column, rotated pair by pair (R218): `om j` is the turn rate of
pair j of the row, p the position. -/
def rotRun (om : Nat → Nat) (p j : Nat) : List Ex → List Ex
  | x :: y :: t =>
    (match x.toVal, y.toVal with
     | some a, some b => let (u, v) := rotPair (om j) p a b; [u.toEx, v.toEx]
     | _, _ =>
       match x.frac, y.frac with
       | some a, some b =>
         let s := sinVal (p * om j % 2 ^ 64)
         let c := sinVal ((p * om j + 2 ^ 62) % 2 ^ 64)
         [fracComb a b c s.neg, fracComb a b s c]
       | _, _ => let (u, v) := rotPair (om j) p x.rough y.rough; [u.toEx, v.toEx]) ++ rotRun om p (j + 1) t
  | l => l

/-- The position of a row along the rotation axis (R218). -/
def TRec.rotPos (t : TRec) (row : Nat) : Nat :=
  fld t.attn.toNat 2 25 + t.rowIdx row (fld t.attn.toNat 27 2)

/-- Exact values written at columns c0, c0 + 1, … of a row of a copy (R42 to R52, R206, R218): the only way the module
stores values it computes. Block-scaled runs start at a block boundary (R47); a Selvedge-64 run may cover part of
a block (R37). `om` gives the rotation rates, used when `ROT_EN` is set. -/
def TRec.writeRow (t : TRec) (m : Tbl Byte) (base row c0 : Nat) (h : WrHow) (om : Nat → Nat) (xs0 : List Ex) : Tbl Byte × WrOut :=
  let xs0 := xs0.take (t.e0 - c0)
  if xs0.isEmpty then (m, {}) else
  let xs := if t.rotEn then rotRun om (t.rotPos row) (c0 / 2) xs0 else xs0
  let k := t.key base
  let put (m : Tbl Byte) (col c : Nat) : Tbl Byte := wrBits m k (row * t.pitch * 8 + col * t.width) t.width c
  let (m, o) : Tbl Byte × WrOut :=
    if t.scaled then
      let u := encUnit t h (t.lin row c0) xs
      let m := ((List.range u.codes.length).zip u.codes).foldl (fun m (j, c) => put m (c0 + j) c) m
      let m := wrBs m (k + t.scaleOfs + row * t.rowScales + c0 / t.blk) ((u.scales.take (t.rowScales - c0 / t.blk)).map (BitVec.ofNat 8))
      let m := wrBs m (k + t.bobOfs + (row * t.rowBlocks + c0 / 32) * t.bobs * 2)
        (((u.bobs.take ((t.rowBlocks - c0 / 32) * t.bobs)).map (toLE 2)).flatten)
      (m, u.out fun _ => true)
    else if t.selv then
      (List.range ((c0 + xs.length - 1) / 32 + 1 - c0 / 32)).foldl (fun (p : Tbl Byte × WrOut) i =>
        let b := (c0 / 32 + i) * 32
        let els := (List.range (min 32 (t.e0 - b))).map fun j =>
          if c0 ≤ b + j ∧ b + j < c0 + xs.length then (nth Ex.nan xs (b + j - c0), h.rnd t (t.lin row (b + j)), true)
          else ((t.val p.1 base row (b + j)).toEx, Rnd.rne, false)
        let (hd, cs, sat) := writeSelv h.w.inf els
        let m := ((List.range cs.length).zip cs).foldl (fun m (j, c) => put m (b + j) c) p.1
        (wrBs m (k + t.scaleOfs + (row * t.rowScales + b / 32) * 8) (toLE 8 hd),
         p.2.join { sat := sat, special := ((cs.zip els).any fun x => x.2.2.2 && !(Fmt.decode .selv x.1).isFin) })) (m, {})
    else
      ((List.range xs.length).zip xs).foldl (fun (p : Tbl Byte × WrOut) (j, x) =>
        let e := t.f.encElem h.w false 0 (h.rnd t (t.lin row (c0 + j))) x
        (put p.1 (c0 + j) e.code, p.2.join { sat := e.sat, special := !(t.f.decode e.code).isFin })) (m, {})
  (t.reshadow (t.retag m base row c0 xs.length) base row, { o with fmt := t.tagReadsFmt m base row c0 xs.length })

/-- The bytes, not all 0x00, with which a copy is filled at creation (R298): B1 tag bytes and Selvedge-64 headers. -/
def TRec.fill (t : TRec) (m : Tbl Byte) (base : Nat) : Tbl Byte :=
  let k := t.key base
  let m := if t.hasTags ∧ t.f = .b1 then wrBs m (k + t.tagOfs) (List.replicate (t.rows * t.rowBlocks) 1) else m
  if t.selv then
    (List.range (t.rows * t.rowScales)).foldl (fun m i => wrBs m (k + t.scaleOfs + i * 8) (toLE 8 0x80000000)) m
  else m

end Sys2Proof.Machine
end

