-- ==== Sys2Proof/Machine/Panel.lean ====
section
/-! DEFINITION. The plain data of a panel (spec/04, spec/05): lines of Panel SRAM, queue entries, engines, the running
segment, the Row Sequencer's registers, and the fields of a row word and of an address-generator configuration. -/
namespace Sys2Proof.Machine

/-- A 128-byte line of Panel SRAM with its scale sidebands (one byte per word, R124), the bobble slots of its
elements (R109), the header of its Selvedge-64 block (log 12), its poison mark (R493) and the words an uncorrectable error has hit
since they were written (R130). -/
structure Line where
  data : BitVec 1024 := 0
  sc : BitVec 128 := 0
  bob : BitVec 1024 := 0
  hdr : BitVec 64 := 0
  poison : Bool := false
  ecc : BitVec 16 := 0
  deriving DecidableEq, Repr

/-- Exact values on their way to a destination: rounded once, when the destination is known (R95, R178). `els` are
the output elements of a drain, `keep` marks elements that are not written (climbed or masked, R99, R230); `rest` and `restKeep`
are the other half of a Selvedge-64 block. -/
structure Pend where
  xs : List Ex := []
  rest : List Ex := []
  half : Nat := 0
  fmt : Nat := 0
  rnd : Nat := 0
  ovf : Bool := false
  int : Bool := false
  els : List (Option Nat) := []
  keep : List Bool := []
  restKeep : List Bool := []
  isDrain : Bool := false
  deriving DecidableEq, Repr

/-- An entry of QA, QB, QP, QD, QE, QF or QN (R109): data, scale sideband, bobble sideband, Selvedge-64 header,
the global index of its elements in a compare (R120), poison read with it, a parity error since it was pushed (R130), values not
yet rounded, and where its first element comes from: the reference and the four indices, or nothing (log 6). `slots` are the
bobble slots per block of the tensor it was read from, `off` and `blk` the byte of its first word and the place in its 32-element
block at which its first element lies, `keep` the elements that a drain withheld (R99), `cut` how many of its elements lie before the
end of the axis it runs along (R72), and `code` the format it is read in where that is not its tensor's (R169). -/
structure Ent where
  data : BitVec 1024 := 0
  sc : BitVec 4096 := 0
  bob : BitVec 1024 := 0
  hdr : BitVec 64 := 0
  idx : Nat := 0
  poison : Bool := false
  ecc : Bool := false
  pend : Option Pend := none
  lab : List Nat := []
  slots : Nat := 0
  off : Nat := 0
  blk : Nat := 0
  keep : List Bool := []
  cut : Nat := 512
  code : Option Nat := none
  deriving DecidableEq, Repr

/-- An entry of QX: four Skein words of a row and the entry number that names their columns (R109, R110), with the output
elements they belong to (log 6). -/
structure XEnt where
  grp : Nat := 0
  words : List SkeinW := []
  els : List Nat := []
  ecc : Bool := false
  deriving DecidableEq, Repr

/-- One half of the B buffer (R111): the slices filled so far, in column order, whether it is ready, and the store of it that a
parity error has hit: data 0, scales 1, bobbles 2 (R130, R173). -/
structure BHalf where
  slices : List Ent := []
  ready : Bool := false
  ecc : Option Nat := none
  deriving DecidableEq, Repr

/-- A cable buffer (R132): the address that fetched the held word group, the words with their scale bytes, and whether a line was
poisoned. -/
structure Cable where
  held : Bool := false
  addr : Nat := 0
  words : List (BitVec 64) := []
  scs : List Byte := []
  poison : Bool := false
  deriving DecidableEq, Repr

/-- A Stitch engine (R109 to R117, R137, R197). `elems` holds, per Skein row, one more than the output element of each column,
0 for none: what the addresses of the entries that met in the row say (log 6). `badSk` and `badAnc` are the Skeins (row × 128 +
column) and anchor records (row × 4 + group) that an uncorrectable or parity error has hit since they were written (R130). -/
structure Engine where
  skeins : Tbl SkeinW := []
  elems : Tbl (List Nat) := []
  anchors : Tbl (BitVec 32) := []
  infl : Tbl Nat := []
  qa : List Ent := []
  qb : List Ent := []
  qp : List Ent := []
  qd : List Ent := []
  qe : List Ent := []
  qf : List Ent := []
  qn : List Ent := []
  qx : List XEnt := []
  half0 : BHalf := {}
  half1 : BHalf := {}
  active1 : Bool := false
  norm : Tbl NormG := []
  normAt : Tbl Nat := []
  cables : Tbl Cable := []
  elemFree : Nat := 0
  normFree : Nat := 0
  badSk : List Nat := []
  badAnc : List Nat := []
  digest : BitVec 128 := 0
  deriving DecidableEq, Repr

/-- What an operation in flight does when it lands (R123, R167). -/
inductive FlyOp where
  | read (q : Nat) (x : Ent)
  | drain (q : Nat) (x : Ent)
  | product (row : Nat) (add : List Sk) (climb : List Bool)
  | forerun (row : Nat) (g : Nat) (prods : List (List Val))
  | compare (row : Nat) (isMax : Bool) (vs : List Val) (idx : Nat)
  | preload (row : Nat) (ws : List SkeinW) (climb : List Bool)
  | nadd (row : Nat) (x : XEnt) (cmp : Nat)
  | send (x : XEnt)
  | elem (x : Ent)
  | normDone (grp : Nat) (mu var rho : BitVec 32)
  | halfReady (half1 : Bool)
  deriving DecidableEq, Repr

/-- An operation in flight: when it lands, on which engine, issued by which word. -/
structure Fly where
  due : Nat
  e : Nat
  pc : Nat
  tag : Nat
  op : FlyOp
  deriving DecidableEq, Repr

/-- An arrival at a queue's tail: cycle, engine, queue, and the word that issued it (R165, R173). -/
structure Arrival where
  cycle : Nat
  e : Nat
  q : Nat
  pc : Nat
  tag : Nat
  deriving DecidableEq, Repr

/-- One address generator's indices (R160). -/
structure AGIdx where
  i0 : Nat := 0
  i1 : Nat := 0
  i2 : Nat := 0
  i3 : Nat := 0
  exhausted : Bool := false
  deriving DecidableEq, Repr

/-- A tensor reference of the running segment: the tensor, its window after the segment's move and clip (R269),
its placement in the grant (R301) and the rotation rates of its table (R218). -/
structure RefW where
  live : Bool := false
  out : Bool := false
  t : TRec := {}
  start : List Nat := [0, 0, 0, 0]
  count : List Nat := [0, 0, 0, 0]
  place : Nat := 0
  spread : Bool := false
  rates : List Nat := []
  deriving DecidableEq, Repr

/-- The segment a panel runs (R270, R300): what the scheduler bound at dispatch. -/
structure Seg where
  slot : Nat := 0
  task : Nat := 0
  sigma : Nat := 0
  ctx : Nat := 0
  typ : Nat := 0
  variant : Nat := 0
  desc : Nat := 0
  refs : List RefW := []
  granules : Nat := 0
  map : List Nat := []
  ags : List (BitVec 256) := []
  prog : Nat := 0
  words : Nat := 0
  arr : Nat := 0
  cmp : Nat := 0
  cls : Nat := 0
  redid : Nat := 0
  terms : Nat := 0
  ls : Int := 0
  step : Nat := 0
  seed : Nat := 0
  idxBase : Nat := 0
  cax : Nat := 0
  maskMode : Nat := 0
  maskBits : Nat := 0
  lc : List Nat := [0, 0, 0, 0]
  /-- Do other panels hold parts of this segment's Skein-192 sums (R69)? -/
  comb : Bool := false
  /-- Per engine and Skein row, the first output element of each column plus 1 (log 6). -/
  assoc : List (Tbl (List Nat)) := []
  deriving DecidableEq, Repr

/-- Counters of a panel's `STE`, `GAU`, `ELU`, `NRM` and `SEQ` pages; `byEngine` counts the faults of each engine (R173). -/
structure PCnt where
  faults : Nat := 0
  byEngine : List Nat := List.replicate 16 0
  corrected : Nat := 0
  climbs : Nat := 0
  qe : Nat := 0
  breaches : Nat := 0
  elu : Nat := 0
  nrm : Nat := 0
  words : Nat := 0
  deriving DecidableEq, Repr

/-- A program resident in the store (R141): its image, where it sits, how long it is. -/
structure Resident where
  ctx : Nat
  tid : Nat
  ofs : Nat
  base : Nat
  words : Nat
  deriving DecidableEq, Repr

/-- A segment that has ended and waits for its writeback (R302): what the tick that retires it must still report. -/
structure Done where
  seg : Seg
  attempt : Nat := 0
  fault : Option (BitVec 64) := none
  tainted : Bool := false
  written : List Nat := []
  flags : List Nat := []
  qS : List Nat := []
  qE : List Nat := []
  gradOvf : Bool := false
  deriving DecidableEq, Repr

/-- A segment that ended with operations in flight or entries in a queue: it completes or faults once its residue check is made
(R171, R174). `raises` are its chunk raises, `climbs` the blocks it climbs. -/
structure LateEnd where
  done : Done
  raises : List Nat
  climbs : List Nat
  deriving DecidableEq, Repr

/-- A panel (spec/04, spec/05). `prev` is the segment whose residue check is due, `lateFault` what that check found, `held` the
segment that waits for it,
`wbq` the segments that wait for writeback, `staged` the segments whose windows lie in reserved granules (R300), `ran` the
last segment whose frame ended and `ranFault` whether a dropped stitch was found in that frame (R369), `backed` whether the
running segment, which has ended, is written back already (R302), `arr` the arrivals of the cycle in hand (R165), `spare` the spare
engine, `shadow` the logical engine it shadows (16: none) and `differ` whether an entry it pushed, or a detector's outcome, differed
from that engine's (R136, R175). -/
structure Panel where
  store : Tbl (BitVec 1024) := []
  resident : List Resident := []
  seg : Option Seg := none
  lastCtx : Option Nat := none
  pc : Nat := 0
  cycle : Nat := 128
  single : Option Nat := none
  ended : Bool := false
  cnt : List (BitVec 16) := [0, 0, 0, 0]
  lat : List (BitVec 16) := [0, 0, 0, 0]
  live : List (BitVec 16) := [0, 0, 0, 0]
  ag : List AGIdx := []
  sram : Tbl Line := []
  engines : Vector Engine 16 := Vector.replicate 16 {}
  spare : Engine := {}
  shadow : Nat := 0
  differ : Bool := false
  arr : List Arrival := []
  wtags : List (Nat × Nat) := []
  fly : List Fly := []
  raises : List Nat := []
  fault : Option (BitVec 64) := none
  tainted : Bool := false
  written : List Nat := []
  flags : List Nat := [0, 0, 0, 0, 0, 0, 0, 0]
  qS : List Nat := [0, 0, 0, 0, 0, 0, 0, 0]
  qE : List Nat := [0, 0, 0, 0, 0, 0, 0, 0]
  gradOvf : Bool := false
  counts : PCnt := {}
  prev : Option Seg := none
  lateFault : Option (BitVec 64) := none
  held : Option LateEnd := none
  wbq : List Done := []
  staged : List Seg := []
  ran : Option Seg := none
  ranFault : Bool := false
  backed : Bool := false
  deriving DecidableEq, Repr

/-! ### Row-word fields (R144 to R158) -/

/-- `SEQ_HOLD`. -/
def RW.hold (w : Nat) : Nat := fld w 1012 12
/-- `SEQ_TAG`. -/
def RW.tag (w : Nat) : Nat := fld w 992 16
/-- `LP_OP`: 1 BEGIN, 2 END, 3 SINGLE. -/
def RW.lpOp (w : Nat) : Nat := fld w 990 2
/-- `LP_LVL`. -/
def RW.lpLvl (w : Nat) : Nat := fld w 988 2
/-- `LP_ADDR`. -/
def RW.lpAddr (w : Nat) : Nat := fld w 974 14
/-- `LPW_EN`. -/
def RW.lpwEn (w : Nat) : Bool := bitOf w 973
/-- `LPW_LVL`. -/
def RW.lpwLvl (w : Nat) : Nat := fld w 971 2
/-- `LPW_VAL`. -/
def RW.lpwVal (w : Nat) : Nat := fld w 955 16
/-- `RIDX_EN`. -/
def RW.ridxEn (w : Nat) : Bool := bitOf w 954
/-- `RIDX_LVL`. -/
def RW.ridxLvl (w : Nat) : Nat := fld w 952 2
/-- `RIDX_SH`. -/
def RW.ridxSh (w : Nat) : Nat := fld w 950 2
/-- `CIDX_EN`. -/
def RW.cidxEn (w : Nat) : Bool := bitOf w 949
/-- `CIDX_LVL`. -/
def RW.cidxLvl (w : Nat) : Nat := fld w 947 2
/-- `PUSH` of queue q. -/
def RW.push (w q : Nat) : Nat := fld w (912 - 16 * q + 14) 2
/-- `PSRC` of queue q. -/
def RW.psrc (w q : Nat) : Nat := fld w (912 - 16 * q + 12) 2
/-- `AG` of queue q. -/
def RW.qag (w q : Nat) : Nat := fld w (912 - 16 * q + 9) 3
/-- `POP` of queue q. -/
def RW.pop (w q : Nat) : Nat := fld w (912 - 16 * q + 7) 2
/-- `PDST` of queue q. -/
def RW.pdst (w q : Nat) : Nat := fld w (912 - 16 * q + 4) 3
/-- `ACT` of generator n. -/
def RW.act (w n : Nat) : Nat := fld w (768 - 32 * n + 30) 2
/-- `DIM` of generator n. -/
def RW.dim (w n : Nat) : Nat := fld w (768 - 32 * n + 28) 2
/-- `RST` of generator n. -/
def RW.rst (w n : Nat) : Bool := bitOf w (768 - 32 * n + 27)
/-- `OFS` of generator n, signed. -/
def RW.ofs (w n : Nat) : Int := sext (fld w (768 - 32 * n) 25) 25
/-- The array-mode group without `BSWAP`: formats, transposes, tree, order, shape. -/
def RW.arr (w : Nat) : Nat := fld w 526 18
/-- `BSWAP`. -/
def RW.bswap (w : Nat) : Bool := bitOf w 525
/-- `ISS`. -/
def RW.iss (w : Nat) : Nat := fld w 478 2
/-- `DRN`. -/
def RW.drn (w : Nat) : Nat := fld w 456 2
/-- `DFMT`. -/
def RW.dfmt (w : Nat) : Nat := fld w 442 5
/-- `DRND`. -/
def RW.drnd (w : Nat) : Nat := fld w 440 2
/-- `DCMP`. -/
def RW.dcmp (w : Nat) : Nat := fld w 417 2
/-- `EFN`. -/
def RW.efn (w : Nat) : Nat := fld w 409 6
/-- `EV`. -/
def RW.ev (w : Nat) : Bool := bitOf w 415
/-- `EIN`. -/
def RW.ein (w : Nat) : Nat := fld w 404 5
/-- `EOUT`. -/
def RW.eout (w : Nat) : Nat := fld w 399 5
/-- `NV`. -/
def RW.nv (w : Nat) : Bool := bitOf w 287
/-- `NOP`. -/
def RW.nop (w : Nat) : Nat := fld w 284 3
/-- `WEN` of slot k. -/
def RW.wen (w k : Nat) : Bool := bitOf w (208 - 16 * k + 15)
/-- `WAG` of slot k. -/
def RW.wag (w k : Nat) : Nat := fld w (208 - 16 * k + 12) 3
/-- `WBE` of slot k. -/
def RW.wbe (w k : Nat) : Nat := fld w (208 - 16 * k + 10) 2
/-- `SEGEND`. -/
def RW.segend (w : Nat) : Bool := bitOf w 159
/-- `CHRAISE`. -/
def RW.chraise (w : Nat) : Bool := bitOf w 158
/-- `CHFLAG`. -/
def RW.chflag (w : Nat) : Nat := fld w 138 20

/-- `FMT_A` of an array-mode group. -/
def Arr.fmtA (a : Nat) : Nat := fld a 13 5
/-- `FMT_B`. -/
def Arr.fmtB (a : Nat) : Nat := fld a 8 5
/-- `TR_A`. -/
def Arr.trA (a : Nat) : Bool := bitOf a 7
/-- `TR_B`. -/
def Arr.trB (a : Nat) : Bool := bitOf a 6
/-- `ORDER`. -/
def Arr.order (a : Nat) : Bool := bitOf a 3
/-- `SHAPE`. -/
def Arr.shape (a : Nat) : Nat := fld a 0 3

/-! ### Address-generator configurations (R159) -/

/-- `TREF`. -/
def AGC.tref (c : BitVec 256) : Nat := BV.fld c 253 3
/-- `OFFSET`. -/
def AGC.offset (c : BitVec 256) : Nat := BV.fld c 228 25
/-- `ESTRIDE`, signed. -/
def AGC.estride (c : BitVec 256) : Int := sext (BV.fld c 203 25) 25
/-- `STRIDE` of dimension d, signed. -/
def AGC.stride (c : BitVec 256) (d : Nat) : Int := sext (BV.fld c (103 + 25 * d) 25) 25
/-- `COUNT` of dimension d. -/
def AGC.count (c : BitVec 256) (d : Nat) : Nat := BV.fld c (39 + 16 * d) 16

/-- Indices at the start of a segment; a generator with a count of 0 is exhausted (R160). -/
def AGC.start (c : BitVec 256) : AGIdx :=
  { exhausted := (List.range 4).any fun d => AGC.count c d = 0 }

/-- A step at dimension d with carry (R160). -/
def AGC.step (c : BitVec 256) (d : Nat) (x : AGIdx) : AGIdx :=
  if x.exhausted then x else
  let l := [x.i0, x.i1, x.i2, x.i3]
  let rec go : Nat → Nat → List Nat → List Nat × Bool
    | 0, _, l => (l, true)
    | f + 1, d, l =>
      if 4 ≤ d then (l, true) else
      let v := nth 0 l d + 1
      if v < AGC.count c d then (l.set d v, false) else go f (d + 1) (l.set d 0)
  let l0 := (List.range 4).map fun k => if k < d then 0 else nth 0 l k
  let (l', ex) := go 5 d l0
  { i0 := nth 0 l' 0, i1 := nth 0 l' 1, i2 := nth 0 l' 2, i3 := nth 0 l' 3, exhausted := ex }

/-- The address of engine e at indices x, before the word's `OFS` (R160). -/
def AGC.addr (c : BitVec 256) (place e : Nat) (x : AGIdx) : Int :=
  (place * 65536 + AGC.offset c : Nat) + (e : Int) * AGC.estride c + x.i0 * AGC.stride c 0 + x.i1 * AGC.stride c 1
    + x.i2 * AGC.stride c 2 + x.i3 * AGC.stride c 3

/-! ### Operand slices (R108) -/

/-- K depth of a format. -/
def Fmt.depth : Fmt → Nat
  | .e4m3 | .e5m2 | .int8 | .e2m3 | .e3m2 => 128
  | .e2m1 | .int4 => 256 | .t2 | .b1 => 512 | .bf16 | .fp16 => 32 | .fp32 => 8 | .selv => 16

/-- Elements of a format in a 128-byte line; FP6 lines hold 128 (R124). -/
def Fmt.perLine : Fmt → Nat
  | .e2m3 | .e3m2 => 128
  | f => 1024 / f.width

/-- The depth at which the array runs: the smaller of the two formats' depths. -/
def Arr.depth (a : Nat) : Nat :=
  min (((Fmt.ofCode (Arr.fmtA a)).getD .fp32).depth) (((Fmt.ofCode (Arr.fmtB a)).getD .fp32).depth)

/-! ### Where a line of a reference's placement lies in its tensor (R301) -/

/-- Window rows along axis 1 times pitch, in granules: how many granules one index of axes 2 and 3 takes. -/
def RefW.slot (r : RefW) : Nat := if r.t.f = .e2m3 ∨ r.t.f = .e3m2 then cdiv r.t.e0 128 * 128 else r.t.pitch
/-- Window count along an axis. -/
def RefW.n (r : RefW) (a : Nat) : Nat := nth 0 r.count a
/-- Window start along an axis. -/
def RefW.s (r : RefW) (a : Nat) : Nat := nth 0 r.start a
/-- Granules of one (axis 2, axis 3) index in the contiguous layout. -/
def RefW.gper (r : RefW) : Nat := cdiv (r.n 1 * r.slot) 65536
/-- Window rows in all. -/
def RefW.wrows (r : RefW) : Nat := r.n 1 * r.n 2 * r.n 3
/-- Granules a reference takes (R301): for the spread layout, 64 for each 512 lines of one granule. -/
def RefW.granules (r : RefW) : Nat :=
  if !r.live ∨ r.n 0 = 0 ∨ r.wrows = 0 then 0
  else if r.spread then
    let L := (r.slot / 128) * cdiv r.wrows 64
    64 * (cdiv L 512 - 1) + min 64 r.wrows
  else r.gper * (r.n 2 * r.n 3)

/-- The first and last 128-byte piece of a row that hold window columns; of a Selvedge-64 output, whole blocks of two lines, since a write
into part of a block reads the rest of it (R37, log 64). -/
def RefW.pieces (r : RefW) : Nat × Nat :=
  let per (c : Nat) : Nat := if r.t.f = .e2m3 ∨ r.t.f = .e3m2 then c / 128 else c * r.t.width / 1024
  let (a, b) := (per (r.s 0), per (r.s 0 + r.n 0 - 1))
  if r.out ∧ r.t.selv then (a / 2 * 2, b / 2 * 2 + 1) else (a, b)

/-- Window row and piece of a line of the placement, counted in lines from its first granule. -/
def RefW.ofLine (r : RefW) (ln : Nat) : Option (Nat × Nat) :=
  let np := r.slot / 128
  if np = 0 then none else
  if r.spread then
    let g := ln / 512
    let L := g / 64 * 512 + ln % 512
    let nb := cdiv r.wrows 64
    let j := L / nb
    let row := L % nb * 64 + g % 64
    if j < np ∧ row < r.wrows then some (row, j) else none
  else
    let per := r.gper * 512
    if per = 0 then none else
    let q := ln / per
    let k := ln % per
    if q < r.n 2 * r.n 3 ∧ k / np < r.n 1 then some (q * r.n 1 + k / np, k % np) else none

/-- The line, counted from the first granule of the placement, of a window row and piece (R301). -/
def RefW.toLine (r : RefW) (row j : Nat) : Nat :=
  let np := r.slot / 128
  if r.spread then
    let L := j * cdiv r.wrows 64 + row / 64
    (64 * (L / 512) + row % 64) * 512 + L % 512
  else (row / r.n 1) * (r.gper * 512) + row % r.n 1 * np + j

/-- The tensor's row number of a window row. -/
def RefW.trow (r : RefW) (row : Nat) : Nat :=
  r.t.rowOf (r.s 1 + row % r.n 1) (r.s 2 + row / r.n 1 % r.n 2) (r.s 3 + row / (r.n 1 * r.n 2))

/-- First column held by piece j of a row. -/
def RefW.pcol (r : RefW) (j : Nat) : Nat := j * r.t.f.perLine

/-- Does the piece hold a window column (so that it is staged, R301)? -/
def RefW.staged (r : RefW) (j : Nat) : Bool := decide (r.pieces.1 ≤ j ∧ j ≤ r.pieces.2)

/-- The index of an element along an axis, from its tensor row and column. -/
def RefW.axisIdx (r : RefW) (trow col a : Nat) : Nat := if a = 0 then col else r.t.rowIdx trow a

/-! ### The segment's reading of its output elements -/

/-- The first output reference of a segment (R272): reference 2 for GEMM, 3 for ATTN, the first written one otherwise. -/
def Seg.outRef (g : Seg) : RefW :=
  let k := if g.typ = 0 then (if g.variant = 2 then 2 else 2) else if g.typ = 1 then 3
    else ((List.range 8).find? fun i => (nth {} g.refs i).out).getD 2
  nth {} g.refs k

/-- Is the row of an output element masked (R229, R230)? -/
def Seg.masked (g : Seg) (el : Option Nat) : Bool :=
  match el with
  | none => false
  | some i =>
    let r := i / g.outRef.t.e0
    match g.maskMode with
    | 1 => !bitOf g.maskBits r
    | 2 => !bitOf g.maskBits (r / 32)
    | _ => false

end Sys2Proof.Machine
end

