-- ==== Sys2Proof/Machine/Mapping.lean ====
section
/-! DEFINITION. Which output element each Skein of a segment holds (spec/03 R75 to R79, spec/04 R108, R111, R120; log 6): read
off the addresses of the operand entries that meet in it. A QA slice belongs to one row of A and a QB slice to one column of B, so
the free and batch indices of the two name the element. -/
namespace Sys2Proof.Machine

/-- The indices each generator issues in this word and its state after (R149, R160). -/
def agCycle (cf : BitVec 256) (w n : Nat) (twice : Bool) (x : AGIdx) : List AGIdx × AGIdx :=
  let x := if RW.rst w n then { x with i0 := 0, i1 := 0, i2 := 0, i3 := 0 } else x
  let one (x : AGIdx) : List AGIdx × AGIdx :=
    match RW.act w n with
    | 1 => (if x.exhausted then [] else [x], x)
    | 2 => (if x.exhausted then [] else [x], AGC.step cf (RW.dim w n) x)
    | 3 => ([], AGC.step cf (RW.dim w n) x)
    | _ => ([], x)
  let (a, y) := one x
  if twice then let (b, z) := one y; (a ++ b, z) else (a, y)

/-- The label of an entry whose first element stands at a column of a line of a reference: reference, four indices, and the axis its
elements run along, 1 for a cable-read slice (R132). -/
def RefW.label (r : RefW) (ref ln col : Nat) (cab : Bool) : List Nat :=
  match r.ofLine (ln - r.place * 512) with
  | some (row, j) => let t := r.trow row; [ref, r.pcol j + col, r.t.rowIdx t 1, r.t.rowIdx t 2, r.t.rowIdx t 3, cab.toNat]
  | none => []

/-- The linear index of an output element, plus 1; 0 where an index lies outside the tensor. -/
def TRec.elemNo (t : TRec) (ix : List Nat) : Nat :=
  if (List.range 4).all fun a => nth 0 ix a < t.ext a then t.lin (t.rowOf (nth 0 ix 1) (nth 0 ix 2) (nth 0 ix 3)) (nth 0 ix 0) + 1 else 0

/-- The output element of a product of an A slice and a B slice (R75), plus 1. -/
def Seg.prodElem (g : Seg) (a b : List Nat) : Nat :=
  match a, b with
  | _ :: ia, _ :: ib =>
    let d := g.desc
    let bc := batchAxes (TD.cAax d) (TD.cBax d)
    let ba := batchAxes (TD.aCax d) (TD.aFax d)
    g.outRef.t.elemNo ((List.range 4).map fun x =>
      if x = TD.cAax d then nth 0 ia (TD.aFax d) else if x = TD.cBax d then nth 0 ib (TD.bFax d)
      else nth 0 ia (nth 0 ba ((bc.findIdx? (· = x)).getD 0)))
  | _, _ => 0

/-- The indices of element c of an entry. -/
def labIx (l : List Nat) (c : Nat) : List Nat :=
  if nth 0 l 5 = 1 then [nth 0 l 1, nth 0 l 2 + c, nth 0 l 3, nth 0 l 4] else [nth 0 l 1 + c, nth 0 l 2, nth 0 l 3, nth 0 l 4]

/-- The column of a line at which the slice at a byte address begins (R108, R132). -/
def sliceCol (f : Fmt) (a : Nat) (cab : Bool) : Nat :=
  if cab then a / 8 % 16 * 64 / f.width + a % 8 * 8 / f.width else a % 128 * 8 / f.width

/-- Position of an element of reference r within its window, where it lies in it. -/
def RefW.inWin (r : RefW) (ix : List Nat) : Option (List Nat) :=
  if (List.range 4).all fun a => decide (r.s a ≤ nth 0 ix a ∧ nth 0 ix a < r.s a + r.n a) then
    some ((List.range 4).map fun a => nth 0 ix a - r.s a) else none

/-- The output element of element c of an entry of a sum or a compare (R78, R195), plus 1. -/
def Seg.inElem (g : Seg) (l : List Nat) (c : Nat) : Nat :=
  match l with
  | [] => 0
  | ref :: _ =>
    let ix := labIx l c
    if g.variant = 2 then g.outRef.t.elemNo (ix.set g.cax 0)
    else match (nth ({} : RefW) g.refs ref).inWin ix with
      | some o => g.outRef.t.elemNo ((List.range 4).map fun a => nth 0 o a + g.outRef.s a)
      | none => 0

/-- The place of an output element along the axis mapped to columns (R79): B's free axis in a product, the innermost one otherwise. -/
def Seg.place (g : Seg) (el : Nat) : Nat :=
  let t := g.outRef.t
  let ax := if g.variant = 0 then TD.cBax g.desc else 0
  if ax = 0 then el % t.e0 else t.rowIdx (el / t.e0) ax

/-- The output elements, plus 1, whose slices meet in the 128 columns at an issue of an entry `a` against the active half `b`. -/
def Seg.meetElems (g : Seg) (a : List Nat) (b : Nat → List Nat) : List Nat :=
  if g.typ ≠ 0 ∨ a.isEmpty then [] else
  (List.range 128).map fun c => if g.variant = 0 then g.prodElem a (b c) else g.inElem a c

/-- Of the elements that meet in a row, those its columns hold: a column holds an element at the element's place modulo 32 (R79),
the lowest such column where several have the same slice; any other column holds none (log 6). -/
def Seg.held (g : Seg) (l : List Nat) : List Nat :=
  if g.variant = 2 then l else
  l.zipIdx.map fun (x, c) =>
    if x ≠ 0 ∧ g.place (x - 1) % 32 = c % 32 ∧ !([32, 64, 96].any fun k => k ≤ c && nth 0 l (c - k) = x) then x else 0

/-- The output elements, plus 1, that the 128 columns of a row hold at an issue. -/
def Seg.issueElems (g : Seg) (a : List Nat) (b : Nat → List Nat) : List Nat := g.held (g.meetElems a b)

/-- The output elements, plus 1, of a preload entry: known from the entry where the preload has the output's extents (R87). -/
def Seg.preElems (g : Seg) (l : List Nat) : List Nat :=
  let p := (nth ({} : RefW) g.refs 3).t
  if l.isEmpty ∨ !((List.range 4).all fun a => p.ext a = g.outRef.t.ext a) then [] else
  (List.range 128).map fun c => if nth 0 l 1 + c < p.e0 then p.elemNo (labIx l c) else 0

/-- Newer elements over older ones. -/
def overElems (new old : List Nat) : List Nat :=
  if new.isEmpty then old else (List.range 128).map fun c => let x := nth 0 new c; if x = 0 then nth 0 old c else x

/-! ### The walk of a segment by labels alone -/

/-- An engine as the walk sees it: labels in its queues and halves, and the first elements of each row. -/
structure MapEng where
  qa : List (List Nat) := []
  qb : List (List Nat) := []
  qp : List (List Nat) := []
  qx : List (Nat × List Nat) := []
  half0 : List (List Nat) := []
  half1 : List (List Nat) := []
  active1 : Bool := false
  first : Tbl (List Nat) := []
  /-- No group held elements of two output tiles, and every element that met was held at its place (R79). -/
  ok : Bool := true
  deriving DecidableEq, Repr

/-- The output tile of an element, plus 1 (R77), as a number list: batch indices and the two tile indices; a tag block for a sum. -/
def Seg.tileOf (g : Seg) (el : Nat) : List Nat :=
  let t := g.outRef.t
  let ix := [el % t.e0, t.rowIdx (el / t.e0) 1, t.rowIdx (el / t.e0) 2, t.rowIdx (el / t.e0) 3]
  let a := if g.variant = 0 then TD.cAax g.desc else 0
  let b := if g.variant = 0 then TD.cBax g.desc else 0
  (List.range 4).map fun x => if x = a ∨ x = b then nth 0 ix x / 32 else nth 0 ix x

/-- R79 on the elements a row holds: each 32-column group within one tile. -/
def Seg.groupsOk (g : Seg) (els : List Nat) : Bool :=
  (List.range 4).all fun k =>
    match ((List.range 32).map fun j => nth 0 els (k * 32 + j)).filter (· ≠ 0) with
    | [] => true
    | e0 :: l => l.all fun e => g.tileOf (e - 1) = g.tileOf (e0 - 1)

/-- The first elements of a row joined by an issue's. -/
def MapEng.see (n : MapEng) (g : Seg) (row : Nat) (els : List Nat) : MapEng :=
  if els.isEmpty then n else
  let old := tget [] n.first row
  let merged := if old.isEmpty then els else overElems old els
  let agree := old.isEmpty || (List.range 4).all fun k =>
    match (List.range 32).find? fun j => nth 0 old (k * 32 + j) ≠ 0, (List.range 32).find? fun j => nth 0 els (k * 32 + j) ≠ 0 with
    | some i, some j => g.tileOf (nth 0 old (k * 32 + i) - 1) = g.tileOf (nth 0 els (k * 32 + j) - 1)
    | _, _ => true
  { n with first := tset [] n.first row merged, ok := n.ok && agree && (g.variant = 2 || g.groupsOk els) }

/-- One engine's labels through one word: its state after and the partial send, if any. -/
def MapEng.step (n : MapEng) (g : Seg) (w ri ci e : Nat) (issued : List (List AGIdx)) : MapEng × Option (Nat × List Nat) :=
  let n := if !RW.bswap w then n else if n.active1 then { n with active1 := false, half1 := [] } else { n with active1 := true, half0 := [] }
  let k := RW.pop w 1
  let fills := (List.range k).map fun i => nth [] n.qb i
  let n := { n with qb := n.qb.drop k }
  let n := if n.active1 then { n with half0 := n.half0 ++ fills } else { n with half1 := n.half1 ++ fills }
  let sent := if bitOf w 430 then some ((fld w 419 5 + ci) % 32, tget [] n.first ((fld w 424 6 + ri) % 64)) else none
  let n := if RW.pop w 2 = 0 then n else
    ({ n with qp := n.qp.drop 1 }).see g ((fld w 465 6 + ri) % 64) (g.preElems (nth [] n.qp 0))
  let n := if !bitOf w 464 then n else match n.qx with
    | [] => n
    | (grp, els) :: t => ({ n with qx := t }).see g ((fld w 458 6 + ri) % 64)
        ((List.range 128).map fun c => if c / 4 = grp then nth 0 els c else 0)
  let n := if RW.iss w = 0 then n else
    let a := nth [] n.qa 0
    let half := if n.active1 then n.half1 else n.half0
    let l := g.meetElems a (nth [] half)
    let h := g.held l
    let n := ({ n with qa := n.qa.drop 1 }).see g ((fld w 472 6 + ri) % 64) h
    { n with ok := n.ok && l.all fun x => x = 0 || h.contains x }
  let lab (q : Nat) : List (List Nat) :=
    let np := RW.push w q
    match RW.psrc w q with
    | 2 => List.replicate np []
    | 3 => if np = 0 then [] else [[]]
    | src =>
      let ag := RW.qag w q
      let cf := nth 0 g.ags ag
      let r := nth ({} : RefW) g.refs (AGC.tref cf)
      ((nth [] issued ag).take np).map fun x =>
        let a := (AGC.addr cf r.place e x + RW.ofs w ag).toNat
        r.label (AGC.tref cf) (a / 128) (sliceCol r.t.f a (src = 1)) (src = 1)
  ({ n with qa := n.qa ++ lab 0, qb := n.qb ++ lab 1, qp := n.qp ++ lab 2 }, sent)

/-- The walk's state: the sequencer and sixteen engines. -/
structure MapSt where
  pc : Nat := 0
  single : Option Nat := none
  cnt : List Nat := [0, 0, 0, 0]
  lat : List Nat := [0, 0, 0, 0]
  live : List Nat := [0, 0, 0, 0]
  ag : List AGIdx := []
  engs : List MapEng := List.replicate 16 {}
  deriving DecidableEq, Repr

/-- One issue of the word at the walk's program counter (R146, R162); `none` past the end of the segment. -/
def MapSt.step (m : MapSt) (g : Seg) (w : Nat) : MapSt × Bool :=
  let op := RW.lpOp w
  let l := RW.lpLvl w
  let latch (m : MapSt) : MapSt := { m with lat := m.lat.set l (nth 0 m.cnt l), live := m.live.set l (nth 0 m.cnt l) }
  let leave (m : MapSt) (next : Nat) : MapSt × Bool := ({ m with pc := next, single := none }, !RW.segend w)
  if op = 3 ∧ m.single.isNone ∧ nth 0 m.cnt l = 0 then leave (latch m) (m.pc + 1) else
  let m := if op = 1 then latch m else if op = 3 ∧ m.single.isNone then { latch m with single := some (nth 0 m.cnt l) } else m
  let it (k : Nat) : Nat := if nth 0 m.live k = 0 then 0 else nth 0 m.lat k - nth 0 m.live k
  let ri := if RW.ridxEn w then it (RW.ridxLvl w) >>> RW.ridxSh w else 0
  let ci := if RW.cidxEn w then it (RW.cidxLvl w) else 0
  let ag := (List.range 8).map fun n => agCycle (nth 0 g.ags n) w n (RW.push w 1 = 2 && RW.qag w 1 = n && RW.psrc w 1 < 2) (nth {} m.ag n)
  let rs := ((List.range 16).zip m.engs).map fun (e, n) => n.step g w ri ci e (ag.map (·.1))
  let engs := ((List.range 16).zip rs).map fun (e, r) => match (nth (({} : MapEng), none) rs ((e + 15) % 16)).2 with
    | some x => { r.1 with qx := r.1.qx ++ [x] }
    | none => r.1
  let cnt := if RW.lpwEn w then m.cnt.set (RW.lpwLvl w) (RW.lpwVal w) else m.cnt
  let m := { m with ag := ag.map (·.2), engs := engs, cnt := cnt }
  let lv := nth 0 m.live l
  match op with
  | 1 => leave m (if lv = 0 then RW.lpAddr w else m.pc + 1)
  | 2 => if 1 < lv then leave { m with live := m.live.set l (lv - 1) } (RW.lpAddr w) else leave { m with live := m.live.set l 0 } (m.pc + 1)
  | 3 =>
    let m := { m with live := m.live.set l (lv - 1) }
    (match m.single with
     | some (n + 2) => ({ m with single := some (n + 1) }, true)
     | _ => leave m (m.pc + 1))
  | _ => leave m (m.pc + 1)

/-- The walk to the end of a segment; fuel bounds the issues and the words passed over. -/
def MapSt.run (g : Seg) (word : Nat → Nat) : Nat → MapSt → MapSt
  | 0, m => m
  | f + 1, m =>
    let (m, more) := m.step g (word m.pc)
    if more then run g word f m else m

/-- The walk of a segment from given engines. -/
def Seg.walk (g : Seg) (word : Nat → Nat) (engs : List MapEng) : MapSt :=
  MapSt.run g word 20000 { cnt := g.lc, ag := g.ags.map AGC.start, engs := engs }

end Sys2Proof.Machine
end

