-- ==== Sys2Proof/Machine/Issue.lean ====
section
/-! DEFINITION. One cycle of a panel (spec/05 R140 to R175, spec/04 R108 to R135): landing of operations in flight,
the issue of one row word on sixteen engines, the detectors, and the walk of the Row Sequencer. -/
namespace Sys2Proof.Machine

/-- A detected dropped stitch (R172, R173). -/
structure DS where
  kind : Nat
  e : Nat
  cycle : Nat
  pc : Nat
  tag : Nat
  wher : Nat
  sub : Nat := 0
  src : Nat := 0
  deriving DecidableEq, Repr

/-- The 64-bit fault record (R173). -/
def DS.word (d : DS) : BitVec 64 :=
  BitVec.ofNat 64 (d.kind * 2 ^ 60 + d.e * 2 ^ 56 + d.cycle % 4096 * 2 ^ 44 + d.pc % 2 ^ 14 * 2 ^ 30 + d.tag * 2 ^ 14
    + d.wher % 64 * 2 ^ 8 + d.sub % 16 * 2 ^ 4 + d.src)

/-- One Skein handed to the network interface by a wide drain (R347), or to the module's combination by a drain of a Skein-192 sum of which
other panels hold parts (R69), with the drain's rounding and modes. -/
structure Emit where
  e : Nat
  row : Nat
  col : Nat
  w : SkeinW
  anc : BitVec 32
  el : Nat := 0
  rnd : Nat := 0
  ovf : Bool := false
  int : Bool := false
  deriving DecidableEq, Repr

/-- Why a cycle has no defined outcome (R176). -/
inductive PStop where
  | portClash
  | extentLeft
  deriving DecidableEq, Repr

/-- What one cycle did. -/
structure PRes where
  p : Panel
  emits : List Emit := []
  stop : Option PStop := none
  deriving DecidableEq, Repr

/-- The k-th free value of a draw number (log 5). -/
def freeAt (fresh k : Nat) : Nat := Config.freeNat (fresh * 2 ^ 32 + k)

/-! ### Queues -/

/-- The occupancy of queue q, numbered as in R148. -/
def Engine.occ (n : Engine) (q : Nat) : Nat :=
  match q with
  | 0 => n.qa.length | 1 => n.qb.length | 2 => n.qp.length | 3 => n.qd.length
  | 4 => n.qe.length | 5 => n.qf.length | 6 => n.qn.length | _ => n.qx.length

/-- An entry at the tail of queue q. -/
def Engine.push (n : Engine) (q : Nat) (x : Ent) : Engine :=
  match q with
  | 0 => { n with qa := n.qa ++ [x] } | 1 => { n with qb := n.qb ++ [x] } | 2 => { n with qp := n.qp ++ [x] }
  | 3 => { n with qd := n.qd ++ [x] } | 4 => { n with qe := n.qe ++ [x] } | 5 => { n with qf := n.qf ++ [x] }
  | 6 => { n with qn := n.qn ++ [x] } | _ => n

/-- A Skein of the file. -/
def Engine.sk (n : Engine) (row col : Nat) : SkeinW := tget 0 n.skeins (row % 64 * 128 + col)
/-- A Skein written. -/
def Engine.setSk (n : Engine) (row col : Nat) (w : SkeinW) : Engine :=
  { n with skeins := tset 0 n.skeins (row % 64 * 128 + col) w }
/-- The anchor record of a column of a row (R117). -/
def Engine.anc (n : Engine) (row col : Nat) : Anc := Anc.of (tget 0 n.anchors (row % 64 * 4 + col / 32))
/-- CLIMB set in an anchor record (R85). -/
def Engine.setClimb (n : Engine) (row grp : Nat) : Engine :=
  { n with anchors := tset 0 n.anchors (row % 64 * 4 + grp) (({ n.anc row (grp * 32) with climb := true } : Anc).toW) }
/-- The output element of a column of a row (log 6). -/
def Engine.elem (n : Engine) (row col : Nat) : Option Nat :=
  match nth 0 (tget [] n.elems (row % 64)) col with
  | 0 => none
  | k + 1 => some k
/-- The elements that an entry brings to a row, over those it had. -/
def Engine.setElems (n : Engine) (row : Nat) (els : List Nat) : Engine :=
  if els.isEmpty then n else { n with elems := tset [] n.elems (row % 64) (overElems els (tget [] n.elems (row % 64))) }
/-- The in-flight counter of a row (R117). -/
def Engine.cnt (n : Engine) (row : Nat) : Nat := tget 0 n.infl (row % 64)
/-- The in-flight counter changed. -/
def Engine.setCnt (n : Engine) (row v : Nat) : Engine := { n with infl := tset 0 n.infl (row % 64) v }

/-- A stream digest over the bytes of an entry (R373). -/
def Engine.fold (n : Engine) (x : BitVec 1024) : Engine := { n with digest := Config.digestStep n.digest (toLE 128 x.toNat) }

/-! ### Landing (R123, R167) -/

/-- Write 128 Skeins of a row. -/
def Engine.mapRow (n : Engine) (row : Nat) (f : Nat → SkeinW → SkeinW) : Engine :=
  (List.range 128).foldl (fun n c => n.setSk row c (f c (n.sk row c))) n

/-- The climbs of a landing, set in the row's anchor records. -/
def Engine.climbs (n : Engine) (row : Nat) (cl : List Bool) : Engine :=
  (List.range 4).foldl (fun n g => if (List.range 32).any (fun j => nth false cl (g * 32 + j)) then n.setClimb row g else n) n

/-- One operation in flight takes effect on its engine. -/
def Engine.land (n : Engine) (op : FlyOp) : Engine :=
  match op with
  | .read q x => n.push q x
  | .drain q x => (n.push q x).fold x.data
  | .elem x => n.push 5 x
  | .send x => { n with qx := n.qx ++ [x] }
  | .product row add cl =>
    ((n.mapRow row fun c w => ((Sk.of w).add (nth Sk.zero add c)).toW).climbs row cl).setCnt row (n.cnt row - 1)
  | .forerun row g prods =>
    (n.mapRow row fun c w => BitVec.ofNat 196 (toF32 (foreStep g (ofF32 (w.toNat % 2 ^ 32)) (nth [] prods c)))).setCnt row (n.cnt row - 1)
  | .compare row isMax vs idx =>
    (n.mapRow row fun c w => match vs[c]? with
      | some v => ((Cmp.of w).upd isMax v idx).toW
      | none => w).setCnt row (n.cnt row - 1)
  | .preload row ws cl =>
    ((n.mapRow row fun c w => nth w ws c).climbs row cl).setCnt row (n.cnt row - 1)
  | .nadd row x cmp =>
    ((List.range 4).foldl (fun n j =>
      let c := x.grp % 32 * 4 + j
      let a := n.sk row c
      let b := nth 0 x.words j
      n.setSk row c (if cmp = 0 then ((Sk.of a).add (Sk.of b)).toW else ((Cmp.of a).comb (cmp = 2) (Cmp.of b)).toW)) n).setCnt row (n.cnt row - 1)
  | .normDone g mu var rho =>
    { n with norm := tset {} n.norm g { tget {} n.norm g with mu := mu, var := var, rho := rho } }
  | .halfReady h1 =>
    if h1 then { n with half1 := { n.half1 with ready := true } } else { n with half0 := { n.half0 with ready := true } }

/-- Engine e of a panel; 16 is the spare. -/
def Panel.eng (p : Panel) (e : Nat) : Engine := if e = 16 then p.spare else p.engines.toList.getD e {}
/-- Engine e replaced. -/
def Panel.setEng (p : Panel) (e : Nat) (n : Engine) : Panel :=
  if e = 16 then { p with spare := n } else { p with engines := p.engines.setIfInBounds e n }
/-- A function over the engines; the spare takes it as the engine it shadows (R136). -/
def Panel.mapEng (p : Panel) (f : Nat → Engine → Engine) : Panel :=
  { p with engines := p.engines.mapIdx f, spare := f p.shadow p.spare }

/-- One operation in flight lands on its panel. -/
def Panel.land1 (p : Panel) (f : Fly) : Panel := p.setEng f.e ((p.eng f.e).land f.op)

/-- The climb events a landing causes, counted on the `GAU` page. -/
def Fly.climbCount (f : Fly) : Nat :=
  match f.op with
  | .product _ _ cl | .preload _ _ cl => ((List.range 4).filter fun g => (List.range 32).any fun j => nth false cl (g * 32 + j)).length
  | _ => 0

/-- The queue at whose tail an operation arrives. -/
def FlyOp.queue : FlyOp → Option Nat
  | .read q _ | .drain q _ => some q
  | .send _ => some 7
  | .elem _ => some 5
  | _ => none

/-- Entries a queue accepts in one cycle (R110). -/
def pushMax (q : Nat) : Nat := if q = 1 then 2 else 1

/-- The queues that overflow in a cycle, each with the word whose entry arrived last (R165, R173): more than 16 entries, or more
arrivals than R110 allows (log 45). -/
def Panel.overflows (p : Panel) (c : Nat) : List DS :=
  ((List.range 16).flatMap fun e => (List.range 8).map fun q => (e, q)).filterMap fun (e, q) =>
    let mine := p.arr.filter fun a => a.cycle = c && a.e = e && a.q = q
    if 16 < (p.eng e).occ q ∨ pushMax q < mine.length then
      let a := mine.getLast?.getD { cycle := c, e := e, q := q, pc := p.pc, tag := 0 }
      some { kind := 2, e := e, cycle := c, pc := a.pc, tag := a.tag, wher := q }
    else none

/-- Faults counted, in all and by engine (R173). -/
def PCnt.fault (c : PCnt) (es : List Nat) : PCnt :=
  { c with faults := c.faults + es.length, byEngine := es.foldl (fun l e => l.set e (nth 0 l e + 1)) c.byEngine }

/-- Lines marked poisoned (R174, R493). -/
def Panel.spoil (p : Panel) (ls : List Nat) : Panel :=
  { p with sram := ls.foldl (fun m l => tset {} m l { tget ({} : Line) m l with poison := true }) p.sram }

/-- A dropped-stitch fault takes hold (R174): no further word, no raises, the record of the first fault, and every line that the
segment wrote is poisoned. The spare's detectors raise none (R175). -/
def Panel.raiseDS (p : Panel) (l : List DS) : Panel :=
  match l.filter (·.e < 16) with
  | [] => p
  | d :: t =>
    let lo := t.foldl (fun a b => if b.e < a.e then b else a) d
    let es := ((d :: t).map (·.e)).foldl sins []
    ({ p with fault := some (p.fault.getD lo.word), raises := [], ended := true, counts := p.counts.fault es }).spoil p.written

/-- Operations land in issue order; the arrivals of the cycle are kept. -/
def Panel.landAll (p : Panel) (a b : List Fly) (c : Nat) : Panel :=
  let q := a.foldl Panel.land1 { p with fly := b }
  let new := a.filterMap fun f => f.op.queue.map fun k => ({ cycle := f.due, e := f.e, q := k, pc := f.pc, tag := f.tag } : Arrival)
  { q with arr := q.arr.filter (fun x => c ≤ x.cycle) ++ new
           counts := { q.counts with climbs := q.counts.climbs + sumN ((a.filter (·.e < 16)).map Fly.climbCount) } }

/-- Everything due at cycle c lands, in issue order. -/
def Panel.landAt (p : Panel) (c : Nat) : Panel :=
  let (a, b) := p.fly.partition fun f => f.due ≤ c
  p.landAll a b c

/-- The overflow test of a cycle in which no word pops. -/
def Panel.overTest (p : Panel) (c : Nat) : Panel := if p.fault.isSome then p else p.raiseDS (p.overflows c)

/-- The cycles up to (not including) c in which something lands, each with its overflow test; then what is due at c. -/
def Panel.landTo (p : Panel) (c : Nat) : Panel :=
  let dues := (p.fly.map (·.due)).foldl sins []
  let q := (dues.filter (· < c)).foldl (fun (p : Panel) d => (p.landAt d).overTest d) p
  q.landAt c

/-- The kinds of landing that have a command of their own. -/
def FlyOp.kind : FlyOp → Nat
  | .read _ _ => 0
  | .product _ _ _ | .forerun _ _ _ | .compare _ _ _ _ => 1
  | .drain _ _ => 2
  | .preload _ _ _ => 3
  | .nadd _ _ _ => 4
  | .send _ => 5
  | .elem _ => 6
  | .normDone _ _ _ _ => 7
  | .halfReady _ => 8

/-- The earliest operations of one kind land: what an arrival command does. A queue settles with the pops of its cycle (R165), so
the overflow test of a cycle in which a word is still to issue is that word's. -/
def Panel.landKind (p : Panel) (k : Nat) : Panel :=
  match (p.fly.filter fun f => f.op.kind = k).map (·.due) with
  | [] => p
  | d :: t =>
    let c := t.foldl min d
    let (a, b) := p.fly.partition fun f => f.op.kind = k && f.due ≤ c
    let q := p.landAll a b c
    if c = p.cycle ∧ !p.ended ∧ p.seg.isSome then q else q.overTest c

/-! ### Slices and entries -/

/-- The bobble slots of the block of element k of an entry (R57, R109). -/
def Ent.slotsOf (x : Ent) (k : Nat) : List Nat :=
  (List.range x.slots).map fun j => fld x.bob.toNat (((x.blk + k) / 32 * x.slots + j) * 16) 16

/-- Element k of an entry: its value relative to its scale, and the scale exponent (R41, R60, R108, R133). `cable` tells
per-element scale bytes from per-word ones. Past the end of the axis there is no element: it adds nothing (R72). -/
def Ent.el (x : Ent) (f : Fmt) (cable : Bool) (k : Nat) : SlEl :=
  if x.cut ≤ k then { v := Val.zero, s := 0 } else
  let code := fld x.data.toNat (k * f.width) f.width
  let sb := fld x.sc.toNat (8 * (if cable then k else (x.off * 8 + k * f.width) / 64)) 8
  let v := match bobbleOf (x.slotsOf k) ((x.blk + k) % 32) with
    | some c => Fmt.decode .e4m3 c
    | none => f.decode code
  if f.scaled then (if sb = 0xFF then { v := .nan, s := 0 } else { v := v, s := (sb : Int) - 127 })
  else if f = .selv then { v := selvVal (selvE x.hdr.toNat) code, s := 0 }
  else { v := v, s := 0 }

/-- The exact value of element k of an entry. -/
def Ent.val (x : Ent) (f : Fmt) (cable : Bool) (k : Nat) : Val := let e := x.el f cable k; e.v.scale e.s

/-- The value an element unit or Norm lane reads: Selvedge-64 rounded once to FP32 (R38, R177). -/
def Ent.read (x : Ent) (f : Fmt) (k : Nat) : Val :=
  if f = .selv then f32 (x.val f false k).toEx else x.val f false k

/-- The format word of a reference of the segment. -/
def Seg.fw (g : Seg) (r : Nat) : Reg64 := (nth {} g.refs r).t.fmt

/-- Exact values packed as an entry of a format (drains to QE and QN, QF to QP): unscaled formats by code, scaled formats
by whole scale blocks of `blk` elements, Selvedge-64 as one block with what else the block holds. -/
def packEnt (f : Fmt) (fw : Reg64) (w : WrMode) (rn : List Rnd) (xs rest : List Ex) (half : Nat) : Ent × Bool :=
  let n := xs.length
  if f.scaled then
    let b := FW.block fw
    let fixed := if FW.fixed fw then some (FW.fixedScale fw) else none
    let bl := (List.range (cdiv n b)).map fun k => writeScaled f w fixed ((rn.drop (k * b)).take b) (padTo Ex.zero b ((xs.drop (k * b)).take b))
    let codes := (bl.map (·.codes)).flatten
    let data := ((List.range n).map fun k => nth 0 codes k * 2 ^ (k * f.width))
    let sc := (List.range 16).map fun j =>
      let k := j * 64 / f.width
      if k < n then (nth { scale := 0, codes := [], sat := false } bl (k / b)).scale * 2 ^ (8 * j) else 0
    ({ data := BitVec.ofNat 1024 (sumN data), sc := BitVec.ofNat 4096 (sumN sc) }, bl.any (·.sat))
  else if f = .selv then
    let all := if half = 0 then xs ++ rest else rest ++ xs
    let (h, cs, sat) := writeSelv w.inf (all.zip (padTo Rnd.rne all.length rn) |>.map fun (x, r) => (x, r, true))
    let mine := if half = 0 then cs.take n else cs.drop rest.length
    ({ data := BitVec.ofNat 1024 (sumN ((List.range mine.length).map fun k => nth 0 mine k * 2 ^ (64 * k)))
       hdr := BitVec.ofNat 64 h }, sat)
  else
    let es := (xs.zip (padTo Rnd.rne n rn)).map fun (x, r) => f.encElem w false 0 r x
    ({ data := BitVec.ofNat 1024 (sumN ((List.range n).map fun k => (nth { code := 0 } es k).code * 2 ^ (k * f.width))) }, es.any (·.sat))

/-! ### Landing values at a destination line -/

/-- A write's result: the line, SAT and QE sums, a bound fault of R178. -/
structure LineW where
  ln : Line
  other : Option Line := none
  out : WrOut := {}
  bad : Bool := false
  deriving DecidableEq, Repr

/-- The bytes of a line that `WBE` enables: first byte and count (R157). -/
def wbeBytes (wbe : Nat) : Nat × Nat := match wbe with | 1 => (0, 64) | 2 => (64, 64) | _ => (0, 128)

/-- The byte of a line at which byte 0 of an entry of n bytes stands (R157): an entry of at most 64 bytes fills the half that `WBE`
names. -/
def wbeShift (wbe n : Nat) : Nat := if wbe = 2 ∧ n ≤ 64 then 64 else 0

/-- A whole-entry write of 128 bytes placed in a line under `WBE` (R157): the enabled bytes, with the scales of their words. -/
def lineBytes (old : Line) (x : Ent) (wbe : Nat) : Line :=
  let (lo, n) := wbeBytes wbe
  { old with
    data := BitVec.ofNat 1024 (setFld old.data.toNat (lo * 8) (n * 8) (x.data.toNat >>> (lo * 8)))
    sc := BitVec.ofNat 128 (setFld old.sc.toNat lo n (x.sc.toNat >>> lo))
    bob := if wbe = 0 then x.bob else old.bob
    hdr := x.hdr }

/-- The random draw of element k of pending values (R63, R98): by the element it is stored at, or, where a drain does not store
it, by the output element of its Skein. -/
def Pend.rnds (p : Pend) (t : TRec) (terms seed step lin0 : Nat) : List Rnd :=
  let purpose : Option Nat :=
    if p.rnd = 0 then none
    else if p.isDrain ∧ p.rnd = 2 then (if terms ≤ 2 ^ 20 then none else some (FW.purpose t.fmt 2))
    else some (if p.fmt = 12 then 6 else FW.purpose t.fmt 1)
  (List.range p.xs.length).map fun k =>
    match purpose with
    | none => Rnd.rne
    | some pu => .stoch (elemRandom seed t.tid step pu ((nth none p.els k).getD (lin0 + k)))

/-- A packed run of 64-bit codes. -/
def pack64 (l : List Nat) : Nat := sumN (l.zipIdx.map fun (c, k) => c * 2 ^ (64 * k))

/-- The stored value of element k of a Selvedge-64 line. -/
def Line.selvAt (l : Line) (k : Nat) : Ex := (selvVal (selvE l.hdr.toNat) (fld l.data.toNat (64 * k) 64)).toEx

/-- Sixteen pending values written into their line of a Selvedge-64 block (R37): `new k` tells the elements the write covers, `rest`
the values that the other half of the block receives in the next drain cycle, where this is a drain (R119). Both lines take the
block's new exponent; a block of which nothing is covered stays as it is. -/
def writeSelvHalf (inf : Bool) (old other : Line) (odd : Bool) (mine : List (Ex × Rnd)) (new : Nat → Bool) (rest : Nat → Option (Ex × Rnd)) : LineW :=
  if !((List.range 16).any new) then { ln := old, other := some other } else
  let a := (List.range 16).map fun k => if new k then ((nth (Ex.zero, Rnd.rne) mine k).1, (nth (Ex.zero, Rnd.rne) mine k).2, true) else (old.selvAt k, Rnd.rne, false)
  let b := (List.range 16).map fun k => match rest k with
    | some x => (x.1, x.2, true)
    | none => (other.selvAt k, Rnd.rne, false)
  let (h, cs, _) := writeSelv inf (if odd then b ++ a else a ++ b)
  let mineC := if odd then cs.drop 16 else cs.take 16
  let E := selvE h
  let kept := (List.range 16).map fun k => (selvCode inf E (other.selvAt k, Rnd.rne, false)).1
  { ln := { old with data := BitVec.ofNat 1024 (pack64 mineC), hdr := BitVec.ofNat 64 h }
    other := some { other with data := BitVec.ofNat 1024 (pack64 kept), hdr := BitVec.ofNat 64 h }
    out := { sat := (List.range 16).any fun k => new k && (selvCode inf E (nth (Ex.zero, Rnd.rne, false) a k)).2
             special := (List.range 16).any fun k => new k && !(Fmt.decode .selv (nth 0 mineC k)).isFin } }

/-- Pending values written into a line of a tensor's placement: row and first column of the line, and the other line of
the same Selvedge-64 block. Padding positions count as +0 and are stored as code 0 (R40, R178). Elements withheld by the drain
(`keep`) and bytes that `WBE` does not enable stay as they are, with their scale, bobbles and flags (R99, R100, R157, R230). An
entry shorter than the bytes enabled writes its own bytes only (log 46). -/
def Pend.write (p : Pend) (g : Seg) (r : RefW) (trow pcol0 : Nat) (old oldOther : Line) (wbe : Nat) (odd : Bool) : LineW :=
  let f := (Fmt.ofCode p.fmt).getD .fp32
  let t := r.t
  let (lo, nb) := wbeBytes wbe
  let sh := wbeShift wbe (cdiv (p.xs.length * f.width) 8)
  let j0 := sh * 8 / f.width
  let c0 := pcol0 + j0
  let w : WrMode := { inf := p.ovf, wrap := p.int }
  let rn := ({ p with els := [] } : Pend).rnds t g.terms g.seed g.step (t.lin trow c0)
  let xs := if t.rotEn then rotRun (fun j => nth 0 r.rates j) (t.rotPos trow) (c0 / 2) p.xs else p.xs
  let len := min xs.length (t.e0 - c0)
  let kp (k : Nat) : Bool := nth false p.keep k
  let en (k : Nat) : Bool := decide (lo * 8 ≤ (j0 + k) * f.width ∧ (j0 + k) * f.width < (lo + nb) * 8)
  let onto (d : Nat) : Nat := setFld old.data.toNat (lo * 8) (nb * 8) (d >>> (lo * 8))
  if f.scaled then
    let b := t.blk
    if !p.isDrain ∧ c0 % b ≠ 0 then { ln := old, bad := true } else
    let skip (k : Nat) : Bool := (List.range b).any fun i => kp (k / b * b + i)
    let u := encRun { t with fmt := BV.put t.fmt 20 5 f.code } w rn (xs.take len)
    let data := (List.range xs.length).foldl (fun d k =>
      if skip k then d else setFld d ((j0 + k) * f.width) f.width (nth 0 u.codes k)) old.data.toNat
    let sc := (List.range 16).foldl (fun d j =>
      let k := j * 64 / f.width
      if j0 ≤ k ∧ k < j0 + len ∧ lo ≤ 8 * j ∧ 8 * j < lo + nb ∧ !skip (k - j0) then setFld d (8 * j) 8 (nth 0 u.scales ((k - j0) / b)) else d) old.sc.toNat
    let bob := (List.range u.bobs.length).foldl (fun d i =>
      let k := i / max 1 t.bobs * 32
      if skip k ∨ !(en k) then d else setFld d ((j0 / 32 * t.bobs + i) * 16) 16 (nth 0 u.bobs i)) old.bob.toNat
    { ln := { old with data := BitVec.ofNat 1024 (onto data), sc := BitVec.ofNat 128 sc, bob := BitVec.ofNat 1024 bob }
      out := u.out fun k => !skip (k * b) && en (k * b) }
  else if f = .selv then
    let base := if odd then c0 - 16 else c0 + 16
    let rr := ({ p with els := [], xs := p.rest } : Pend).rnds t g.terms g.seed g.step (t.lin trow base)
    let mine := xs.zip rn
    writeSelvHalf w.inf old oldOther odd ((List.replicate j0 (Ex.zero, Rnd.rne)) ++ mine)
      (fun k => decide (j0 ≤ k ∧ k < j0 + len) && !kp (k - j0) && en (k - j0))
      (fun k => if decide (k < p.rest.length ∧ base + k < t.e0) && !nth false p.restKeep k then some (nth Ex.zero p.rest k, nth Rnd.rne rr k) else none)
  else
    let es := ((xs.take len).zip rn).map fun (x, r) => f.encElem w false 0 r x
    let wr (k : Nat) : Bool := !kp k && en k
    let data := (List.range xs.length).foldl (fun d k =>
      if kp k then d else setFld d ((j0 + k) * f.width) f.width (nth { code := 0 } es k).code) old.data.toNat
    { ln := { old with data := BitVec.ofNat 1024 (onto data) }
      out := { sat := (List.range es.length).any fun k => wr k && (nth { code := 0 } es k).sat
               special := (List.range es.length).any fun k => wr k && !(f.decode (nth { code := 0 } es k).code).isFin } }

/-! ### Issue on one engine -/

/-- What the word gives every engine in one cycle: the segment, the word, its place, the iteration indices added to
rows and columns, and the indices each generator issued this cycle (at most two). -/
structure IssueCtx where
  g : Seg
  w : Nat
  cycle : Nat
  pc : Nat
  ri : Nat
  ci : Nat
  issued : List (List AGIdx)
  sram : Tbl Line
  fresh : Nat
  deriving DecidableEq, Repr

/-- One engine's part of a cycle. `cancels` are the Norm groups that a clear emptied, so that no finish still pending writes them
(R197, R200). -/
structure EngRes where
  n : Engine
  flies : List Fly := []
  faults : List DS := []
  writes : List (Nat × Ent) := []
  reads : List (Nat × Option Nat × Nat) := []
  emits : List Emit := []
  tainted : Bool := false
  undef : Bool := false
  fmts : List Nat := []
  arr : List Arrival := []
  cancels : List Nat := []
  deriving DecidableEq, Repr

/-- The physical line of a logical line of the grant (R125). -/
def Seg.phys (g : Seg) (ln : Nat) : Nat := nth 0 g.map (ln / 512) * 512 + ln % 512

/-- A fault of the issuing word on engine e. -/
def IssueCtx.ds (c : IssueCtx) (e kind wher : Nat) (sub : Nat := 0) (src : Nat := 0) : DS :=
  { kind := kind, e := e, cycle := c.cycle, pc := c.pc, tag := RW.tag c.w, wher := wher, sub := sub, src := src }

/-- An operation in flight issued by this word. -/
def IssueCtx.fly (c : IssueCtx) (e lat : Nat) (op : FlyOp) : Fly :=
  { due := c.cycle + lat, e := e, pc := c.pc, tag := RW.tag c.w, op := op }

/-- Add a fault. -/
def EngRes.bad (r : EngRes) (d : DS) : EngRes := { r with faults := r.faults ++ [d] }

/-- Skein words that a word reads: the lowest one an uncorrectable error has hit is a fault of the ECC kind (R130, R173). -/
def EngRes.eccSkeins (r : EngRes) (c : IssueCtx) (e row : Nat) (cols : Nat → Bool) : EngRes :=
  match (r.n.badSk.filter fun k => k / 128 = row && cols (k % 128)) with
  | [] => r
  | k :: t => r.bad (c.ds e 10 row ((t.foldl min k) % 128 / 8) 1)

/-- The anchor records of a row, likewise. -/
def EngRes.eccAnchors (r : EngRes) (c : IssueCtx) (e row : Nat) : EngRes :=
  match r.n.badAnc.filter fun k => k / 4 = row with
  | [] => r
  | k :: t => r.bad (c.ds e 10 row ((t.foldl min k) % 4) 4)

/-- The active half of the B buffer, likewise. -/
def EngRes.eccHalf (r : EngRes) (c : IssueCtx) (e : Nat) : EngRes :=
  match (if r.n.active1 then r.n.half1 else r.n.half0).ecc with
  | none => r
  | some k => r.bad (c.ds e 10 r.n.active1.toNat k 2)

/-- An entry whose bits nothing defines: what an underflowing pop delivers (log 5). -/
def freeEnt (k : Nat) : Ent := { data := BitVec.ofNat 1024 (Config.freeNat k), sc := BitVec.ofNat 4096 (Config.freeNat (k + 1)) }

/-- Pop one entry of queue q (R165); an empty queue underflows, and an entry with a parity error is a fault (R130). -/
def EngRes.pop1 (r : EngRes) (c : IssueCtx) (e q : Nat) : EngRes × Ent :=
  let take (l : List Ent) (set : List Ent → Engine) : EngRes × Ent :=
    match l with
    | x :: t => let r := { r with n := set t, tainted := r.tainted || x.poison }; (if x.ecc then r.bad (c.ds e 10 q 0 3) else r, x)
    | [] => (r.bad (c.ds e 1 q), freeEnt (c.fresh * 2 ^ 32 + (e * 8 + q) * 4))
  match q with
  | 0 => take r.n.qa fun t => { r.n with qa := t }
  | 1 => take r.n.qb fun t => { r.n with qb := t }
  | 2 => take r.n.qp fun t => { r.n with qp := t }
  | 3 => take r.n.qd fun t => { r.n with qd := t }
  | 4 => take r.n.qe fun t => { r.n with qe := t }
  | 5 => take r.n.qf fun t => { r.n with qf := t }
  | _ => take r.n.qn fun t => { r.n with qn := t }

/-- The address a generator issued for engine e, checked against the grant (R161): the logical line, or a fault. -/
def IssueCtx.addr (c : IssueCtx) (e ag : Nat) (x : AGIdx) : Option Nat :=
  let cf := nth 0 c.g.ags ag
  let r := nth {} c.g.refs (AGC.tref cf)
  let a := AGC.addr cf r.place e x + RW.ofs c.w ag
  if 0 ≤ a ∧ a < (c.g.granules * 65536 : Nat) then some a.toNat else none

/-- The reference a generator feeds from. -/
def IssueCtx.ref (c : IssueCtx) (ag : Nat) : RefW := nth {} c.g.refs (AGC.tref (nth 0 c.g.ags ag))

/-- Is a line of the grant inside the reference's placement, in a staged piece (R301)? -/
def RefW.holds (r : RefW) (ln : Nat) (needStaged : Bool) : Bool :=
  decide (r.place * 512 ≤ ln) &&
  match r.ofLine (ln - r.place * 512) with
  | some (_, j) => !needStaged || r.staged j
  | none => false

/-- A line read: the entry it brings (R108, R127). -/
def IssueCtx.readLine (c : IssueCtx) (ref : Nat) (r : RefW) (a : Nat) : Ent :=
  let ln := a / 128
  let l := tget ({} : Line) c.sram (c.g.phys ln)
  let wd := a / 8 % 16
  let eo := sliceCol r.t.f a false
  let idx := match r.ofLine (ln - r.place * 512) with
    | some (row, j) => c.g.idxBase + r.axisIdx (r.trow row) (r.pcol j) c.g.cax
    | none => 0
  { data := l.data >>> (a % 128 * 8), sc := BitVec.ofNat 4096 (l.sc.toNat >>> (8 * wd)), off := a % 8, blk := eo % 32, slots := r.t.bobs
    bob := l.bob >>> (eo / 32 * r.t.bobs * 16), hdr := l.hdr, idx := idx, poison := l.poison, lab := r.label ref ln eo false
    cut := match r.ofLine (ln - r.place * 512) with
      | some (_, j) => r.t.e0 - (r.pcol j + eo)
      | none => 512 }

/-- The words of a line that a read takes and an uncorrectable error has hit: bank and sub-bank of the lowest (R126, R130, R173). -/
def IssueCtx.eccLine (c : IssueCtx) (ln : Nat) (word : Option Nat) : Option (Nat × Nat) :=
  let l := tget ({} : Line) c.sram (c.g.phys ln)
  ((List.range 16).find? fun w => l.ecc.getLsbD w && (word.isNone || word = some w)).map fun w => (ln / 512 % 64, (w + ln % 512) % 16)

/-- The lines of a cable tile (R131): line k of the tile. -/
def cableLine (a k : Nat) : Nat := a / 128 + k % 64 * 512 + k / 64

/-- A cable slice out of a held word group (R132): element j of each word; for formats narrower than a byte the
element of the named byte is a free choice (log 9). -/
def cableSlice (f : Fmt) (n a idx : Nat) (b : Cable) : Ent :=
  let per := 8 / f.width
  let j := if f.width < 8 then a % 8 * per + Config.moduleConst (2 ^ 64 + a) % per else a % 8 * 8 / f.width
  { data := BitVec.ofNat 1024 (sumN ((List.range n).map fun k => fld (nth 0 b.words k).toNat (j * f.width) f.width * 2 ^ (k * f.width)))
    sc := BitVec.ofNat 4096 (sumN ((List.range n).map fun k => (nth 0 b.scs k).toNat * 2 ^ (8 * k))), idx := idx }

/-- Does an entry of n elements hold a reserved code, so that reading it sets FMT (R34, R49, R60)? -/
def Ent.fmt (x : Ent) (f : Fmt) (n : Nat) : Bool :=
  (f = .t2 && (List.range n).any fun k => f.readsFmt (fld x.data.toNat (k * f.width) f.width))
  || (decide (0 < x.slots) && (List.range (cdiv (x.blk + n) 32)).any fun b => bobblesFmt (x.slotsOf (b * 32 - x.blk)))

/-- A slice or line that a queue reads and the flag it may set, at the reference that is read (R49, log 47). -/
def EngRes.arrives (r : EngRes) (c : IssueCtx) (e q lat ref : Nat) (x : Ent) (f : Fmt) (n : Nat) : EngRes :=
  { r with flies := r.flies ++ [c.fly e lat (.read q x)], fmts := if x.fmt f n then r.fmts ++ [ref] else r.fmts }

/-- How many lines of a cable tile hold elements (R131, R301): the first n where the window has them; fewer where the contracted axis ends
first, so that the rest of the slice adds nothing (R72); none where the tile leaves the placement or reads bytes that R301 leaves
undefined (R176). -/
def RefW.tileLines (r : RefW) (a n : Nat) : Option Nat :=
  match r.ofLine (a / 128 - r.place * 512) with
  | none => none
  | some (row, j) =>
    let m := if r.n 2 * r.n 3 = 1 ∧ r.t.e1 ≤ r.s 1 + r.n 1 then min n (r.n 1 - row) else n
    if r.staged j ∧ (List.range m).all (fun k => r.holds (cableLine a k) true) then some m else none

/-- The reads a queue's `PUSH` asks for (R148, R160, R161). A zero entry takes the latency of the queue's read kind (log 48); a cable tile
has as many lines as the smaller depth of the product (R108, log 49). -/
def EngRes.pushes (r : EngRes) (c : IssueCtx) (e q : Nat) : EngRes :=
  let np := RW.push c.w q
  if np = 0 then r else
  let ag := RW.qag c.w q
  let rf := c.ref ag
  let cab : Bool := if q = 0 then Arr.trA c.g.arr else if q = 1 then Arr.trB c.g.arr else false
  let ref := AGC.tref (nth 0 c.g.ags ag)
  match RW.psrc c.w q with
  | 2 => { r with flies := r.flies ++ (List.replicate np (c.fly e (if cab then 8 else 6) (.read q ({} : Ent)))) }
  | 3 => r
  | src =>
    ((nth [] c.issued ag).take np).foldl (fun r x =>
      match c.addr e ag x with
      | none => r.bad (c.ds e 8 ag)
      | some a =>
        if src = 0 then
          if !rf.holds (a / 128) true then { r with undef := true } else
          let x := c.readLine ref rf a
          let n := if q < 2 then min (Arr.depth c.g.arr) rf.t.f.perLine else rf.t.f.perLine - sliceCol rf.t.f a false
          let r := { r with reads := r.reads ++ [(a / 128, none, e)] }
          let r := match c.eccLine (a / 128) none with
            | some (b, k) => r.bad (c.ds e 10 b k 0)
            | none => r
          r.arrives c e q 6 ref x rf.t.f n
        else
          let n := Arr.depth c.g.arr
          let f := rf.t.f
          if 511 < a / 128 % 512 + (n - 1) / 64 ∨ c.g.granules ≤ a / 65536 + min n 64 - 1 then r.bad (c.ds e 8 ag) else
          let held := tget ({} : Cable) r.n.cables ag
          let lab := rf.label ref (a / 128) (sliceCol f a true) true
          let idx := match rf.ofLine (a / 128 - rf.place * 512) with
            | some (row, _) => c.g.idxBase + rf.axisIdx (rf.trow row) (nth 0 lab 1) c.g.cax
            | none => 0
          match rf.tileLines a n with
          | none => { r with undef := true }
          | some m =>
          if held.held ∧ held.addr / 8 = a / 8 then
            r.arrives c e q 8 ref { cableSlice f n a idx held with lab := lab, cut := m, poison := held.poison } f n
          else
            let lines := (List.range n).map fun k => cableLine a k
            let ls := lines.map fun ln => tget ({} : Line) c.sram (c.g.phys ln)
            let wd := a / 8 % 16
            let b : Cable := { held := true, addr := a, words := ls.map fun l => BitVec.ofNat 64 (fld l.data.toNat (wd * 64) 64)
                               scs := ls.map fun l => BitVec.ofNat 8 (fld l.sc.toNat (8 * wd) 8), poison := (ls.take m).any (·.poison) }
            let r := { r with n := { r.n with cables := tset {} r.n.cables ag b }, reads := r.reads ++ (lines.map fun ln => (ln, some wd, e)) }
            let r := match (lines.take m).findSome? (fun ln => c.eccLine ln (some wd)) with
              | some (b, k) => r.bad (c.ds e 10 b k 0)
              | none => r
            r.arrives c e q 8 ref { cableSlice f n a idx b with lab := lab, cut := m, poison := b.poison } f n) r

/-- One QB pop: the next slice of the inactive half (R111, R112). -/
def EngRes.fill1 (r : EngRes) (c : IssueCtx) (e : Nat) : EngRes :=
  let (r, x) := r.pop1 c e 1
  let toHalf1 := !r.n.active1
  let h := if toHalf1 then r.n.half1 else r.n.half0
  if 128 ≤ h.slices.length then r.bad (c.ds e 2 1 1) else
  let h' := { h with slices := h.slices ++ [x] }
  let n := if toHalf1 then { r.n with half1 := h' } else { r.n with half0 := h' }
  { r with n := n, flies := if h'.slices.length = 128 then r.flies ++ [c.fly e 2 (.halfReady toHalf1)] else r.flies }

/-- The swap of the B halves (R112). -/
def EngRes.swap (r : EngRes) (c : IssueCtx) (e : Nat) : EngRes :=
  if !RW.bswap c.w then r else
  let inact := if r.n.active1 then r.n.half0 else r.n.half1
  let r := if inact.ready then r else r.bad (c.ds e 1 1 1)
  let n := if r.n.active1 then { r.n with active1 := false, half1 := {} } else { r.n with active1 := true, half0 := {} }
  { r with n := n }

/-- The line of an element of a staged window, and the element's place in it (R301). -/
def RefW.winLine (r : RefW) (o : List Nat) : Nat × Nat :=
  let col := r.s 0 + nth 0 o 0
  let row := nth 0 o 1 + r.n 1 * (nth 0 o 2 + r.n 2 * nth 0 o 3)
  let j := col / r.t.f.perLine
  (r.place * 512 + r.toLine row j, col - r.pcol j)

/-- The line of an element of a staged window as an entry, and the element's place in it (R41, R301). -/
def IssueCtx.winEnt (c : IssueCtx) (r : RefW) (o : List Nat) : Ent × Nat :=
  let (ln, k) := r.winLine o
  let l := tget ({} : Line) c.sram (c.g.phys ln)
  ({ data := l.data, sc := BitVec.ofNat 4096 l.sc.toNat, bob := l.bob, hdr := l.hdr, slots := r.t.bobs }, k)

/-- The value of an element of a staged window, as it stands in Panel SRAM (R41, R301). -/
def IssueCtx.winVal (c : IssueCtx) (r : RefW) (o : List Nat) : Val := let (x, k) := c.winEnt r o; x.val r.t.f false k

/-- Does reading an element of a staged window set FMT (R34, R60)? -/
def IssueCtx.winFmt (c : IssueCtx) (r : RefW) (o : List Nat) : Bool :=
  let (x, k) := c.winEnt r o
  (r.t.f = .t2 && r.t.f.readsFmt (fld x.data.toNat (k * r.t.f.width) r.t.f.width)) || bobblesFmt (x.slotsOf k)

/-- What a sum task adds to the Skein of column `col` at the issue of an entry of reference 0 (R78): the elements of both inputs
at the corresponding positions of their windows (log 33). -/
def IssueCtx.sumVals (c : IssueCtx) (x : Ent) (col : Nat) : List Val :=
  match x.lab with
  | 0 :: _ => (match (nth ({} : RefW) c.g.refs 0).inWin (labIx x.lab col) with
    | some o => ((List.range 2).filterMap fun k => let r := nth ({} : RefW) c.g.refs k; if r.live then some (c.winVal r o) else none)
    | none => [])
  | _ => []

/-- Does a sum read a reserved code of its second input at column `col` (R49)? -/
def IssueCtx.sumFmt (c : IssueCtx) (x : Ent) (col : Nat) : Bool :=
  let r := nth ({} : RefW) c.g.refs 1
  match x.lab with
  | 0 :: _ => (match (nth ({} : RefW) c.g.refs 0).inWin (labIx x.lab col) with
    | some o => r.live && c.winFmt r o
    | none => false)
  | _ => false

/-- The array action: product, sum or compare issue (R78, R113 to R120). -/
def EngRes.array (r : EngRes) (c : IssueCtx) (e : Nat) : EngRes :=
  let iss := RW.iss c.w
  if iss = 0 then r else
  let row := (fld c.w 472 6 + c.ri) % 64
  let (r, x) := r.pop1 c e 0
  let a := c.g.arr
  let fA := (Fmt.ofCode (Arr.fmtA a)).getD .fp32
  let fB := (Fmt.ofCode (Arr.fmtB a)).getD .fp32
  let half := if r.n.active1 then r.n.half1 else r.n.half0
  let n := r.n.setElems row (c.g.issueElems x.lab fun col => (nth ({} : Ent) half.slices col).lab)
  let r := { r with n := n.setCnt row (n.cnt row + 1) }
  let live (col : Nat) : Bool := !c.g.masked (r.n.elem row col)
  let r := if c.g.cls = 3 ∧ iss = 1 then r else r.eccAnchors c e row
  let r := r.eccSkeins c e row fun _ => true
  let noAnchor : Option Nat := if c.g.cls = 3 then none else (List.range 4).find? fun k => !(r.n.anc row (k * 32)).valid
  let anchored (r : EngRes) : EngRes := match noAnchor with
    | some k => r.bad (c.ds e 6 row k)
    | none => r
  if iss ≠ 1 then
    let vs := (List.range (min 128 (if Arr.trA a then Arr.depth a else fA.perLine))).map fun k => x.val fA (Arr.trA a) k
    { r with flies := r.flies ++ [c.fly e 18 (.compare row (iss = 2) vs x.idx)] }
  else
    let d := Arr.depth a
    let av := (List.range d).map fun k => x.el fA (Arr.trA a) k
    let bv (col : Nat) : List SlEl := (List.range d).map fun k => (nth ({} : Ent) half.slices col).el fB (Arr.trB a) k
    if c.g.typ = 0 ∧ c.g.variant = 1 then
      let r := anchored r
      let res := (List.range 128).map fun col =>
        if live col then sliceSum (r.n.anc row col) ((c.sumVals x col).map Contrib.ofVal) else (Sk.zero, false)
      { r with flies := r.flies ++ [c.fly e 18 (.product row (res.map (·.1)) (res.map (·.2)))]
               fmts := if (List.range 128).any (fun col => live col && c.sumFmt x col) then r.fmts ++ [1] else r.fmts }
    else if Arr.order a then
      let r := r.eccHalf c e
      let g := ((shapeGroup (Arr.shape a)).map (·.1)).getD 4
      { r with flies := r.flies ++ [c.fly e 18 (.forerun row g ((List.range 128).map fun col => if live col then foreProds av (bv col) else []))] }
    else
      let r := (anchored r).eccHalf c e
      let blk := if fA.scaled ∧ fB.scaled ∧ !Arr.trA a ∧ !Arr.trB a then some (min (FW.block (c.g.fw 0)) (FW.block (c.g.fw 1))) else none
      let res := (List.range 128).map fun col =>
        if live col then sliceSum (r.n.anc row col) (sliceContribs blk av (bv col)) else (Sk.zero, false)
      { r with flies := r.flies ++ [c.fly e 18 (.product row (res.map (·.1)) (res.map (·.2)))] }

/-- Drain-cycle count of a row (R119, R153). -/
def drainCount (f : Fmt) (isIdx : Bool) : Nat :=
  if isIdx ∨ f = .selv then 8 else if f.width ≤ 8 then 1 else if f.width = 16 then 2 else 4

/-- The exact value a drain reads from one Skein (R95, R107, R195). -/
def drainEx (g : Seg) (dcmp : Nat) (n : Engine) (row col : Nat) : Ex :=
  let w := n.sk row col
  if dcmp = 1 then (Cmp.of w).drainVal
  else if dcmp = 2 then (Cmp.of w).drainIdx
  else if g.cls = 3 then ((ofF32 (w.toNat % 2 ^ 32)).scale g.ls).toEx
  else let a := n.anc row col; (Sk.of w).drain a.cls a.T g.ls

/-- The drain (R95 to R100, R119, R347). Into QE and QN an element of a climbing group or a masked row travels as +0 with its mark, and
what the element unit makes of it is not written (R99, R230, log 50). -/
def EngRes.drain (r : EngRes) (c : IssueCtx) (e : Nat) : EngRes :=
  let dst := RW.drn c.w
  if dst = 0 then r else
  let row := (fld c.w 450 6 + c.ri) % 64
  let r := if r.n.cnt row = 0 then r else r.bad (c.ds e 5 row)
  let dcmp := RW.dcmp c.w
  let f := (Fmt.ofCode (RW.dfmt c.w)).getD .fp32
  let cntc := drainCount f (dcmp = 2)
  let d := (fld c.w 447 3 + c.ci) % cntc
  let wd := 128 / cntc
  let cols := (List.range wd).map fun k => d * wd + k
  let both := f = .selv ∨ dcmp = 2
  let r := r.eccSkeins c e row fun col => if both then col / wd / 2 = d / 2 else cols.contains col
  let r := if dcmp = 0 ∧ c.g.cls ≠ 3 then r.eccAnchors c e row else r
  let em (l : List Nat) : List Emit := l.filterMap fun col =>
    if c.g.masked (r.n.elem row col) ∨ (r.n.anc row col).climb then none
    else some ({ e := e, row := row, col := col, w := r.n.sk row col, el := nth 0 (tget [] r.n.elems (row % 64)) col
                 anc := tget 0 r.n.anchors (row * 4 + col / 32), rnd := RW.drnd c.w, ovf := bitOf c.w 439, int := bitOf c.w 438 } : Emit)
  if dst = 1 ∧ (c.g.cls = 1 ∨ c.g.cls = 2) ∧ c.g.typ = 0 then { r with emits := r.emits ++ em cols }
  else
    let r := if dst = 1 ∧ c.g.comb then { r with emits := r.emits ++ em cols } else r
    let els := cols.map fun col => r.n.elem row col
    let kept (col : Nat) : Bool := (r.n.anc row col).climb || c.g.masked (r.n.elem row col)
    let keep := cols.map kept
    let half := d % 2
    let rcols := if both then (List.range wd).map fun k => (if half = 0 then d + 1 else d - 1) * wd + k else []
    let ex (toQ : Bool) (col : Nat) : Ex := if toQ && kept col then Ex.zero else drainEx c.g dcmp r.n row col
    let q := if dst = 1 then 3 else if dst = 2 then 4 else 6
    let p : Pend := { xs := cols.map (ex (q ≠ 3)), rest := rcols.map (ex (q ≠ 3)), half := half, fmt := f.code, rnd := RW.drnd c.w, ovf := bitOf c.w 439
                      int := bitOf c.w 438, els := els, keep := keep, restKeep := rcols.map kept, isDrain := true }
    let x : Ent := if q = 3 then { pend := some p } else
      { (packEnt f c.g.outRef.t.fmt { inf := p.ovf, wrap := p.int }
          (p.rnds c.g.outRef.t c.g.terms c.g.seed c.g.step 0) p.xs p.rest p.half).1 with keep := keep }
    { r with flies := r.flies ++ [c.fly e 4 (.drain q x)] }

/-- Does a column take its preload from the entry itself? -/
def IssueCtx.preOwn (_c : IssueCtx) (rf : RefW) (x : Ent) (col : Nat) : Bool :=
  x.lab.isEmpty || (decide (nth 0 x.lab 1 % rf.t.f.perLine + col < rf.t.f.perLine) && decide (col < x.cut))

/-- Does the preload of a column read a reserved code of the window beyond the entry (R49)? What the entry holds was noted as it was read. -/
def IssueCtx.preFmt (c : IssueCtx) (rf : RefW) (x : Ent) (col : Nat) : Bool :=
  let ax := if c.g.variant = 0 then TD.cBax c.g.desc else 0
  x.code.isNone && !(rf.t.ext ax = 1 && decide (1 < c.g.outRef.t.ext ax)) && !c.preOwn rf x col && (match rf.inWin (labIx x.lab col) with
    | some o => c.winFmt rf o
    | none => false)

/-- The value a preload gives the Skein of a column (R87): the entry's element at the column; for a preload of extent 1 along the axis
mapped to columns its one element, for every column; and for a column past the entry's elements the element of the preload's window that
lies so far after the entry's first. The spec says nowhere how one entry fills 128 columns, so that last reading is the model's, and
where the window has no such element the value is free (log 51). -/
def IssueCtx.preVal (c : IssueCtx) (rf : RefW) (x : Ent) (e row col : Nat) : Val :=
  let ax := if c.g.variant = 0 then TD.cBax c.g.desc else 0
  match x.code with
  | some k => (match Fmt.ofCode k with
    | some f => if col < f.perLine then x.val f false col else Fmt.decode .fp32 (Config.freeOf [87, c.g.seed, c.g.step, c.g.task, e, row, col] % 2 ^ 32)
    | none => .nan)
  | none =>
    let f := rf.t.f
    if rf.t.ext ax = 1 ∧ 1 < c.g.outRef.t.ext ax then x.val f false 0
    else if c.preOwn rf x col then x.val f false col
    else match rf.inWin (labIx x.lab col) with
      | some o => c.winVal rf o
      | none => if x.cut ≤ col then Val.zero else Fmt.decode .fp32 (Config.freeOf [87, c.g.seed, c.g.step, rf.t.tid, e, row, col] % 2 ^ 32)

/-- Partial send, clear, preload and neighbour add, in the order of R166; the in-flight tests use the counters before
the word's own issues. -/
def EngRes.skein (r : EngRes) (c : IssueCtx) (e : Nat) : EngRes :=
  let n0 := r.n
  let busy (row : Nat) : Bool := n0.cnt row ≠ 0
  let r :=
    if !bitOf c.w 430 then r else
    let row := (fld c.w 424 6 + c.ri) % 64
    let grp := (fld c.w 419 5 + c.ci) % 32
    let r := if busy row then r.bad (c.ds e 5 row) else r
    let r := r.eccSkeins c e row fun col => decide (col / 4 = grp)
    { r with flies := r.flies ++ [c.fly ((e + 1) % 16) 3 (.send { grp := grp, words := (List.range 4).map fun j => r.n.sk row (grp * 4 + j)
                                                                  els := (List.range 128).map fun col => if col / 4 = grp then nth 0 (tget [] r.n.elems row) col else 0 })] }
  let r :=
    if !bitOf c.w 437 then r else
    let row := (fld c.w 431 6 + c.ri) % 64
    let r := if busy row then r.bad (c.ds e 5 row) else r
    let n1 : Engine := { r.n with skeins := tkeep (fun k => k / 128 ≠ row) r.n.skeins, elems := tset [] r.n.elems row [] }
    { r with n := { n1 with badSk := n1.badSk.filter fun k => k / 128 ≠ row } }
  let r :=
    if !bitOf c.w 471 then r else
    let row := (fld c.w 465 6 + c.ri) % 64
    let r := if busy row then r.bad (c.ds e 5 row) else r
    let (r, x) := r.pop1 c e 2
    let rf := nth {} c.g.refs 3
    let n1 := { r.n with elems := tset [] r.n.elems row [], badSk := r.n.badSk.filter fun k => k / 128 ≠ row }
    let r := if c.g.cls = 3 then r else r.eccAnchors c e row
    let r := { r with n := n1.setElems row (let l := c.g.preElems x.lab; if l.isEmpty then tget [] (nth [] c.g.assoc e) row else l) }
    let res := (List.range 128).map fun col =>
      if c.g.masked (r.n.elem row col) then (Sk.zero.toW, false)
      else
        let v := c.preVal rf x e row col
        if c.g.cls = 3 then (BitVec.ofNat 196 (toF32 (f32 v.toEx)), false)
        else let (k, cl) := (Contrib.ofVal v).round (r.n.anc row col); (k.toW, cl)
    let odd := (List.range 128).any fun col => !c.g.masked (r.n.elem row col) && c.preFmt rf x col
    { r with fmts := if odd then r.fmts ++ [3] else r.fmts, n := r.n.setCnt row (r.n.cnt row + 1), flies := r.flies ++ [c.fly e 5 (.preload row (res.map (·.1)) (res.map (·.2)))] }
  if !bitOf c.w 464 then r else
  let row := (fld c.w 458 6 + c.ri) % 64
  match r.n.qx with
  | [] => r.bad (c.ds e 1 7)
  | x :: t =>
    let r := if x.ecc then r.bad (c.ds e 10 7 0 3) else r
    let r := r.eccSkeins c e row fun col => decide (col / 4 = x.grp % 32)
    { r with n := { ((r.n.setElems row x.els).setCnt row (r.n.cnt row + 1)) with qx := t }, flies := r.flies ++ [c.fly e 5 (.nadd row x c.g.cmp)] }

/-- The element unit (R154, R155, R167, R177 to R181). A group whose finish is in this very word is early too. -/
def EngRes.element (r : EngRes) (c : IssueCtx) (e : Nat) : EngRes :=
  if !RW.ev c.w then r else
  let fn := RW.efn c.w
  let g := fld c.w 391 4
  let finishing := RW.nv c.w && RW.nop c.w = 2 && fld c.w 280 4 = g
  let r := if c.cycle < r.n.elemFree ∨ ((fn = 6 ∨ fn = 7) ∧ (c.cycle < tget 0 r.n.normAt g ∨ finishing)) then r.bad (c.ds e 7 0) else r
  let ng := tget ({} : NormG) r.n.norm g
  let r := { r with n := { r.n with elemFree := c.cycle + (if isTrans fn then 4 else 1) } }
  if fn = 7 then
    let x : Ent := { data := BitVec.ofNat 1024 (ng.mu.toNat + ng.var.toNat * 2 ^ 32) }
    { r with flies := r.flies ++ [c.fly e 10 (.elem x)] }
  else
    let (r, x) := r.pop1 c e 4
    let fi := (Fmt.ofCode (RW.ein c.w)).getD .fp32
    let fo := (Fmt.ofCode (RW.eout c.w)).getD .fp32
    let cnt := min fi.perLine fo.perLine
    let xs := (List.range cnt).map fun k =>
      elemFn fn (x.read fi k) (fld c.w 352 32) (fld c.w 320 32) (ofF32 ng.mu.toNat) (ofF32 ng.rho.toNat)
    let p : Pend := { xs := xs, fmt := fo.code, rnd := fld c.w 397 2, ovf := bitOf c.w 396, int := bitOf c.w 395, keep := x.keep }
    { r with flies := r.flies ++ [c.fly e (if isTrans fn then 20 else 10) (.elem { pend := some p, poison := x.poison, lab := x.lab })] }

/-- The Norm lane (R156, R167, R196 to R200). -/
def EngRes.normLane (r : EngRes) (c : IssueCtx) (e : Nat) : EngRes :=
  if !RW.nv c.w then r else
  let g := fld c.w 280 4
  let r := if c.cycle < r.n.normFree then r.bad (c.ds e 7 1) else r
  let r := { r with n := { r.n with normFree := c.cycle + 4 } }
  let ng := tget ({} : NormG) r.n.norm g
  match RW.nop c.w with
  | 0 =>
    let (r, x) := r.pop1 c e 6
    let f := (Fmt.ofCode (fld c.w 275 5)).getD .fp32
    let ng := (List.range f.perLine).foldl (fun ng k => ng.acc1 (x.read f k)) ng
    { r with n := { r.n with norm := tset {} r.n.norm g ng } }
  | 1 => { r with n := { r.n with norm := tset {} r.n.norm g {} }, cancels := r.cancels ++ [g] }
  | _ =>
    let d := ng.finish (fld c.w 259 16)
    { r with n := { r.n with normAt := tset 0 r.n.normAt g (c.cycle + 12) }
             flies := r.flies ++ [c.fly e 12 (.normDone g d.mu d.var d.rho)] }

/-- The random word of element k of an entry that goes from QF to QP under stochastic rounding: no tensor element names it (R63), so
the value is free, and as R5 asks a function of the seed, the step and the element it was made from (log 52). -/
def IssueCtx.qpWord (c : IssueCtx) (x : Ent) (e k : Nat) : Nat :=
  (match x.lab with
  | ref :: _ => let t := (nth ({} : RefW) c.g.refs ref).t; Config.freeOf [63, c.g.seed, c.g.step, t.tid, t.elemNo (labIx x.lab k)]
  | [] => Config.freeOf [63, c.g.seed, c.g.step, c.g.task, c.g.sigma, e, c.cycle, k]) % 2 ^ 32

/-- The pops of QD and QF, towards write slots or QP (R148, R157). An entry that goes from QF to QP is there in the same cycle (log 53), in
the format `EOUT` (R169); a block-scaled one takes reference 3's block size and scale mode (log 52). -/
def EngRes.outPops (r : EngRes) (c : IssueCtx) (e : Nat) : EngRes :=
  let one (r : EngRes) (q : Nat) : EngRes :=
    if RW.pop c.w q = 0 then r else
    let (r, x) := r.pop1 c e q
    let d := RW.pdst c.w q
    if d < 4 then { r with writes := r.writes ++ [(d, x)] }
    else if q = 5 ∧ d = 4 ∧ RW.push c.w 2 = 1 ∧ RW.psrc c.w 2 = 3 then
      let y := match x.pend with
        | some p =>
          let f := (Fmt.ofCode p.fmt).getD .fp32
          let rn := (List.range p.xs.length).map fun k => if p.rnd = 1 then Rnd.stoch (c.qpWord x e k) else Rnd.rne
          { (packEnt f (c.g.fw 3) { inf := p.ovf, wrap := p.int } rn p.xs [] 0).1 with poison := x.poison, code := some f.code }
        | none => { x with code := some 0 }
      { r with n := r.n.push 2 y, arr := r.arr ++ [{ cycle := c.cycle, e := e, q := 2, pc := c.pc, tag := RW.tag c.w }] }
    else r
  one (one r 3) 5

/-- One engine's cycle (R165, R166). -/
def Engine.issue (n : Engine) (c : IssueCtx) (e : Nat) : EngRes :=
  let r : EngRes := { n := n }
  let r := r.swap c e
  let r := (List.range (RW.pop c.w 1)).foldl (fun r _ => r.fill1 c e) r
  let r := r.outPops c e
  let r := r.drain c e
  let r := r.skein c e
  let r := r.array c e
  let r := r.element c e
  let r := r.normLane c e
  [0, 1, 2, 4, 6].foldl (fun r q => r.pushes c e q) r

/-! ### The panel's cycle -/

/-- Bank of a logical line (R125). -/
def bankOf (ln : Nat) : Nat := ln / 512 % 64

/-- Reads that ask a sub-bank for more than two distinct lines (R127): bank, sub-bank, lowest engine. -/
def portFaults (reads : List (Nat × Option Nat × Nat)) : List (Nat × Nat × Nat) :=
  let banks := (reads.map fun x => bankOf x.1).foldl sins []
  banks.flatMap fun b =>
    let rs := reads.filter fun x => bankOf x.1 = b
    (List.range 16).filterMap fun s =>
      let hit := rs.filter fun x => match x.2.1 with
        | none => true
        | some w => (w + x.1 % 512) % 16 = s
      if 2 < ((hit.map (·.1)).foldl sins []).length then some (b, s, (hit.map (·.2.2)).foldl min 15) else none

/-- One write-port slot's line write (R157, R161, R174, R178). Answers the panel, and faults. -/
def Panel.writeSlot (p : Panel) (c : IssueCtx) (e k : Nat) (x : Ent) : Panel × List DS × Option Nat × Bool :=
  let ag := RW.wag c.w k
  let g := c.g
  match nth [] c.issued ag with
  | [] => (p, [c.ds e 8 ag], none, false)
  | ix :: _ =>
    match c.addr e ag ix with
    | none => (p, [c.ds e 8 ag], none, false)
    | some a =>
      let r := c.ref ag
      let ri := AGC.tref (nth 0 g.ags ag)
      let ln := a / 128
      if !r.holds ln false then (p, [], none, true) else
      let ph := g.phys ln
      let old := tget ({} : Line) p.sram ph
      let (row, j) := (r.ofLine (ln - r.place * 512)).getD (0, 0)
      let wbe := RW.wbe c.w k
      let lw : LineW := match x.pend with
        | none => { ln := lineBytes old x wbe }
        | some pd => pd.write g r (r.trow row) (r.pcol j) old (tget {} p.sram (Nat.xor ph 1)) wbe (j % 2 = 1)
      if lw.bad then (p, [c.ds e 8 ag], none, false) else
      let (lo, nb) := wbeBytes wbe
      let whole := wbe = 0 && (match x.pend with
        | some pd => decide (pd.xs.length * ((Fmt.ofCode pd.fmt).getD .fp32).width = 1024)
        | none => true)
      let ln' := { lw.ln with poison := if whole then x.poison else old.poison, ecc := BitVec.ofNat 16 (setFld lw.ln.ecc.toNat (lo / 8) (nb / 8) 0) }
      let s := tset {} p.sram ph ln'
      let s := match lw.other with
        | some o => tset {} s (Nat.xor ph 1) { o with ecc := 0 }
        | none => s
      let wr := if lw.other.isSome then sins (sins p.written ph) (Nat.xor ph 1) else sins p.written ph
      let fl := Nat.lor (nth 0 p.flags ri) (if lw.out.sat then 4 else 0)
      ({ p with sram := s, written := wr, flags := p.flags.set ri fl
                qS := p.qS.set ri (nth 0 p.qS ri + lw.out.qS), qE := p.qE.set ri (nth 0 p.qE ri + lw.out.qE)
                gradOvf := p.gradOvf || (r.t.grad && (lw.out.sat || lw.out.special))
                wtags := (p.wtags.filter fun t => c.cycle < t.2 + 4) ++ [(ph, c.cycle)] }, [], some (bankOf ln), false)

/-- All writes of a cycle, in slot order and then ascending engine (R303). -/
def Panel.writeAll (p : Panel) (c : IssueCtx) (ws : List (Nat × Nat × Ent)) : Panel × List DS × Option PStop :=
  let res := ws.foldl (fun (q : Panel × List DS × List Nat × Option PStop) (e, k, x) =>
    if !RW.wen c.w k then q else
    let (p', d, b, u) := q.1.writeSlot c e k x
    let stop := if u then some PStop.extentLeft else match b with
      | some b => if q.2.2.1.contains b then some PStop.portClash else q.2.2.2
      | none => q.2.2.2
    (p', q.2.1 ++ d, q.2.2.1 ++ b.toList, stop)) (p, [], [], none)
  (res.1, res.2.1, res.2.2.2)

/-- The iteration index of a loop level (R164): 0 outside an active loop. -/
def Panel.iter (p : Panel) (l : Nat) : Nat := if nth 0 p.live l = 0 then 0 else (nth 0 p.lat l).toNat - (nth 0 p.live l).toNat

/-- What an entry leaving an engine carries to a place where the spare compares it: QD, QE, QN or the neighbour's QX (R136). -/
def Fly.outward (f : Fly) : Bool :=
  match f.op with
  | .drain _ _ | .send _ => true
  | .read q _ => q = 4 || q = 6
  | _ => false

/-- The spare's part of a cycle (R136, R175): it runs the word as the engine it shadows, keeps what it does to itself, compares the entries it
pushes and its detectors' outcomes with that engine's, and takes that engine's QF and inbound QX entries. -/
def Panel.shadowed (p : Panel) (s r : EngRes) (flies : List Fly) : Panel :=
  let own := (s.flies.filter fun f => match f.op with
    | .send _ | .elem _ => false
    | _ => true).map fun f => { f with e := 16 }
  let copied := (flies.filter fun f => f.e = p.shadow && (match f.op with
    | .send _ | .elem _ => true
    | _ => false)).map fun f => { f with e := 16 }
  let same := decide ((s.flies.filter Fly.outward).map (·.op) = (r.flies.filter Fly.outward).map (·.op) ∧ s.faults = r.faults)
  { p with spare := s.n, fly := p.fly ++ own ++ copied, differ := p.differ || !same }

/-- Every issue of one word in its first cycle: everything but the sequencer's own step (R140, R146). -/
def Panel.cycleIssue (p : Panel) (g : Seg) (w fresh : Nat) : PRes :=
  let p := p.landTo p.cycle
  if p.fault.isSome then { p := p } else
  let ri := if RW.ridxEn w then p.iter (RW.ridxLvl w) >>> RW.ridxSh w else 0
  let ci := if RW.cidxEn w then p.iter (RW.cidxLvl w) else 0
  let ag := (List.range 8).map fun n =>
    agCycle (nth 0 g.ags n) w n (RW.push w 1 = 2 && RW.qag w 1 = n && RW.psrc w 1 < 2) (nth {} p.ag n)
  let c : IssueCtx := { g := g, w := w, cycle := p.cycle, pc := p.pc, ri := ri, ci := ci, issued := ag.map (·.1), sram := p.sram, fresh := fresh }
  let rs : List (Nat × EngRes) := (List.range 16).map fun e => (e, Engine.issue (p.eng e) c e)
  let sp : Option EngRes := if p.shadow < 16 then some (Engine.issue p.spare c p.shadow) else none
  let engAt (e : Nat) : Engine := (rs.find? (fun (r : Nat × EngRes) => r.1 = e)).elim {} (fun r => r.2.n)
  let flies : List Fly := rs.flatMap (fun (r : Nat × EngRes) => r.2.flies)
  let taint : Bool := rs.any (fun (r : Nat × EngRes) => r.2.tainted)
  let fmts : List Nat := rs.flatMap (fun (r : Nat × EngRes) => r.2.fmts)
  let counts : PCnt := { p.counts with words := p.counts.words + 1, elu := p.counts.elu + (if RW.ev w then 16 else 0)
                                       nrm := p.counts.nrm + (if RW.nv w then 16 else 0) }
  let flags := fmts.foldl (fun l r => l.set r (Nat.lor (nth 0 l r) 2)) p.flags
  let gone (f : Fly) : Bool := match f.op with
    | .normDone g _ _ _ => if f.e = 16 then (sp.map (·.cancels.contains g)).getD false else rs.any fun (r : Nat × EngRes) => r.1 = f.e && r.2.cancels.contains g
    | _ => false
  let p : Panel := { p with engines := p.engines.mapIdx fun e _ => engAt e, ag := ag.map (fun a => a.2), fly := (p.fly.filter fun f => !gone f) ++ flies
                            tainted := p.tainted || taint, counts := counts, flags := flags, arr := p.arr ++ rs.flatMap fun (r : Nat × EngRes) => r.2.arr }
  let p := match sp with
    | none => p
    | some s => p.shadowed s ((rs.find? (fun (r : Nat × EngRes) => r.1 = p.shadow)).elim { n := {} } (·.2)) flies
  let ws : List (Nat × Nat × Ent) := (List.range 4).flatMap fun k => rs.flatMap fun (r : Nat × EngRes) => (r.2.writes.filter fun x => x.1 = k).map fun x => (r.1, k, x.2)
  let (p, wf, stop) := p.writeAll c ws
  let reads := rs.flatMap fun (r : Nat × EngRes) => r.2.reads
  let pf := (portFaults reads).map fun (b, s, e) => c.ds e 4 b s
  let hz := reads.filterMap fun (ln, wd, e) =>
    if p.wtags.any (fun t => t.1 = g.phys ln && c.cycle < t.2 + 4) then some (c.ds e 3 (bankOf ln) (wd.elim 0 fun w => (w + ln % 512) % 16)) else none
  let fs := (rs.flatMap fun (r : Nat × EngRes) => r.2.faults) ++ wf ++ pf ++ hz ++ p.overflows c.cycle
  let stop := if rs.any (fun (r : Nat × EngRes) => r.2.undef) then some PStop.extentLeft else stop
  let p := if RW.chraise w then { p with raises := p.raises ++ [RW.chflag w] } else p
  { p := p.raiseDS fs, emits := rs.flatMap (fun (r : Nat × EngRes) => r.2.emits), stop := stop }

/-- A count register written (R163). -/
def Panel.countWrite (p : Panel) (w : Nat) : Panel :=
  if RW.lpwEn w then { p with cnt := p.cnt.set (RW.lpwLvl w) (BitVec.ofNat 16 (RW.lpwVal w)) } else p

/-- The sequencer leaves a word (R162, R170): the next pc, or the end of the segment. -/
def Panel.leave (p : Panel) (w next : Nat) : Panel :=
  if RW.segend w then { p with ended := true, single := none } else { p with pc := next, single := none }

/-- A level's latched count and live counter set from its count register (R162). -/
def Panel.latch (p : Panel) (l : Nat) : Panel :=
  { p with lat := p.lat.set l (nth 0 p.cnt l), live := p.live.set l (nth 0 p.cnt l) }

/-- SINGLE words of latched count 0 take no cycle and issue nothing (R162): the sequencer passes over them. -/
def Panel.skip0 (p : Panel) (g : Seg) : Nat → Panel
  | 0 => p
  | f + 1 =>
    if p.ended then p else
    let w := (tget 0 p.store (g.prog + p.pc)).toNat
    if RW.lpOp w = 3 ∧ p.single.isNone ∧ nth 0 p.cnt (RW.lpLvl w) = 0 then
      ((p.latch (RW.lpLvl w)).leave w (p.pc + 1)).skip0 g f
    else p

/-- ROW_WORD_ISSUE on a panel (R140, R146, R162): one issue of the word at the program counter, and the sequencer's
step to the next. A panel with no running segment, or whose segment has ended or faulted, issues nothing. -/
def Panel.issue (p : Panel) (fresh : Nat) : PRes :=
  match p.seg with
  | none => { p := p }
  | some g =>
    if p.ended then { p := p } else
    let p := p.skip0 g 16384
    if p.ended then { p := p } else
    let w := (tget 0 p.store (g.prog + p.pc)).toNat
    let op := RW.lpOp w
    let l := RW.lpLvl w
    let p := if op = 1 then p.latch l else if op = 3 ∧ p.single.isNone then { p.latch l with single := some (nth 0 p.cnt l).toNat } else p
    let r := p.cycleIssue g w fresh
    let q := (r.p.countWrite w)
    let q := { q with cycle := q.cycle + 1 + RW.hold w }
    if q.fault.isSome then { r with p := q } else
    let lv := (nth 0 q.live l).toNat
    let dec (q : Panel) : Panel := { q with live := q.live.set l (BitVec.ofNat 16 (lv - 1)) }
    let q := match op with
      | 1 => q.leave w (if lv = 0 then RW.lpAddr w else q.pc + 1)
      | 2 => if 1 < lv then (dec q).leave w (RW.lpAddr w) else ({ q with live := q.live.set l 0 }).leave w (q.pc + 1)
      | 3 =>
        (match q.single with
         | some (n + 2) => { dec q with single := some (n + 1) }
         | _ => (dec q).leave w (q.pc + 1))
      | _ => q.leave w (q.pc + 1)
    { r with p := q }

/-- RESIDUE_CHECK (R171): at cycle 31 of the boundary window everything in flight has completed, and QA, QP, QD, QE, QF,
QN, QX and QB must be empty. A residue is a fault of kind 0x9, charged to the segment that ended unless that faulted before, and
the queues empty. -/
def Panel.residue (p : Panel) : Panel :=
  match p.prev with
  | none => p
  | some _ =>
    let f0 := p.fault
    let r0 := p.raises
    let e0 := p.ended
    let q := ({ p with fault := none }).landTo 31
    let l := ((List.range 16).flatMap fun e => (List.range 8).map fun k => (e, k)).filter fun (e, k) => (q.eng e).occ k ≠ 0
    let late : Option (BitVec 64) := if p.ranFault then none else match q.fault with
      | some x => some x
      | none => match l with
        | [] => none
        | (e, k) :: _ => some ({ kind := 9, e := e, cycle := 31, pc := 0, tag := 0, wher := k } : DS).word
    let q := { q with prev := none, lateFault := late, fault := f0, raises := r0, ended := e0, ranFault := q.ranFault || late.isSome
                      counts := q.counts.fault (if p.ranFault then [] else (l.map (·.1)).foldl sins []) }
    if l.isEmpty then q else
    q.mapEng fun _ n => { n with qa := [], qb := [], qp := [], qd := [], qe := [], qf := [], qn := [], qx := [] }

/-- What a panel clears before the first segment of another context (R143). -/
def Engine.clearCtx (n : Engine) : Engine := { ({} : Engine) with digest := n.digest }

/-- The walk of R170: the exact length of a segment, none on a frame overrun. Fuel bounds the visited words: of 3,968 cycles none lies
between two words of a run of at most 16,384 words that take no cycle. -/
def segLenGo (word : Nat → Nat) : Nat → Nat → Nat → List Nat → List Nat → Option Nat
  | 0, _, _, _, _ => none
  | f + 1, pc, len, cnt, live =>
    let w := word pc
    let l := RW.lpLvl w
    let op := RW.lpOp w
    let live := if op = 1 ∨ op = 3 then live.set l (nth 0 cnt l) else live
    let issues := if op = 3 then nth 0 cnt l else 1
    let lv := nth 0 live l
    let (next, live) :=
      if op = 1 ∧ lv = 0 then (RW.lpAddr w, live)
      else if op = 2 then (if 1 < lv then (RW.lpAddr w, live.set l (lv - 1)) else (pc + 1, live.set l 0))
      else if op = 3 then (pc + 1, live.set l 0) else (pc + 1, live)
    let len := len + issues * (1 + RW.hold w)
    let cnt := if RW.lpwEn w ∧ 0 < issues then cnt.set (RW.lpwLvl w) (RW.lpwVal w) else cnt
    if 3968 < len then none else if RW.segend w then some len else segLenGo word f next len cnt live

/-- The length of a segment from its words and initial loop counts (R170). -/
def segLen (word : Nat → Nat) (lc : List Nat) : Option Nat := segLenGo word 65100000 0 0 lc [0, 0, 0, 0]

end Sys2Proof.Machine
end

