-- ==== Sys2Proof/Machine/Graph.lean ====
section
/-! DEFINITION. Graph images, task descriptors and every admission check (spec/10 R266 to R278, spec/05 R168 to R170,
spec/03 R69 to R102, spec/07 R203, spec/08 R229, spec/09 R241 to R256). -/
namespace Sys2Proof.Machine

/-! ### Fields of the image header (R266) -/

/-- Field of a header. -/
def GH.uprogOfs (h : Nat) : Nat := fld h 416 32
/-- `PROG_OFS`. -/
def GH.progOfs (h : Nat) : Nat := fld h 384 32
/-- `WIN_OFS`. -/
def GH.winOfs (h : Nat) : Nat := fld h 352 32
/-- `EDGE_OFS`. -/
def GH.edgeOfs (h : Nat) : Nat := fld h 320 32
/-- `TASK_OFS`. -/
def GH.taskOfs (h : Nat) : Nat := fld h 288 32
/-- `SPILL_PAGES`. -/
def GH.spillPages (h : Nat) : Nat := fld h 256 32
/-- `PEAK_PAGES`. -/
def GH.peakPages (h : Nat) : Nat := fld h 224 32
/-- `NUPROG`. -/
def GH.nuprog (h : Nat) : Nat := fld h 216 8
/-- `NPROG`. -/
def GH.nprog (h : Nat) : Nat := fld h 200 16
/-- `NWIN`. -/
def GH.nwin (h : Nat) : Nat := fld h 184 16
/-- `NEDGE`. -/
def GH.nedge (h : Nat) : Nat := fld h 159 25
/-- `NTASK`. -/
def GH.ntask (h : Nat) : Nat := fld h 138 21
/-- `FLAG_COUNT`. -/
def GH.flagCount (h : Nat) : Nat := fld h 117 21
/-- `FLAG_BASE`. -/
def GH.flagBase (h : Nat) : Nat := fld h 97 20
/-- Reserved header bits are 0. -/
def GH.resv0 (h : Nat) : Bool := fld h 448 64 = 0 ∧ fld h 64 33 = 0 ∧ fld h 0 48 = 0

/-! ### The decoded graph -/

/-- An edge record (R268). -/
structure Edge where
  kind : Nat
  src : Nat
  dst : Nat
  /-- The reserved bits [21:0] are 0. -/
  resv0 : Bool := true
  deriving DecidableEq, Repr

/-- An admitted graph image as the module read it (R266 to R270). -/
structure Graph where
  addr : Nat := 0
  hdr : Nat := 0
  tasks : List Nat := []
  edges : List Edge := []
  wins : List Nat := []
  progs : List Nat := []
  uprogs : List Nat := []
  deriving DecidableEq, Repr

/-- Bytes of a context's memory as a number. -/
def rdN (m : Tbl Byte) (ctx a n : Nat) : Nat := ofLE (rdBs m (memKey ctx a) n)

/-- Bytes an image with a header spans: the end of its last table. -/
def GH.span (h : Nat) : Nat :=
  let e (n ofs sz : Nat) : Nat := if n = 0 then 64 else ofs * 64 + n * sz
  max (e (GH.ntask h) (GH.taskOfs h) 128) (max (e (GH.nedge h) (GH.edgeOfs h) 8)
    (max (e (GH.nwin h) (GH.winOfs h) 64) (max (e (GH.nprog h) (GH.progOfs h) 16) (e (GH.nuprog h) (GH.uprogOfs h) 256))))

/-- The limits of the header (R277, code 0x03). -/
def GH.limits (h : Nat) : Bool :=
  decide (GH.ntask h ≤ 2 ^ 20 ∧ GH.nedge h ≤ 2 ^ 24 ∧ GH.flagBase h + GH.flagCount h ≤ 2 ^ 20)

/-- The graph image read from the context's HBM; an image that breaks the limits, or whose tables reach past the `room` bytes
of its object, has no table read. -/
def Graph.read (m : Tbl Byte) (ctx a room : Nat) : Graph :=
  let h := rdN m ctx a 64
  if !(GH.limits h && decide (GH.span h ≤ room)) then { addr := a, hdr := h } else
  let tab (ofs n sz : Nat) : List Nat := (List.range n).map fun i => rdN m ctx (a + ofs * 64 + i * sz) sz
  { addr := a, hdr := h
    tasks := tab (GH.taskOfs h) (GH.ntask h) 128
    edges := (tab (GH.edgeOfs h) (GH.nedge h) 8).map fun e => { kind := fld e 62 2, src := fld e 42 20, dst := fld e 22 20, resv0 := fld e 0 22 = 0 }
    wins := tab (GH.winOfs h) (GH.nwin h) 64
    progs := tab (GH.progOfs h) (GH.nprog h) 16
    uprogs := tab (GH.uprogOfs h) (GH.nuprog h) 256 }

/-- Bytes the image spans. -/
def Graph.span (g : Graph) : Nat := GH.span g.hdr

/-- Does the graph contain an UPDATE task (R278)? -/
def Graph.training (g : Graph) : Bool := g.tasks.any fun d => TD.typ d = 6

/-! ### Windows (R269) -/

/-- The start of a window record along an axis. -/
def WR.start (w a : Nat) : Nat := fld w (32 * a) 32
/-- The count of a window record along an axis. -/
def WR.count (w a : Nat) : Nat := fld w (128 + 32 * a) 32

/-- The window of segment σ: starts and counts after the move and the clip. -/
def winSeg (t : TRec) (rec : Option Nat) (sg : Nat) : List Nat × List Nat :=
  match rec with
  | none => ([0, 0, 0, 0], [t.e0, t.e1, t.e2, t.e3])
  | some w =>
    let sdiv := fld w 288 32
    let u := if sdiv = 0 then sg else sg % sdiv
    let v := if sdiv = 0 then 0 else sg / sdiv
    let st := (List.range 4).map fun a =>
      WR.start w a + (if fld w 256 2 = a then u * fld w 320 32 else 0) + (if fld w 258 2 = a then v * fld w 352 32 else 0)
    (st, (List.range 4).map fun a => min (WR.count w a) (t.ext a - nth 0 st a))

/-- The window record of a reference: none for 0xFFFF. -/
def Graph.winRec (g : Graph) (d r : Nat) : Option Nat :=
  if TD.win d r = 0xFFFF then none else some (nth 0 g.wins (TD.win d r))

/-! ### Programs -/

/-- `IMAGE_TID` of a program-table entry (R267). -/
def PE.tid (p : Nat) : Nat := fld p 0 32
/-- `OFFSET`, in 64-byte units. -/
def PE.ofs (p : Nat) : Nat := fld p 32 32
/-- `WORDS`. -/
def PE.words (p : Nat) : Nat := fld p 81 15
/-- `GRANULES`. -/
def PE.granules (p : Nat) : Nat := fld p 96 9

/-- A program as it stands in memory: eight generator configurations and the row words. -/
structure Prog where
  ags : List (BitVec 256) := []
  words : List Nat := []
  deriving DecidableEq, Repr

/-- The program of an entry read from the context's memory (R267). -/
def Prog.read (m : Tbl Byte) (t : TRec) (p : Nat) : Prog :=
  let a := t.place + PE.ofs p * 64
  { ags := (List.range 8).map fun i => BitVec.ofNat 256 (rdN m t.ctx (a + 32 * i) 32)
    words := (List.range (PE.words p)).map fun i => rdN m t.ctx (a + 256 + 128 * i) 128 }

/-- The reserved bits of one row word are 0 (R14, R144 to R158). -/
def RW.resvOk (w : Nat) : Bool :=
  let z (lo n : Nat) : Bool := fld w lo n = 0
  z 0 128 && z 1008 4 && z 928 19 && z 480 45 && z 416 1 && z 384 7 && z 288 32 && z 224 35 && z 128 10
  && (List.range 8).all (fun q => z (912 - 16 * q) 4)
  && (List.range 8).all (fun n => z (768 - 32 * n + 25) 2)
  && (List.range 4).all (fun k => z (208 - 16 * k) 10)

/-- No field of one row word holds a reserved code (R28, R147 to R157, R168, R196). -/
def RW.wordOk (w : Nat) : Bool :=
  (List.range 8).all (fun q => RW.push w q ≠ 3 && RW.pop w q ≠ 3 && (RW.psrc w q ≠ 1 || q < 2) && (RW.psrc w q ≠ 3 || q = 2)
      && (if q = 3 then RW.pdst w q < 4 else if q = 5 then RW.pdst w q < 5 else RW.pdst w q = 0))
  && (List.range 4).all (fun k => RW.wbe w k ≠ 3)
  && (RW.lpOp w = 1 || RW.lpOp w = 2 || RW.lpAddr w = 0)
  && fld (RW.arr w) 4 2 ≠ 3 && RW.dcmp w ≠ 3 && RW.drnd w ≠ 3 && fld w 397 2 < 2 && RW.nop w < 3
  && [Arr.fmtA (RW.arr w), Arr.fmtB (RW.arr w), RW.dfmt w, RW.ein w, RW.eout w].all (fun f => f ≤ 12)
  && [0, 1, 2, 12].contains (fld w 275 5)
  && (if Arr.order (RW.arr w) then Arr.shape (RW.arr w) < 6 else Arr.shape (RW.arr w) = 0)
  && elemCodeOk (RW.efn w)

/-- R168 and R169 on one word: pushes, pops, sources, generators, slots and consumers agree. -/
def RW.agree (w : Nat) : Bool :=
  let pops := (List.range 8).map fun q => RW.pop w q
  let pop (q : Nat) : Nat := nth 0 pops q
  let feeds : List Nat :=
    ((List.range 8).filter fun q => RW.push w q ≠ 0 && RW.psrc w q < 2).map (fun q => RW.qag w q)
      ++ ((List.range 4).filter fun k => RW.wen w k).map fun k => RW.wag w k
  let slotPops : List Nat := [3, 5].filterMap fun q => if pop q ≠ 0 ∧ RW.pdst w q < 4 then some (RW.pdst w q) else none
  (List.range 8).all (fun q =>
    (q = 1 || (RW.push w q < 2 && pop q < 2)) && ((q ≠ 3 && q ≠ 5 && q ≠ 7) || RW.push w q = 0))
  && (RW.push w 2 = 0 || RW.psrc w 2 ≠ 3 || (pop 5 = 1 && RW.pdst w 5 = 4))
  && (List.range 8).all (fun n =>
    let c := (feeds.filter (· = n)).length
    if RW.act w n = 1 ∨ RW.act w n = 2 then c = 1 else c = 0)
  && (List.range 4).all (fun k => if RW.wen w k then (slotPops.filter (· = k)).length = 1 else !slotPops.contains k)
  && decide (pop 0 = if RW.iss w ≠ 0 then 1 else 0) && decide (pop 2 = if bitOf w 471 then 1 else 0)
  && decide (pop 4 = if RW.ev w ∧ RW.efn w ≠ 7 then 1 else 0) && decide (pop 6 = if RW.nv w ∧ RW.nop w = 0 then 1 else 0)
  && decide (pop 7 = if bitOf w 464 then 1 else 0)
  && (pop 5 = 0 || RW.pdst w 5 ≠ 4 || (RW.push w 2 = 1 && RW.psrc w 2 = 3))

/-- Loop structure and segment end (R168). -/
def Prog.loopsOk (ws : List Nat) : Bool :=
  let step (s : Bool × List (Nat × Nat) × Bool × Nat) (w : Nat) : Bool × List (Nat × Nat) × Bool × Nat :=
    let (ok, st, ends, pc) := s
    let l := RW.lpLvl w
    let inBody := !st.isEmpty || RW.lpOp w = 1
    let ok := ok && !(RW.segend w && inBody)
    let ends := ends || (RW.segend w && !inBody)
    match RW.lpOp w with
    | 1 => (ok && !(st.any fun x => x.1 = l), (l, pc) :: st, ends, pc + 1)
    | 2 =>
      (match st with
       | (l', b) :: t => (ok && l = l' && RW.lpAddr w = b + 1 && RW.lpAddr (nth 0 ws b) = pc + 1, t, ends, pc + 1)
       | [] => (false, [], ends, pc + 1))
    | 3 => (ok && !(st.any fun x => x.1 = l), st, ends, pc + 1)
    | _ => (ok, st, ends, pc + 1)
  let (ok, st, ends, _) := ws.foldl step (true, [], false, 0)
  ok && st.isEmpty && ends

/-- R151 over a program: array-mode fields. -/
def Prog.arrayOk (ws : List Nat) : Bool :=
  let iw := ws.filter fun w => RW.iss w ≠ 0
  let cab (q : Nat) : Option Bool :=
    let ps := (ws.filter fun w => RW.push w q ≠ 0 && RW.psrc w q < 2).map fun w => RW.psrc w q
    if ps.isEmpty then none else some (ps.all (· = 1))
  let mixed (q : Nat) : Bool :=
    let ps := (ws.filter fun w => RW.push w q ≠ 0 && RW.psrc w q < 2).map fun w => RW.psrc w q
    ps.contains 0 && ps.contains 1
  ws.all (fun w => RW.iss w ≠ 0 || RW.arr w = 0)
  && (match iw with
      | [] => true
      | w :: t => t.all (fun v => RW.arr v = RW.arr w)
        && (cab 0 = none || cab 0 = some (Arr.trA (RW.arr w))) && (cab 1 = none || cab 1 = some (Arr.trB (RW.arr w))))
  && iw.all (fun w => RW.iss w = 1 || Arr.fmtA (RW.arr w) = Arr.fmtB (RW.arr w))
  && !mixed 0 && !mixed 1

/-- The reserved bits of a program record are 0 (R14, R144, R159). -/
def Prog.resvOk (p : Prog) : Bool := p.ags.all (fun c => BV.fld c 0 39 = 0) && p.words.all RW.resvOk

/-- The checks of R168 that need only the program. -/
def Prog.ok (p : Prog) : Bool :=
  p.words.all RW.wordOk && p.words.all RW.agree && Prog.loopsOk p.words && Prog.arrayOk p.words

/-- References whose stream feeds a cable read, and those a line read feeds (R301). -/
def Prog.cableRefs (p : Prog) : List Nat :=
  p.words.flatMap fun w => ([0, 1].filter fun q => RW.push w q ≠ 0 && RW.psrc w q = 1).map fun q => AGC.tref (nth 0 p.ags (RW.qag w q))
/-- References read by lines. -/
def Prog.lineRefs (p : Prog) : List Nat :=
  p.words.flatMap fun w => ((List.range 8).filter fun q => RW.push w q ≠ 0 && RW.psrc w q = 0).map fun q => AGC.tref (nth 0 p.ags (RW.qag w q))
/-- References written through write slots (R272). -/
def Prog.outRefs (p : Prog) : List Nat :=
  p.words.flatMap fun w => ((List.range 4).filter fun k => RW.wen w k).map fun k => AGC.tref (nth 0 p.ags (RW.wag w k))
/-- References whose generators are active (R160). -/
def Prog.activeRefs (p : Prog) : List Nat :=
  p.words.flatMap fun w => ((List.range 8).filter fun n => RW.act w n ≠ 0 || RW.rst w n).map fun n => AGC.tref (nth 0 p.ags n)
/-- The array mode of the program: that of its first issuing word. -/
def Prog.arr (p : Prog) : Nat := ((p.words.find? fun w => RW.iss w ≠ 0).map RW.arr).getD 0
/-- 2 for a program of compare max, 3 for compare min, 0 otherwise. -/
def Prog.cmp (p : Prog) : Nat := ((p.words.find? fun w => 2 ≤ RW.iss w).map RW.iss).getD 0

/-! ### Admission -/

/-- What admission reads besides the image: memory, the context's tensors and quotas, its other graphs, its groups. -/
structure AdmEnv where
  mem : Tbl Byte
  ctx : Nat
  tensors : List TRec
  /-- The context's rank (R338). -/
  rank : Nat
  hbmQuota : Nat
  spillCap : Nat
  sramMin : Nat
  ranges : List (Nat × Nat)
  lastSealed : Nat
  otherSteps : List Nat
  tdpQuota : Nat
  groupSizes : List Nat
  maxRankOk : List Bool
  deriving DecidableEq, Repr

/-- The tensor of an ID. -/
def AdmEnv.t (v : AdmEnv) (tid : Nat) : Option TRec := v.tensors.find? fun t => t.tid = tid

/-- A task with what its checks read: descriptor, tensors, program. -/
structure TaskEnv where
  d : Nat
  ts : List (Option TRec)
  prog : Prog := {}
  pe : Nat := 0
  /-- The update program of an UPDATE task. -/
  up : Nat := 0
  deriving DecidableEq, Repr

/-- Reference r of a task. -/
def TaskEnv.r (e : TaskEnv) (i : Nat) : Option TRec := nth none e.ts i
/-- The reference is null. -/
def TaskEnv.nul (e : TaskEnv) (i : Nat) : Bool := TD.tref e.d i = 0
/-- The format of a reference. -/
def TaskEnv.f (e : TaskEnv) (i : Nat) : Option Fmt := (e.r i).map (·.f)

/-- A task's checking view. -/
def AdmEnv.task (v : AdmEnv) (g : Graph) (d : Nat) : TaskEnv :=
  let pe := nth 0 g.progs (TD.prog d)
  let prog := if TD.onPanels d then (match v.t (PE.tid pe) with
    | some t => Prog.read v.mem t pe
    | none => {}) else {}
  { d := d, ts := (List.range 8).map fun i => v.t (TD.tref d i), prog := prog, pe := pe
    up := if TD.typ d = 6 then nth 0 g.uprogs (TD.prog d) else 0 }

/-- References a type and variant requires, and those it permits beside them (R201, R241, R272, R274, R339). -/
def TaskEnv.refSets (e : TaskEnv) : List Nat × List Nat :=
  match TD.typ e.d, TD.variant e.d with
  | 0, 0 => ([0, 1, 2], [3, 4])
  | 0, 1 => ([0, 2], [1, 3])
  | 0, 2 => ([0, 2], [5])
  | 1, 0 => ([0, 1, 2, 3], [4, 5])
  | 1, 1 => ([0, 1, 2, 3], [])
  | 1, 2 => ([0, 1, 2, 3, 4, 6, 7], [5])
  | 4, _ => if bitOf e.d 1021 then ([], [0, 1]) else ([0, 1], [])
  | 5, 0 => ([0], [1, 2, 3])
  | 5, 1 => ([0], [])
  | 5, 2 => ([0], [])
  | 5, _ => ([], [])
  | 6, _ => ([0, 1], [2, 3, 4, 5, 6, 7])
  | 7, _ => ([], [])
  | _, _ => ([], [0, 1, 2, 3, 4, 5, 6, 7])

/-- Targets an update program stores: 0 P, 1 m, 2 v. -/
def UP.targets (u : Nat) : List Nat :=
  ((List.range (fld u 50 6)).map fun i => fld u (1024 + 32 * i) 32).filterMap fun w => if fld w 27 5 = 14 then some (fld w 6 2) else none

/-- References a task writes (R201, R272, R274, R339): those its type names and, on panels, those its write slots are bound
to; of an UPDATE task, its targets. -/
def TaskEnv.writes (e : TaskEnv) : List Nat :=
  let l := match TD.typ e.d, TD.variant e.d with
    | 0, 2 => [2, 5]
    | 0, _ => [2]
    | 1, 0 => [3, 4]
    | 1, 1 => [3]
    | 1, _ => [6, 7]
    | 4, _ => [1]
    | 5, 0 => [0, 3]
    | 5, 1 => [0]
    | 5, 2 => if bitOf e.d 947 then [0] else []
    | 6, _ => (UP.targets e.up).map fun k => if k = 0 then 0 else k + 1
    | _, _ => []
  (l ++ e.prog.outRefs).eraseDups

/-- Is a task a contributor of the reduction `rid` (R273, R341)? -/
def contribOf (rid d : Nat) : Bool := rid ≠ 0 && TD.typ d ≤ 1 && TD.redid d = rid

/-- Is a task the REDUCE task of the reduction `rid`? -/
def reduceOf (rid d : Nat) : Bool := rid ≠ 0 && TD.typ d = 5 && TD.variant d = 0 && TD.redid d = rid

/-- Elements of K that one contribution of a task takes: the block of a product of two operands scaled along K (R71, R72), else one. -/
def contribBlock (e : TaskEnv) : Nat :=
  match e.r 0, e.r 1 with
  | some a, some b => if TD.typ e.d = 0 ∧ TD.variant e.d = 0 ∧ a.scaled ∧ b.scaled ∧ TD.aCax e.d = 0 ∧ TD.bCax e.d = 0 then min a.blk b.blk else 1
  | _, _ => 1

/-- Does a preload enter a task's reduction: of a contributor here, or of the home (R71, R88)? -/
def preloaded (g : Graph) (d : Nat) : Bool :=
  let rid := TD.redid d
  TD.pre d || (g.tasks.any fun x => contribOf rid x && TD.pre x)
    || (TD.premem d = 0xFFFFF && !(g.tasks.any fun x => contribOf rid x && TD.typ x = 1 && TD.variant x = 0)
      && g.tasks.any fun x => reduceOf rid x && TD.tref x 1 ≠ 0)

/-- The largest number of contributions to one output element (R71): `KSUM` elements in blocks of B, of which each of `members` × `NCTASK`
contributors may cut one short, and a preload (log 54). -/
def declaredN (g : Graph) (e : TaskEnv) (members : Nat) : Nat :=
  let d := e.d
  let b := contribBlock e
  let c := if TD.redid d = 0 then 1 else max 1 members * max 1 (TD.nctask d)
  (TD.ksum d + c * (b - 1)) / b + (if preloaded g d then 1 else 0)

/-- R71: the number of contributions is at most 2^G. A REDUCE task without a contributor here knows no block size: the largest, 128, is
taken (log 54). -/
def countGuard (g : Graph) (e : TaskEnv) (members : Nat) : Bool :=
  let d := e.d
  let fits (n : Nat) : Bool := decide (n ≤ 2 ^ (clsG (TD.cls d)).toNat)
  if TD.cls d = 3 then true
  else if (TD.typ d = 0 ∧ TD.variant d ≠ 2) ∨ (TD.typ d = 1 ∧ TD.redid d ≠ 0) then fits (declaredN g e members)
  else if TD.typ d = 5 ∧ TD.variant d = 0 ∧ !(g.tasks.any (contribOf (TD.redid d))) then fits (cdiv (TD.ksum d) 128 + (if preloaded g d then 1 else 0))
  else true

/-- R75 and R76 for a product. -/
def productMap (e : TaskEnv) : Bool :=
  let d := e.d
  match e.r 0, e.r 1, e.r 2 with
  | some a, some b, some c =>
    let ba := batchAxes (TD.aCax d) (TD.aFax d)
    let bb := batchAxes (TD.bCax d) (TD.bFax d)
    let bc := batchAxes (TD.cAax d) (TD.cBax d)
    TD.aCax d ≠ TD.aFax d && TD.bCax d ≠ TD.bFax d && TD.cAax d ≠ TD.cBax d
    && ((ba.zip (bb.zip bc)).all fun (x, y, z) => a.ext x = b.ext y && b.ext y = c.ext z)
    && (TD.aCax d = 0 || TD.aFax d = 0) && (TD.bCax d = 0 || TD.bFax d = 0) && (TD.cAax d = 0 || TD.cBax d = 0)
    && a.f ≠ .selv && b.f ≠ .selv
  | _, _, _ => true

/-- Does a window cover whole blocks of n elements along axis 0 (R47)? -/
def wholeBlocks (t : TRec) (w : List Nat × List Nat) (n : Nat) : Bool :=
  let s := nth 0 w.1 0
  let c := nth 0 w.2 0
  c = 0 || (s % n = 0 && ((s + c) % n = 0 || s + c = t.e0))

/-- Segments whose windows the checks walk: all of them, or one where every reference covers its whole tensor. -/
def segWalk (g : Graph) (d : Nat) : List Nat :=
  List.range (if (List.range 8).all fun r => TD.tref d r = 0 || (g.winRec d r).isNone then 1 else max 1 (TD.segments d))

/-- R47 over a reference's windows. -/
def writeWhole (g : Graph) (e : TaskEnv) (i : Nat) : Bool :=
  match e.r i with
  | none => true
  | some t =>
    let n := max (if t.scaled then t.blk else 1) (if t.bobs ≠ 0 then 32 else 1)
    n = 1 || (segWalk g e.d).all fun s => wholeBlocks t (winSeg t (g.winRec e.d i) s) n

/-- Cable-read operands R133 refuses. -/
def cableBad (t : TRec) : Bool :=
  t.f = .e2m3 || t.f = .e3m2 || t.bobs ≠ 0 || (t.f = .t2 && t.blk = 16) || (t.f = .b1 && t.blk < 64)

/-- Mask size (R229). -/
def maskOk (mode : Nat) (mask out : Option TRec) : Bool :=
  if mode = 0 then true else
  match mask, out with
  | some m, some o => mode < 3 && m.f = .b1 && decide ((if mode = 1 then o.rows else cdiv o.rows 32) ≤ m.elems)
  | _, _ => false

/-- Does a reference have the extents of a list, or is it null? -/
def TaskEnv.shape (e : TaskEnv) (i : Nat) (l : List Nat) : Bool :=
  match e.r i with
  | some t => (List.range 4).all fun a => t.ext a = nth 1 l a
  | none => true

/-- The ATTN checks of R203, with the shapes of R201 and R272. -/
def attnOk (e : TaskEnv) : Bool :=
  let b := TD.spec e.d
  let var := TD.variant e.d
  let sg := fld b 224 32
  let fp32 (i : Nat) : Bool := match e.f i with | some f => f = .fp32 | none => true
  (match Fmt.decode .fp32 sg with | .fin false m _ => m ≠ 0 | _ => false)
  && (var = 0 || !bitOf b 221)
  && (match e.r 0, e.r 1, e.r 2 with
  | some q, some k, some v =>
    if var = 1 then
      let dv := q.e0
      dv % 32 = 0 && 32 ≤ dv && dv ≤ 256 && e.shape 0 [dv, q.e1, q.e2] && e.shape 1 [dv, q.e1, q.e2]
      && e.shape 2 [q.e1, q.e2] && e.shape 3 [2, q.e1, q.e2] && fp32 2 && fp32 3
    else
      let dd := q.e0
      let dv := v.e0
      dd % 32 = 0 && 32 ≤ dd && dd ≤ 256 && dv % 32 = 0 && 32 ≤ dv && dv ≤ 256
      && q.e2 = k.e2 * 2 ^ fld b 215 3 && fld b 215 3 ≤ 4
      && e.shape 0 [dd, q.e1, q.e2] && e.shape 1 [dd, k.e1, k.e2] && e.shape 2 [dv, k.e1, k.e2]
      && (var ≠ 0 && var ≠ 2 || e.shape 5 [cdiv k.e1 32, cdiv q.e1 32]) && (fld b 222 2 ≠ 3 || !e.nul 5)
      && decide (fld b 190 25 + q.e1 ≤ 2 ^ 24 + 1) && decide (fld b 165 25 + k.e1 ≤ 2 ^ 24 + 1)
      && (fld b 222 2 ≠ 2 || fld b 140 25 ≠ 0)
      && (fld b 222 2 ≠ 3 || (match e.f 5 with | some f => f ≠ .selv | none => false))
      && FW.tags q.fmt && FW.tags k.fmt && FW.tags v.fmt
      && (let o := e.r (if var = 0 then 3 else 6)
          fld b 218 2 ≠ 3 && (match o with
            | some o => o.f ≠ .selv && !(fld b 218 2 = 1 && 16 ≤ o.f.width) && !(fld b 218 2 = 2 && o.f = .fp32)
            | none => false))
      && (if var = 0 then
            q.shEn && k.shEn && bitOf q.attn.toNat 30 && bitOf k.attn.toNat 30
            && e.shape 3 [dv, q.e1, q.e2] && fp32 4 && e.shape 4 [q.e1, q.e2] && (!bitOf b 221 || !e.nul 4)
          else
            e.shape 3 [2, q.e1, q.e2] && fp32 3 && e.shape 4 [dv, q.e1, q.e2] && e.shape 6 [k.e1, q.e1, q.e2]
            && e.shape 7 [dv, k.e1, k.e2])
  | _, _, _ => true)

/-- The rotary table of a written tensor (R218). -/
def rotOk (v : AdmEnv) (t : TRec) : Bool :=
  !t.rotEn ||
  match v.t (fld t.attn.toNat 32 32) with
  | none => false
  | some r =>
    r.f = .selv && r.elems * 2 = t.e0 && decide (fld t.attn.toNat 2 25 + t.ext (fld t.attn.toNat 27 2) ≤ 2 ^ 24 + 1)
    && decide (1 ≤ fld t.attn.toNat 27 2)
    && (List.range r.rows).all fun row => (List.range (cdiv r.e0 32)).all (fun b => selvE (r.header v.mem r.base row (b * 32)) = -64)
      && (List.range r.e0).all (fun j => decide (r.code v.mem r.base row j ≤ 2 ^ 63 - 3))

/-- The outputs of a compare over the input `a` reduced along `ax` have the input's extents with that axis of extent 1 (R195). -/
def cmpShape (a : TRec) (ax : Nat) (o : Option TRec) : Bool :=
  match o with
  | some o => (List.range 4).all fun k => o.ext k = if k = ax then 1 else a.ext k
  | none => true

/-- The references of segment σ as they are staged (R301): each starts at the first granule after the one before it. -/
def stageRefs (g : Graph) (e : TaskEnv) (outs : List Nat) (sg : Nat) : List RefW :=
  ((List.range 8).foldl (fun (p : List RefW × Nat) i =>
    match e.r i with
    | none => (p.1 ++ [{}], p.2)
    | some t =>
      let (st, ct) := winSeg t (g.winRec e.d i) sg
      let r : RefW := { live := true, out := outs.contains i, t := t, start := st, count := ct, place := p.2, spread := e.prog.cableRefs.contains i }
      (p.1 ++ [r], p.2 + r.granules)) ([], 0)).1

/-- Granules that the staged references of a segment take (R301). -/
def stageGranules (g : Graph) (e : TaskEnv) (sg : Nat) : Nat := sumN ((stageRefs g e [] sg).map (·.granules))

/-- Do two boxes of tensor indices meet? -/
def boxMeet (a b : List (Nat × Nat)) : Bool :=
  (List.range 4).all fun k => let (l1, h1) := nth (0, 0) a k; let (l2, h2) := nth (0, 0) b k; decide (l1 < h2 ∧ l2 < h1)

/-- The box of a window. -/
def winBox (w : List Nat × List Nat) : List (Nat × Nat) := (List.range 4).map fun a => (nth 0 w.1 a, nth 0 w.1 a + nth 0 w.2 a)

/-- Do two segments of a task share an element of its output? -/
def segsShareOut (g : Graph) (e : TaskEnv) : Bool :=
  match e.r 2 with
  | none => false
  | some t =>
    let bs := (segWalk g e.d).map fun sg => winBox (winSeg t (g.winRec e.d 2) sg)
    (decide (1 < TD.segments e.d) && bs.length = 1 && decide (0 < t.elems))
      || (List.range bs.length).any fun j => (bs.take j).any fun a => boxMeet a (nth [] bs j)

/-- R79 and R102 on every segment of a product or sum, as the walk by labels sees it (log 6): a Skein group holds elements of one
output tile, each at its place modulo 32; in forerunner order no element lies on two engines, nor on two panels: segments that share
one run on one panel at a time. -/
def skeinMapOk (g : Graph) (e : TaskEnv) : Bool :=
  let d := e.d
  TD.typ d ≠ 0 || TD.variant d = 2 || (TD.cls d = 3 && TD.panels d ≠ 1 && segsShareOut g e) = false && (segWalk g d).all fun sg =>
    let q : Seg := { typ := 0, variant := TD.variant d, desc := d, refs := stageRefs g e e.writes sg, granules := PE.granules e.pe
                     ags := e.prog.ags, cax := TD.aCax d, lc := (List.range 4).map fun l => TD.lc d l }
    let m := q.walk (fun k => nth 0 e.prog.words k) (List.replicate 16 {})
    if TD.cls d ≠ 3 then m.engs.all (·.ok) else
    let els (n : MapEng) : List Nat := ((n.first.flatMap (·.2)).filter (· ≠ 0)).foldl sins []
    (m.engs.foldl (fun (p : List Nat × Bool) n => let l := els n; (p.1 ++ l, p.2 && l.all fun x => !p.1.contains x)) ([], true)).2

/-- The mapping checks, code 0x0D. A Selvedge-64 preload counts as unscaled in forerunner order (R101, log 56). -/
def mapOk (v : AdmEnv) (g : Graph) (e : TaskEnv) : Bool :=
  let d := e.d
  let typ := TD.typ d
  let outs := e.writes
  outs.all (fun i => writeWhole g e i && (match e.r i with | some t => rotOk v t | none => true))
  && (!(typ ≤ 3) || (List.range 8).all (fun i => match e.r i with
      | some t => !((t.f = .e2m3 || t.f = .e3m2 || t.f = .t2) && t.blk = 16) && !(t.f = .b1 && t.blk < 64)
      | none => true))
  && (!(typ ≤ 1 || typ = 5 && TD.variant d = 0) || TD.cls d ≠ 0 || TD.redid d = 0 || nth 1 v.groupSizes (TD.group d) ≤ 1)
  && (!(typ = 0 && TD.variant d = 0) || productMap e)
  && (!(typ = 0 && TD.variant d = 1) || (match e.r 2 with
      | some o => [0, 1].all (fun i => match e.r i with
          | some t => (List.range 4).all (fun a => t.ext a = o.ext a)
            && (segWalk g d).all (fun s => (winSeg t (g.winRec d i) s).2 = (winSeg o (g.winRec d 2) s).2)
          | none => true)
      | none => true))
  && (!(typ = 0 && (TD.cls d = 3 || Arr.order e.prog.arr)) || (TD.cls d = 3 && Arr.order e.prog.arr && TD.variant d = 0
      && (TD.redid d = 0 || (TD.nctask d = 1 && nth 1 v.groupSizes (TD.group d) ≤ 1))
      && (match shapeGroup (Arr.shape e.prog.arr), e.f 0, e.f 1 with
          | some (_, fs), some a, some b => fs.contains a && fs.contains b
          | _, _, _ => false)
      && (match e.r 3 with | some p => !p.scaled || p.f = .e4m3 || p.f = .e5m2 | none => true)))
  && (!(typ = 0 && TD.variant d = 2) || (TD.aCax d ≠ 0 && (match e.r 0 with
      | some t => t.f ≠ .selv && decide (TD.idxBase d + t.ext (TD.aCax d) ≤ 2 ^ 62)
        && cmpShape t (TD.aCax d) (e.r 2) && cmpShape t (TD.aCax d) (e.r 5)
      | none => true)))
  && e.prog.cableRefs.all (fun i => match e.r i with | some t => !cableBad t | none => true)
  && e.prog.cableRefs.all (fun i => !e.prog.lineRefs.contains i)
  && (!(typ = 2) || outs.all (fun i => match e.r i with
      | some t => !t.scaled || e.prog.words.all (fun w => !RW.ev w || decide (t.blk ≤ ((Fmt.ofCode (RW.ein w)).getD .fp32).perLine))
      | none => true))
  && skeinMapOk g e
  && (typ ≠ 1 || attnOk e)
  && (typ ≠ 0 || maskOk (TD.maskMode d) (e.r 4) (e.r 2))
  && (typ ≠ 4 || bitOf d 1021 || (match e.r 0, e.r 1 with
      | some a, some b => (winSeg a (g.winRec d 0) 0).2 = (winSeg b (g.winRec d 1) 0).2
      | _, _ => true))
  && (!(typ = 5 && TD.variant d = 0) || (maskOk (fld d 939 2) (e.r 2) (e.r 0)
      && g.tasks.all (fun x => !(contribOf (TD.redid d) x && TD.typ x = 0 && TD.variant x = 2) || (match v.t (TD.tref x 0) with
          | some a => cmpShape a (TD.aCax x) (e.r 0) && cmpShape a (TD.aCax x) (e.r 3)
          | none => true))))

/-! ### Update programs (R248 to R256) -/

/-- Operation word n of an update program. -/
def UP.op (u n : Nat) : Nat := fld u (1024 + 32 * n) 32
/-- Constant n, an FP32 code. -/
def UP.const (u n : Nat) : Nat := fld u (512 + 32 * n) 32
/-- `UP_NOPS`. -/
def UP.nops (u : Nat) : Nat := fld u 50 6
/-- Operation code. -/
def UO.op (w : Nat) : Nat := fld w 27 5
/-- Destination lane. -/
def UO.d (w : Nat) : Nat := fld w 23 4
/-- Operand selectors. -/
def UO.a (w : Nat) : Nat := fld w 18 5
/-- Operand selector B. -/
def UO.b (w : Nat) : Nat := fld w 13 5
/-- Operand selector C. -/
def UO.c (w : Nat) : Nat := fld w 8 5
/-- Modifier. -/
def UO.m (w : Nat) : Nat := fld w 0 8

/-- Which fields an operation uses: lane D, A, B, C, MOD (R250). -/
def UO.uses (op : Nat) : Option (Bool × Bool × Bool × Bool × Bool) :=
  match op with
  | 1 => some (true, false, false, false, true)
  | 2 | 3 | 4 | 9 | 10 | 13 => some (true, true, true, false, false)
  | 5 | 11 => some (true, true, true, true, false)
  | 6 | 7 | 8 | 12 => some (true, true, false, false, false)
  | 14 => some (false, true, false, false, true)
  | _ => none

/-- The checks of R256 on an update program that need no task: counts, codes, unused fields, targets, rounding choices, CLIP (R256). -/
def upBase (g : Graph) (u : Nat) : Bool :=
  let n := UP.nops u
  let ops := (List.range (min n 32)).map fun i => UP.op u i
  let tgt (w : Nat) : Nat := fld w 6 2
  decide (n ≤ 32)
  && ops.all (fun w => match UO.uses (UO.op w) with
      | none => false
      | some (ud, ua, ub, uc, um) =>
        (ud || UO.d w = 0) && (ua || UO.a w = 0) && (ub || UO.b w = 0) && (uc || UO.c w = 0) && (um || UO.m w = 0)
        && (UO.op w ≠ 1 || fld w 0 6 = 0)
        && (UO.op w ≠ 14 || (tgt w < 3 && fld w 0 2 = 0 && fld w 4 2 < 3 && (fld w 3 1 = 0 || tgt w = 0)))
        && (UO.op w ≠ 13 || (16 ≤ UO.b w && (match Fmt.decode .fp32 (UP.const u (UO.b w - 16)) with
            | .fin false m _ => m ≠ 0
            | _ => false))))
  && ((List.range 3).all fun k => ((ops.filter fun w => UO.op w = 14).filter fun w => tgt w = k).length ≤ 1)
  && (!(ops.any fun w => UO.op w = 13) || g.tasks.any fun d => TD.typ d = 6 && bitOf d 989)

/-- The checks of R256 on an update program under a task. -/
def upOk (g : Graph) (e : TaskEnv) (u : Nat) : Bool :=
  let n := UP.nops u
  let ops := (List.range (min n 32)).map fun i => UP.op u i
  let tgt (w : Nat) : Nat := fld w 6 2
  let tref (k : Nat) : Option TRec := e.r (match k with | 0 => 0 | 1 => 2 | _ => 3)
  upBase g u
  && ops.all (fun w =>
        (UO.op w ≠ 1 || (match fld w 6 2 with | 1 => !e.nul 1 | 2 => !e.nul 2 | 3 => !e.nul 3 | _ => true))
        && (UO.op w ≠ 14 || (match tref (tgt w) with
                | some t => (t.f = .selv) = (fld w 4 2 = 2) && !(t.f = .fp32 && fld w 4 2 = 1)
                | none => false)))

/-- The references and parameters of an UPDATE task (R229, R241, R243). -/
def updRefsOk (v : AdmEnv) (g : Graph) (e : TaskEnv) (u : Nat) : Bool :=
  let isIn (i : Nat) (l : List Fmt) : Bool := match e.f i with | some f => l.contains f | none => true
  let fin (i : Nat) : Bool := match e.r i with | some t => t.finEn | none => true
  [5, 6, 7].all e.nul && isIn 0 [.fp32, .bf16, .fp16, .selv] && isIn 2 [.e4m3, .e5m2, .bf16] && isIn 3 [.e4m3, .e5m2, .bf16] && isIn 4 [.b1]
  && (match e.r 0 with
      | some p => [1, 2, 3].all fun i => match e.r i with
        | some t => (List.range 4).all fun a => t.ext a = p.ext a
        | none => true
      | none => true)
  && decide (fld e.d (768 + 224) 32 ≤ TD.step e.d)
  && maskOk (fld e.d (768 + 222) 2) (e.r 4) (e.r 0)
  && (!bitOf e.d (768 + 221) || ((match e.r 1 with | some t => FW.tags t.fmt | none => true)
      && decide (sumN (g.tasks.map fun x => if TD.typ x = 6 && bitOf x 989 then ((v.t (TD.tref x 1)).map TRec.elems).getD 0 else 0) ≤ 2 ^ 32)))
  && (UP.targets u).all (fun k => fin (match k with | 0 => 0 | 1 => 2 | _ => 3))

/-- The tensors an UPDATE task names (R244). -/
def updNames (d : Nat) : List Nat := ((List.range 5).map fun r => TD.tref d r).filter (· ≠ 0)

/-- The extent of every segment's window of a product along the contracted axis, summed (R273). -/
def kExtent (v : AdmEnv) (g : Graph) (d : Nat) : Nat :=
  if TD.typ d ≠ 0 ∨ TD.variant d ≠ 0 then 0 else
  match v.t (TD.tref d 0) with
  | none => 0
  | some a => match g.winRec d 0 with
    | none => TD.segments d * a.ext (TD.aCax d)
    | some w => sumN ((List.range (TD.segments d)).map fun s => nth 0 (winSeg a (some w) s).2 (TD.aCax d))

/-- The reduction rules of R88, R273 and R341 on one task; a rule about all contributors is charged to the last of them. A task of
`REDID` 0 is a reduction's only contributor, so its `NCTASK` is 1. The REDUCE task of an attention reduction names its LSE as reference
1 (R345), which is no preload. -/
def redOk (v : AdmEnv) (g : Graph) (i : Nat) (e : TaskEnv) : Bool :=
  let d := e.d
  let rid := TD.redid d
  if rid = 0 ∨ !(TD.typ d ≤ 1 ∨ (TD.typ d = 5 ∧ TD.variant d = 0)) then
    TD.typ d ≠ 0 || ((TD.cls d = 0 || TD.cls d = 3) && TD.nctask d = 1 && decide (kExtent v g d ≤ TD.ksum d)
      && (TD.variant d ≠ 1 || decide (([0, 1].filter fun r => TD.tref d r ≠ 0).length ≤ TD.ksum d)))
  else
  let mine := g.tasks.filter fun x => contribOf rid x || reduceOf rid x
  let cons := mine.filter (contribOf rid)
  let homes := mine.filter (reduceOf rid)
  let first := nth d mine 0
  let last := !((g.tasks.drop (i + 1)).any (contribOf rid)) && TD.typ d ≠ 5
  let inputs := sumN (cons.map fun x => if TD.typ x = 0 ∧ TD.variant x = 1 then ([0, 1].filter fun r => TD.tref x r ≠ 0).length else 0)
  TD.group d = TD.group first && TD.cls d = TD.cls first && TD.danchor d = TD.danchor first && TD.premem d = TD.premem first
  && TD.ksum d = TD.ksum first && TD.nctask d = TD.nctask first
  && homes.length ≤ 1 && (TD.cls d = 0 || TD.cls d = 3 || homes.length = 1)
  && (!cons.isEmpty || TD.nctask d = 0)
  && (TD.premem d = 0xFFFFF || cons.any (fun x => TD.typ x = 1 && TD.variant x = 0) || homes.all fun x => TD.tref x 1 = 0)
  && (!last || (cons.length = TD.nctask d && decide (sumN (cons.map (kExtent v g)) ≤ TD.ksum d) && decide (inputs ≤ TD.ksum d)
      && (cons.filter fun x => TD.pre x).length ≤ 1
      && cons.all (fun x => (TD.typ x = 1 && !TD.pre x) || (TD.typ x = 0 && (TD.variant x = 2 || (TD.pre x = (TD.tref x 3 ≠ 0)))))
      && (!(cons.any TD.pre) || TD.premem d = v.rank)))

/-- Structure of one descriptor: fields that must be 0, edges, references, windows, reductions (code 0x04). -/
def structOk (v : AdmEnv) (g : Graph) (i : Nat) (e : TaskEnv) : Bool :=
  let d := e.d
  let typ := TD.typ d
  let h := g.hdr
  let ins := g.edges.filter fun x => x.dst = i
  (if typ ≤ 3 then 1 ≤ TD.panels d && TD.panels d ≤ 32 else TD.panels d = 0 && TD.segments d = 0 && !TD.split d && fld d 64 64 = 0
      && (typ = 6 || TD.prog d = 0))
  && (typ = 0 || typ = 1 || typ = 5 && TD.variant d = 0 || fld d 640 128 = 0)
  && ins.all (fun x => if x.kind = 0 then x.src < i else GH.flagBase h ≤ x.src && x.src < GH.flagBase h + GH.flagCount h)
  && ins.eraseDups.length = ins.length
  && (ins.filter fun x => x.kind = 0).length = TD.deps d && (ins.filter fun x => x.kind = 1).length = TD.nwait d
  && (List.range 8).all (fun r => e.nul r || e.refSets.1.contains r || e.refSets.2.contains r)
  && (typ ≠ 4 || !bitOf d 1021 || (e.nul 0 != e.nul 1))
  && (List.range 8).all (fun r => match e.r r, g.winRec d r with
      | some t, some w => (List.range 4).all fun a => decide (WR.start w a + WR.count w a ≤ t.ext a)
      | _, _ => true)
  && redOk v g i e
  && (!(typ = 0 && TD.variant d ≠ 2) || TD.pre d || e.nul 3)

/-- Rules on the whole graph, charged to task 0: edges that name no task, training graphs (R278), every `FIN_EN` tensor
updated (R244), flag ranges (R284). -/
def graphOk (v : AdmEnv) (g : Graph) : Bool :=
  let h := g.hdr
  let seals := g.tasks.filter fun d => TD.typ d = 7
  let upds := g.tasks.filter fun d => TD.typ d = 6
  let pmv (d : Nat) : List Nat := ([0, 2, 3].map fun r => TD.tref d r).filter (· ≠ 0)
  g.edges.all (fun e => e.dst < GH.ntask h)
  && (if g.training then seals.length = 1 && (match g.tasks with
        | d :: t => t.all fun x => TD.step x = TD.step d
        | [] => true) else seals.isEmpty)
  && (!g.training || v.tensors.all (fun t => !t.finEn || upds.any fun d => (pmv d).contains t.tid))
  && v.ranges.all (fun r => GH.flagCount h = 0 || r.2 = 0 || GH.flagBase h + GH.flagCount h ≤ r.1 || r.1 + r.2 ≤ GH.flagBase h)

/-- R244 on one task: an UPDATE task names each tensor once and no tensor of an earlier UPDATE task; no other task has a
`FIN_EN` tensor as an output. -/
def finOk (g : Graph) (i : Nat) (e : TaskEnv) : Bool :=
  if TD.typ e.d = 6 then
    let l := updNames e.d
    l.eraseDups.length = l.length
    && (g.tasks.take i).all fun x => TD.typ x ≠ 6 || l.all fun t => !(updNames x).contains t
  else e.writes.all fun r => match e.r r with | some t => !t.finEn | none => true

/-- A queue of the timed walk of R169: entries with the cycle they reach the tail and the format they hold. -/
abbrev FmtQ := List (Nat × Nat)

/-- The entry a pop takes at a cycle, and the queue without it; none where it would underflow. -/
def fmtPop (q : FmtQ) (c : Nat) : Option (Nat × FmtQ) :=
  match (q.map (·.1)).min? with
  | none => none
  | some d => if c < d then none else (q.find? (·.1 = d)).map fun x => (x.2, q.erase x)

/-- The entry popped from queue q has a format; a pop that underflows is a fault at run time. -/
def fmtTake (st : List FmtQ × Bool) (q c : Nat) (want : Nat) : List FmtQ × Bool :=
  match fmtPop (nth [] st.1 q) c with
  | none => st
  | some (f, rest) => (st.1.set q rest, st.2 && f = want)

/-- One issue of a word at a cycle in the timed walk of R169: what is popped has the format its consumer names, or its slot's tensor has;
what is pushed arrives at its latency (R123). -/
def fmtIssue (fOf : Nat → Option Nat) (w c : Nat) (st : List FmtQ × Bool) : List FmtQ × Bool :=
  let put (st : List FmtQ × Bool) (q d f : Nat) : List FmtQ × Bool := (st.1.set q (nth [] st.1 q ++ [(d, f)]), st.2)
  let slot (st : List FmtQ × Bool) (q : Nat) : List FmtQ × Bool :=
    if RW.pop w q = 0 then st
    else if RW.pdst w q < 4 then (match fOf (RW.wag w (RW.pdst w q)) with | some f => fmtTake st q c f | none => st)
    else (match fmtPop (nth [] st.1 q) c with | some (_, rest) => (st.1.set q rest, st.2) | none => st)
  let st := if RW.pop w 4 ≠ 0 then fmtTake st 4 c (RW.ein w) else st
  let st := if RW.pop w 6 ≠ 0 then fmtTake st 6 c (fld w 275 5) else st
  let st := slot (slot st 3) 5
  let st := [4, 6].foldl (fun st q =>
    if RW.push w q ≠ 0 ∧ RW.psrc w q = 0 then (match fOf (RW.qag w q) with | some f => put st q (c + 6) f | none => st) else st) st
  let st := match RW.drn w with | 1 => put st 3 (c + 4) (RW.dfmt w) | 2 => put st 4 (c + 4) (RW.dfmt w) | 3 => put st 6 (c + 4) (RW.dfmt w) | _ => st
  if RW.ev w then put st 5 (c + (if isTrans (RW.efn w) then 20 else 10)) (RW.eout w) else st

/-- The timed walk of a segment's words (R162, R169): every pop meets the format its word names. -/
def fmtGo (fOf : Nat → Option Nat) (word : Nat → Nat) : Nat → Nat → Nat → List Nat → List Nat → List FmtQ × Bool → Bool
  | 0, _, _, _, _, st => st.2
  | n + 1, pc, c, cnt, live, st =>
    let w := word pc
    let l := RW.lpLvl w
    let op := RW.lpOp w
    let live := if op = 1 ∨ op = 3 then live.set l (nth 0 cnt l) else live
    let issues := if op = 3 then nth 0 cnt l else 1
    let lv := nth 0 live l
    let (next, live) :=
      if op = 1 ∧ lv = 0 then (RW.lpAddr w, live)
      else if op = 2 then (if 1 < lv then (RW.lpAddr w, live.set l (lv - 1)) else (pc + 1, live.set l 0))
      else if op = 3 then (pc + 1, live.set l 0) else (pc + 1, live)
    let st := (List.range (min issues 3969)).foldl (fun st i => fmtIssue fOf w (c + i * (1 + RW.hold w)) st) st
    let cnt := if RW.lpwEn w ∧ 0 < issues then cnt.set (RW.lpwLvl w) (RW.lpwVal w) else cnt
    let c := c + issues * (1 + RW.hold w)
    if 3968 < c ∨ RW.segend w ∨ !st.2 then st.2 else fmtGo fOf word n next c cnt live st

/-- Do two lists hold the same values, where neither is empty? -/
def sameSet (a b : List Nat) : Bool := a.isEmpty || b.isEmpty || (a.all b.contains && b.all a.contains)

/-- The formats a program's words name against the tensors they touch (R169): array modes against the tensors that feed QA and QB; the
formats that the words of one kind name against all that feed them, or that they feed; and word by word along the timed walk (log 31). -/
def fmtOk (e : TaskEnv) : Bool :=
  let ws := e.prog.words
  let typ := TD.typ e.d
  let fOf (ag : Nat) : Option Nat := (e.f (AGC.tref (nth 0 e.prog.ags ag))).map Fmt.code
  let feed (q : Nat) : List Nat := (ws.flatMap fun w => if RW.push w q ≠ 0 ∧ RW.psrc w q < 2 then (fOf (RW.qag w q)).toList else [])
  let drn (k : Nat) : List Nat := (ws.filter fun w => RW.drn w = k).map RW.dfmt
  let slotF (q : Nat) : List Nat := ws.flatMap fun w =>
    if RW.pop w q ≠ 0 ∧ RW.pdst w q < 4 then (fOf (RW.wag w (RW.pdst w q))).toList else []
  let evs := ws.filter fun w => RW.ev w
  let nvs := ws.filter fun w => RW.nv w && RW.nop w = 0
  let iss := ws.filter fun w => RW.iss w ≠ 0
  let fa := (e.f 0).map Fmt.code
  let fb := if TD.variant e.d = 2 then fa else if TD.variant e.d = 1 ∧ e.nul 1 then fa else (e.f 1).map Fmt.code
  (typ ≠ 0 || iss.all fun w => some (Arr.fmtA (RW.arr w)) = fa && some (Arr.fmtB (RW.arr w)) = fb)
  && iss.all (fun w => (feed 0).all (· = Arr.fmtA (RW.arr w)) && (RW.iss w ≠ 1 || (typ = 0 && TD.variant e.d = 1) || (feed 1).all (· = Arr.fmtB (RW.arr w))))
  && (!Prog.loopsOk ws || fmtGo fOf (fun k => if k < ws.length then nth 0 ws k else 2 ^ 159) 65100000 0 0 ((List.range 4).map fun l => TD.lc e.d l) [0, 0, 0, 0]
      (List.replicate 8 [], true))
  && sameSet ((evs.filter fun w => RW.efn w ≠ 7).map RW.ein) (feed 4 ++ drn 2)
  && sameSet (nvs.map fun w => fld w 275 5) (feed 6 ++ drn 3)
  && (sameSet (drn 1) (slotF 3) || typ = 0 && (TD.cls e.d = 1 || TD.cls e.d = 2))
  && sameSet (evs.map RW.eout) (slotF 5)
  && evs.all (fun w => fld w 397 2 ≠ 1 || 2 < RW.eout w)
  && ws.all (fun w => RW.drn w = 0 || (match RW.drnd w with
      | 0 => true | 1 => 2 < RW.dfmt w | 2 => RW.dfmt w ≠ 0 && RW.dfmt w ≠ 12 | _ => false))
  && ws.all (fun w => RW.drn w = 0 || RW.dcmp w ≠ 2 || RW.dfmt w = 12)
  && evs.all (fun w => RW.efn w ≠ 7 || RW.eout w = 0)

/-- Reserved fields and codes of a descriptor, of the windows and edges it uses and of its program (R14, R144, R248). -/
def resvOk (g : Graph) (i : Nat) (e : TaskEnv) : Bool :=
  let d := e.d
  let u := e.up
  fld d 128 16 = 0 && fld d 16 15 = 0 && fld d 640 7 = 0 && TD.typ d ≤ 7
  && (match TD.typ d with
      | 0 => TD.variant d < 3 && fld d 768 178 = 0 && TD.maskMode d ≠ 3
      | 1 => TD.variant d < 3 && fld d 768 140 = 0
      | 2 | 3 => TD.variant d = 0 && TD.spec d = 0
      | 4 => TD.variant d = 0 && fld d 768 184 = 0 && fld d 1016 3 = 0
      | 5 => fld d 768 171 = 0 && fld d 939 2 ≠ 3 && fld d 1010 2 ≠ 3
      | 6 => TD.variant d = 0 && fld d 768 220 = 0 && fld d 990 2 ≠ 3
      | _ => TD.variant d = 0 && fld d 768 254 = 0)
  && (List.range 8).all (fun r => TD.tref d r = 0 || (match g.winRec d r with
      | some w => fld w 384 128 = 0 && fld w 260 28 = 0
      | none => true))
  && g.edges.all (fun x => x.dst ≠ i || (x.resv0 && x.kind < 2))
  && (!TD.onPanels d || (fld e.pe 105 23 = 0 && fld e.pe 64 17 = 0 && e.prog.resvOk))
  && (TD.typ d ≠ 6 || (fld u 0 50 = 0 && fld u 64 448 = 0 && (List.range 32).all fun n => n < fld u 50 6 || fld u (1024 + 32 * n) 32 = 0))

/-- The records of an image that no task names: admission reads the whole image (R277), and charges what it finds in them to task 0;
a record that a task names is that task's, an edge its TO task's (log 104). -/
def Graph.loose (g : Graph) : Graph :=
  let rest (l : List Nat) (used : Nat → Nat → Bool) : List Nat :=
    ((List.range l.length).zip l).filterMap fun (k, x) => if g.tasks.any (used k) then none else some x
  { g with
    wins := rest g.wins fun k d => (List.range 8).any fun r => TD.tref d r ≠ 0 && TD.win d r = k
    edges := g.edges.filter fun x => g.tasks.length ≤ x.dst
    progs := rest g.progs fun k d => TD.onPanels d && TD.prog d = k
    uprogs := rest g.uprogs fun k d => TD.typ d = 6 && TD.prog d = k }

/-- Reserved fields and codes of the records of an image (R14, R144, R159, R248); asked of those no task names. -/
def graphResv (v : AdmEnv) (g : Graph) : Bool :=
  g.wins.all (fun w => fld w 384 128 = 0 && fld w 260 28 = 0)
  && g.edges.all (fun x => x.resv0 && x.kind < 2)
  && g.progs.all (fun p => fld p 105 23 = 0 && fld p 64 17 = 0 && (match v.t (PE.tid p) with
      | some t => decide (PE.ofs p * 64 + 256 + PE.words p * 128 ≤ t.endOfs) = false || (Prog.read v.mem t p).resvOk
      | none => true))
  && g.uprogs.all (fun u => fld u 0 50 = 0 && fld u 64 448 = 0 && (List.range 32).all fun n => n < fld u 50 6 || fld u (1024 + 32 * n) 32 = 0)

/-- Every program entry's image is a raw object of the context that holds its record, and its words keep R168; every update program
keeps R256 (code 0x0C); asked of the records that no task names. -/
def graphProgs (v : AdmEnv) (g : Graph) : Bool :=
  g.progs.all (fun p => (match v.t (PE.tid p) with
      | some t => t.raw && decide (PE.ofs p * 64 + 256 + PE.words p * 128 ≤ t.endOfs) && (Prog.read v.mem t p).ok
      | none => false) && PE.granules p ≤ 384 && 1 ≤ PE.words p && PE.words p ≤ 16384)
  && g.uprogs.all (upBase g)

/-- The named tensors fit their placements (R277, code 0x08). -/
def TRec.fits (t : TRec) : Bool := decide (t.place + t.allPages * 2 ^ 21 ≤ 2 ^ 40 ∧ (t.elems = 0 ∨ t.endOfs ≤ t.pages * 2 ^ 21))

/-- Padded element count of a tensor, in the numbering of R342. -/
def TRec.padded (t : TRec) : Nat := t.rows * alignUp t.e0 t.unit

/-- The COLL and REDUCE rules of R339 to R342 and R345 (code 0x04). -/
def collOk (g : Graph) (e : TaskEnv) : Bool :=
  let d := e.d
  let h := g.hdr
  let inRange (f n : Nat) : Bool := decide (GH.flagBase h ≤ f ∧ f + n ≤ GH.flagBase h + GH.flagCount h)
  let lg := fld d 1019 5
  let contrib := g.tasks.filter (contribOf (TD.redid d))
  let attn := contrib.find? fun x => TD.typ x = 1 && TD.variant x = 0
  match TD.typ d with
  | 0 => (TD.cls d ≠ 1 && TD.cls d ≠ 2) || TD.redid d ≠ 0
  | 1 => TD.redid d = 0 || (TD.variant d = 0 && TD.cls d = 1) || (TD.variant d = 2 && (TD.cls d = 1 || TD.cls d = 2))
  | 5 =>
    (match TD.variant d with
     | 0 => TD.redid d ≠ 0 && TD.deps d = 0 && TD.nwait d = 0 && ((fld d 939 2 ≠ 0) = !e.nul 2)
        && contrib.all (fun x => TD.typ x ≠ 0 || TD.maskMode x = fld d 939 2)
        && contrib.all (fun x => !(TD.typ x = 1 && TD.variant x = 2) || TD.tref d 0 = TD.tref x 7)
        && (match attn, e.r 0 with
            | _, none => true
            | some x, some t =>
              let b := TD.spec x
              let chunks := max 1 (cdiv (alignUp t.e1 32 * t.e2) (2 ^ lg))
              contrib.all (fun y => TD.typ y = 1 && TD.variant y = 0) && 5 ≤ lg && lg ≤ 20 && e.nul 2 && e.nul 3 && TD.tref d 0 = TD.tref x 3
              && TD.tref d 1 = (if bitOf b 221 then TD.tref x 4 else 0)
              && fld d 1010 2 = fld b 218 2 && bitOf d 1009 = bitOf b 220 && !bitOf d 1008 && !TD.pre d
              && inRange (fld d 988 20) chunks && chunks ≤ 2 ^ 20
            | none, some t =>
              let chunks := max 1 (cdiv t.padded (2 ^ lg))
              10 ≤ lg && lg ≤ 22 && inRange (fld d 988 20) chunks && chunks ≤ 2 ^ 20)
     | 1 => (match e.r 0 with
        | some t =>
          let chunks := max 1 (cdiv t.padded (2 ^ lg))
          10 ≤ lg && lg ≤ 22 && inRange (fld d 988 20) chunks && chunks ≤ 2 ^ 20
        | none => true)
     | _ => inRange (fld d 988 20) 1)
  | _ => true

/-! ### Ranges of references (R269, R303, R387) -/

/-- The box of tensor indices a reference of a task may touch, over all its segments: start and end along each axis. -/
def refBox (g : Graph) (d r : Nat) (t : TRec) : List (Nat × Nat) :=
  let sg := max 1 (TD.segments d)
  (List.range 4).map fun a =>
    match g.winRec d r with
    | none => (0, t.ext a)
    | some w =>
      let sdiv := fld w 288 32
      let u := if sdiv = 0 then sg - 1 else min (sg - 1) (sdiv - 1)
      let v := if sdiv = 0 then 0 else (sg - 1) / sdiv
      let mv := (if fld w 256 2 = a then u * fld w 320 32 else 0) + (if fld w 258 2 = a then v * fld w 352 32 else 0)
      (WR.start w a, min (t.ext a) (WR.start w a + WR.count w a + mv))

/-- The boxes of a reference's windows, one for each position (u, v) of its segments that holds an element; a write into a
Selvedge-64 tensor takes whole blocks where `blocks` says so (R303). -/
def refBoxes (g : Graph) (d r : Nat) (t : TRec) (blocks : Bool) : List (List (Nat × Nat)) :=
  let sg := max 1 (TD.segments d)
  let box (w : List Nat × List Nat) : List (Nat × Nat) := (List.range 4).map fun a =>
    let lo := nth 0 w.1 a
    let hi := lo + nth 0 w.2 a
    if a = 0 ∧ blocks ∧ t.selv then (lo / 32 * 32, alignUp hi 32) else (lo, hi)
  match g.winRec d r with
  | none => if (winSeg t none 0).2.contains 0 then [] else [box (winSeg t none 0)]
  | some w =>
    let sdiv := fld w 288 32
    let cap (ax step n : Nat) : Nat := if step = 0 then min n 1 else min n (cdiv (t.ext ax) step + 1)
    let nu := cap (fld w 256 2) (fld w 320 32) (if sdiv = 0 then sg else min sdiv sg)
    let nv := if sdiv = 0 then 1 else cap (fld w 258 2) (fld w 352 32) (cdiv sg sdiv)
    (((List.range nv).flatMap fun v => (List.range nu).filterMap fun u =>
      let s := v * sdiv + u
      let x := winSeg t (some w) s
      if s < sg ∧ !(x.2.contains 0) then some (box x) else none)).eraseDups

/-- What a box leaves outside another box, as disjoint boxes. -/
def boxSub (a b : List (Nat × Nat)) : List (List (Nat × Nat)) :=
  if !boxMeet a b then [a] else
  ((List.range 4).foldl (fun (p : List (List (Nat × Nat)) × List (Nat × Nat)) k =>
    let (lo, hi) := nth (0, 0) p.2 k
    let (bl, bh) := nth (0, 0) b k
    let below := if lo < bl then [p.2.set k (lo, bl)] else []
    let above := if bh < hi then [p.2.set k (bh, hi)] else []
    (p.1 ++ below ++ above, p.2.set k (max lo bl, min hi bh))) ([], a)).1

/-- The elements two boxes share. -/
def boxInter (a b : List (Nat × Nat)) : List (Nat × Nat) :=
  (List.range 4).map fun k => let (l1, h1) := nth (0, 0) a k; let (l2, h2) := nth (0, 0) b k; (max l1 l2, min h1 h2)

/-- Must task j wait for an earlier task i (R303)? -/
def mustWait (g : Graph) (ei ej : TaskEnv) : Bool :=
  let rid := TD.redid ei.d
  let one (d : Nat) : Bool := contribOf rid d || reduceOf rid d
  if one ei.d ∧ one ej.d then false else
  (List.range 8).any fun r => (List.range 8).any fun q =>
    let wi := ei.writes.contains r
    let wj := ej.writes.contains q
    (wi || wj) && TD.tref ei.d r ≠ 0 && TD.tref ei.d r = TD.tref ej.d q &&
    (match ei.r r with
     | some t => (refBoxes g ei.d r t (wi && wj)).any fun a => (refBoxes g ej.d q t (wi && wj)).any (boxMeet a)
     | none => false)

/-- The implicit orderings of a graph: (later, earlier) pairs (R303). -/
def implicitOrder (v : AdmEnv) (g : Graph) : List (Nat × Nat) :=
  let es := g.tasks.map (v.task g)
  (List.range es.length).flatMap fun j => (List.range j).filterMap fun i =>
    if mustWait g (nth { d := 0, ts := [] } es i) (nth { d := 0, ts := [] } es j) then some (j, i) else none

/-- A task that overwrites its graph's inputs (R387): it writes an element that an earlier task reads and that the writes of
earlier tasks, taken together, do not cover; UPDATE stores to `FIN_EN` tensors are exempt. -/
def overwrites (g : Graph) (es : List TaskEnv) (j : Nat) (ej : TaskEnv) : Bool :=
  ej.writes.any fun q => match ej.r q with
    | none => false
    | some t => !(TD.typ ej.d = 6 && t.finEn) &&
      (let tid := TD.tref ej.d q
       let before := es.take j
       let of (wr : Bool) : List (List (Nat × Nat)) := before.flatMap fun x =>
         ((List.range 8).filter fun r => TD.tref x.d r = tid && x.writes.contains r = wr).flatMap fun r => refBoxes g x.d r t false
       let reads := of false
       !reads.isEmpty && (let written := of true
         (refBoxes g ej.d q t false).any fun a => reads.any fun b =>
           boxMeet a b && !(written.foldl (fun l w => l.flatMap fun x => boxSub x w) [boxInter a b]).isEmpty))

/-- The collective groups a task names (R273, R340). -/
def groupsOf (d : Nat) : List Nat :=
  if (TD.typ d ≤ 1 ∧ TD.redid d ≠ 0) ∨ (TD.typ d = 5 ∧ TD.variant d = 0) then [TD.group d]
  else if TD.typ d = 5 ∧ (TD.variant d = 1 ∨ TD.variant d = 3) then [fld d 941 6] else []

/-- A row word that only ends a segment: what the walk of R170 meets past a program's last word. -/
def RW.segEndOnly : Nat := 2 ^ 159

/-- The step order of a training graph (R278). -/
def stepOk (v : AdmEnv) (g : Graph) : Bool :=
  let s := TD.step (nth 0 g.tasks 0)
  !g.training || (decide (s = v.lastSealed + 1 ∨ s = v.lastSealed + 2) && decide (v.otherSteps.length < 2) && !v.otherSteps.contains s)

/-- Formats of a COLL task's reference 0 and of its winner indices, and its rounding choice (R98, R195, R340). -/
def collFmt (e : TaskEnv) : Bool :=
  let d := e.d
  TD.typ d ≠ 5 || 3 ≤ TD.variant d ||
  ((match e.f 0 with | some f => fld d 1012 5 = f.code | none => true)
   && (TD.variant d ≠ 0 || ((fld d 1010 2 ≠ 1 || 2 < fld d 1012 5) && (fld d 1010 2 ≠ 2 || (fld d 1012 5 ≠ 0 && fld d 1012 5 ≠ 12))
      && (match e.f 3 with | some f => f = .selv | none => true))))

/-- The first failing check of one task, by code order (R277); checks on the whole graph are task 0's. -/
def taskFail (v : AdmEnv) (g : Graph) (es : List TaskEnv) (i : Nat) (e : TaskEnv) : Option Nat :=
  let d := e.d
  let h := g.hdr
  let typ := TD.typ d
  let pan := TD.onPanels d
  let named := (List.range 8).filter fun r => TD.tref d r ≠ 0
  let n := e.prog.words.length
  let ck (ok : Bool) (code : Nat) (rest : Option Nat) : Option Nat := if ok then rest else some code
  let q := g.loose
  ck (fld d 56 8 = 2 && fld d 48 8 = 0x80 && (i ≠ 0 || q.uprogs.all fun u => fld u 56 8 = 2)
      && (typ ≠ 6 || g.uprogs.length ≤ TD.prog d || fld e.up 56 8 = 2)) 0x01 <|
  ck (resvOk g i e && (i ≠ 0 || graphResv v q)) 0x02 <|
  ck ((i ≠ 0 || graphOk v g) && structOk v g i e && collOk g e && finOk g i e && !overwrites g es i e) 0x04 <|
  ck (e.refSets.1.all (fun r => !e.nul r) && (typ ≠ 0 || TD.variant d = 2 || !TD.pre d || !e.nul 3) && named.all (fun r => (e.r r).isSome && (TD.win d r = 0xFFFF || TD.win d r < g.wins.length)
        && (match e.r r with | some t => !t.raw || (typ = 4 && bitOf d 1021) | none => false))
      && (i ≠ 0 || q.progs.all fun p => (v.t (PE.tid p)).isSome)
      && (!pan || g.progs.length ≤ TD.prog d || (v.t (PE.tid e.pe)).isSome)
      && e.prog.activeRefs.all (fun r => TD.tref d r ≠ 0)) 0x05 <|
  ck (fmtOk e && collFmt e && (!(typ = 0 && TD.variant d = 2) || (match e.f 5 with | some f => f = .selv | none => true))) 0x06 <|
  ck ((i ≠ 0 || decide (GH.peakPages h ≤ v.hbmQuota + GH.spillPages h ∧ GH.spillPages h ≤ v.spillCap))
      && (!(typ = 5 && TD.variant d = 0) || 16 ≤ v.tdpQuota)
      && named.all (fun r => match e.r r with | some t => t.fits | none => true)) 0x08 <|
  ck ((i ≠ 0 || q.progs.all fun p => decide (PE.granules p ≤ v.sramMin)) && (!pan || (decide (PE.granules e.pe ≤ v.sramMin)
      && (segWalk g d).all fun sg => decide (stageGranules g e sg ≤ PE.granules e.pe)))) 0x09 <|
  ck (!pan || !Prog.loopsOk e.prog.words || (segLen (fun k => if k < n then nth 0 e.prog.words k else RW.segEndOnly) ((List.range 4).map fun l => TD.lc d l)).isSome) 0x0A <|
  ck (countGuard g e (nth 0 v.groupSizes (TD.group d))) 0x0B <|
  ck ((i ≠ 0 || graphProgs v q) && (!pan || (TD.prog d < g.progs.length
        && (match v.t (PE.tid e.pe) with | some t => t.raw && decide (PE.ofs e.pe * 64 + 256 + PE.words e.pe * 128 ≤ t.endOfs) | none => false)
        && PE.granules e.pe ≤ 384 && 1 ≤ PE.words e.pe && PE.words e.pe ≤ 16384 && e.prog.ok))
      && (typ ≠ 6 || (TD.prog d < g.uprogs.length && upOk g e e.up))) 0x0C <|
  ck (mapOk v g e && (typ ≠ 6 || updRefsOk v g e e.up)) 0x0D <|
  ck ((groupsOf d).all fun gr => nth 0 v.groupSizes gr ≠ 0 && nth false v.maxRankOk gr) 0x0E <|
  ck (i ≠ 0 || stepOk v g) 0x0F none

/-- Admission's answer: none where every check passes, else the code and the task index (R276, R277). The image lies in a raw
object with `room` bytes from its base; the completion area is at `cpl`, with `cplRoom` bytes from there in a raw object. -/
def admitGraph (v : AdmEnv) (g : Graph) (room : Option Nat) (cpl : Nat) (cplRoom : Option Nat) : Option (Nat × Nat) :=
  let h := g.hdr
  if ¬ g.addr < 2 ^ 40 ∨ g.addr % 64 ≠ 0 then some (0x07, 0)
  else match room with
  | none => some (0x05, 0)
  | some room =>
    if cpl % 64 ≠ 0 then some (0x07, 0)
    else if !(match cplRoom with | some r => decide (32 * GH.ntask h ≤ r) | none => false) then some (0x05, 0)
    else if fld h 56 8 ≠ 2 ∨ fld h 48 8 ≠ 64 then some (0x01, 0)
    else if !GH.resv0 h then some (0x02, 0)
    else if !(GH.limits h && decide (GH.span h ≤ room)) then some (0x03, 0)
    else
      let es := g.tasks.map (v.task g)
      if g.tasks.isEmpty then
        (if !(g.uprogs.all fun u => fld u 56 8 = 2) then some (0x01, 0)
         else if !graphResv v g then some (0x02, 0)
         else if !graphOk v g then some (0x04, 0)
         else if !(g.progs.all fun p => (v.t (PE.tid p)).isSome) then some (0x05, 0)
         else if GH.peakPages h ≤ v.hbmQuota + GH.spillPages h ∧ GH.spillPages h ≤ v.spillCap then
           (if !(g.progs.all fun p => decide (PE.granules p ≤ v.sramMin)) then some (0x09, 0)
            else if !graphProgs v g then some (0x0C, 0) else none)
         else some (0x08, 0))
      else ((List.range es.length).zip es).findSome? fun (i, e) => (taskFail v g es i e).map fun c => (c, i)

end Sys2Proof.Machine
end

