-- ==== Sys2Proof/Machine/Wire.lean ====
section
/-! DEFINITION. Longshore packets on the wire (spec/12 R319 to R334, spec/13 R335 to R368): headers, CRCs, exact
packing, groups, and the plain data of ports, streams, peers, reductions and Swash operations. -/
namespace Sys2Proof.Machine

/-- A Longshore packet: the 64-byte header as a number whose bit 511 is the first bit sent (R322), and the payload. -/
structure Packet where
  hdr : BitVec 512 := 0
  payload : List Byte := []
  deriving DecidableEq, Repr

/-- `LS_VER`. -/
def LS.ver (h : BitVec 512) : Nat := BV.fld h 508 4
/-- `LS_TYPE`. -/
def LS.typ (h : BitVec 512) : Nat := BV.fld h 504 4
/-- `LS_TC`. -/
def LS.tc (h : BitVec 512) : Nat := BV.fld h 501 3
/-- `LS_CTX`. -/
def LS.ctx (h : BitVec 512) : Nat := BV.fld h 497 4
/-- `LS_GEN`. -/
def LS.gen (h : BitVec 512) : Nat := BV.fld h 489 8
/-- `LS_EPOCH`. -/
def LS.epoch (h : BitVec 512) : Nat := BV.fld h 485 4
/-- `LS_JOB`. -/
def LS.job (h : BitVec 512) : Nat := BV.fld h 461 24
/-- `LS_SRC`. -/
def LS.src (h : BitVec 512) : Nat := BV.fld h 441 20
/-- `LS_DST`. -/
def LS.dst (h : BitVec 512) : Nat := BV.fld h 421 20
/-- `LS_SEQ`. -/
def LS.seq (h : BitVec 512) : Nat := BV.fld h 389 32
/-- `LS_ACK`. -/
def LS.ack (h : BitVec 512) : Nat := BV.fld h 357 32
/-- `LS_SACK`. -/
def LS.sack (h : BitVec 512) : Nat := BV.fld h 293 64
/-- `LS_REDID`. -/
def LS.redid (h : BitVec 512) : Nat := BV.fld h 273 20
/-- `LS_CHUNK`. -/
def LS.chunk (h : BitVec 512) : Nat := BV.fld h 253 20
/-- `LS_OFFSET`. -/
def LS.offset (h : BitVec 512) : Nat := BV.fld h 221 32
/-- `LS_LEN`. -/
def LS.len (h : BitVec 512) : Nat := BV.fld h 207 14
/-- `LS_PFMT`. -/
def LS.pfmt (h : BitVec 512) : Nat := BV.fld h 203 4
/-- `LS_LEDGER`. -/
def LS.ledger (h : BitVec 512) : Nat := BV.fld h 142 61
/-- `LS_FLAGS`, 16 bits from 126. -/
def LS.flags (h : BitVec 512) : Nat := BV.fld h 126 16
/-- `F_ACKV`. -/
def LS.ackv (h : BitVec 512) : Bool := h.getLsbD 141
/-- `F_ECE`. -/
def LS.ece (h : BitVec 512) : Bool := h.getLsbD 140
/-- `F_ACKREQ`. -/
def LS.ackreq (h : BitVec 512) : Bool := h.getLsbD 139
/-- `F_LAST`. -/
def LS.last (h : BitVec 512) : Bool := h.getLsbD 137
/-- `F_CLIMB`. -/
def LS.climb (h : BitVec 512) : Bool := h.getLsbD 136
/-- `F_POISON`. -/
def LS.poison (h : BitVec 512) : Bool := h.getLsbD 135
/-- `LS_TSTAMP`. -/
def LS.tstamp (h : BitVec 512) : Nat := BV.fld h 94 32
/-- `LS_TSECHO`. -/
def LS.tsecho (h : BitVec 512) : Nat := BV.fld h 62 32
/-- `LS_SACKOFS`. -/
def LS.sackofs (h : BitVec 512) : Nat := BV.fld h 56 6
/-- `LS_CRC`. -/
def LS.crc (h : BitVec 512) : Nat := BV.fld h 0 32

/-- One bit step of the reflected CRC-32C. -/
def crc32cBit (c : Nat) : Nat := if c % 2 = 1 then Nat.xor (c / 2) 0x82F63B78 else c / 2
/-- One byte of the CRC-32C (polynomial 0x1EDC6F41, reflected). -/
def crc32cByte (c : Nat) (b : Byte) : Nat := (List.range 8).foldl (fun c _ => crc32cBit c) (Nat.xor c b.toNat)
/-- CRC-32C of bytes: initial value and final XOR all ones. -/
def crc32c (l : List Byte) : Nat := Nat.xor (l.foldl crc32cByte 0xFFFFFFFF) 0xFFFFFFFF

/-- One byte of the CRC-64 of R348: polynomial 0x42F0E1EBA9EA3693, not reflected. -/
def crc64Byte (c : Nat) (b : Byte) : Nat :=
  (List.range 8).foldl (fun c _ => if bitOf c 63 then Nat.xor (c * 2 % 2 ^ 64) 0x42F0E1EBA9EA3693 else c * 2 % 2 ^ 64) (Nat.xor c (b.toNat * 2 ^ 56))
/-- CRC-64 of bytes, initial value 0, no final XOR (R348). -/
def crc64 (l : List Byte) : Nat := l.foldl crc64Byte 0

/-- The CRC a packet should carry: over the header with `LS_CRC` 0, in network order, and the payload (R322). -/
def Packet.crc (p : Packet) : Nat := crc32c (toBE 64 (BV.put p.hdr 0 32 0).toNat ++ p.payload)
/-- The packet with its CRC filled in. -/
def Packet.sealCrc (p : Packet) : Packet := { p with hdr := BV.put p.hdr 0 32 p.crc }

/-- A received or sent frame (R319): sub-ports, VLAN tag, MAC addresses of the next hop and of the sub-port, ECN codepoint (ECT(0) as sent,
0b11 where congestion was marked) and DSCP (log 84), IP addresses, UDP ports and checksum, packet. -/
structure Frame where
  sub : Nat
  dstSub : Nat := 0
  vlan : Nat := 0
  pcp : Nat := 0
  mac : BitVec 48 := 0
  smac : BitVec 48 := 0
  ecn : BitVec 2 := 2
  dscp : BitVec 6 := 0
  addr : BitVec 128 := 0
  saddr : BitVec 128 := 0
  udpSrc : Nat := 0
  udpDst : Nat := 0
  udpSum : Nat := 0
  pkt : Packet
  deriving DecidableEq, Repr

/-- Is an address an IPv4-mapped one (R333)? -/
def isV4 (a : BitVec 128) : Bool := BV.fld a 32 96 = 0xFFFF
/-- The ones' complement sum of big-endian 16-bit words. -/
def onesSum : List Byte → Nat
  | [] => 0
  | [a] => a.toNat * 256
  | a :: b :: t => let x := a.toNat * 256 + b.toNat + onesSum t; x % 65536 + x / 65536
/-- The UDP checksum of a datagram over IPv6; over IPv4 it is 0 (R319). -/
def udpChecksum (src dst : BitVec 128) (sport dport : Nat) (data : List Byte) : Nat :=
  if isV4 dst then 0 else
  let n := 8 + data.length
  let x := 65535 - onesSum (toBE 16 src.toNat ++ toBE 16 dst.toNat ++ toBE 4 n ++ [0, 0, 0, 17] ++ toBE 2 sport ++ toBE 2 dport ++ toBE 2 n ++ [0, 0] ++ data)
  if x = 0 then 65535 else x

/-- Chunk-signal payload (R363). -/
def signalPayload (kind piece count digest : Nat) : List Byte :=
  toLE 2 kind ++ toLE 2 piece ++ toLE 4 count ++ toLE 8 digest ++ List.replicate 16 0

/-! ### Exact packing (R359, R360) -/

/-- Fits a w-bit two's complement field. -/
def fitsW (w : Nat) (i : Int) : Bool := if w = 0 then i = 0 else decide (-(2 ^ (w - 1) : Nat) ≤ i ∧ i < (2 ^ (w - 1) : Nat))

/-- The smallest width in which every element of a block fits. -/
def packWidth (l : List Int) : Nat := ((List.range 129).find? fun w => l.all (fitsW w)).getD 128

/-- The special-state bits of an element: NAN, PINF, NINF, SAT with NAN highest. -/
def Sk.spec (k : Sk) : Nat := k.nan.toNat * 8 + k.pinf.toNat * 4 + k.ninf.toNat * 2 + k.sat.toNat

/-- One block record of 32 elements. -/
def packBlock (l : List Sk) : List Byte :=
  let w := packWidth (l.map (·.acc))
  let spec := l.any fun k => k.spec ≠ 0
  let body := sumN ((List.range 32).map fun i => toTwos w (nth Sk.zero l i).acc * 2 ^ (w * i))
  [BitVec.ofNat 8 w, if spec then 1 else 0] ++ toLE (4 * w) body
    ++ (if spec then toLE 16 (sumN ((List.range 32).map fun i => (nth Sk.zero l i).spec * 2 ^ (4 * i))) else [])

/-- The block records of a payload, or none when it is malformed (R360). Fuel bounds the records. -/
def unpackBlocks (limit : Nat) : Nat → List Byte → Option (List (List Sk))
  | _, [] => some []
  | 0, _ => none
  | f + 1, b :: rest =>
    match rest with
    | [] => none
    | c :: body =>
      let w := b.toNat
      let spec := c.toNat % 2 = 1
      let n := 4 * w + (if spec then 16 else 0)
      if limit < w ∨ 1 < c.toNat ∨ body.length < n then none else
      let v := ofLE (body.take (4 * w))
      let s := if spec then ofLE ((body.drop (4 * w)).take 16) else 0
      let els := (List.range 32).map fun i =>
        let sp := fld s (4 * i) 4
        { nan := bitOf sp 3, pinf := bitOf sp 2, ninf := bitOf sp 1, sat := bitOf sp 0
          acc := if w = 0 then 0 else sext (fld v (w * i) w) w : Sk }
      (unpackBlocks limit f (body.drop n)).map (els :: ·)

/-! ### Groups (R335 to R337, R343, R353) -/

/-- Extent of a grid axis. -/
def gridExt (g : BitVec 128) (a : Nat) : Nat := BV.fld g (16 * a) 16 + 1
/-- The rank of grid indices. -/
def gridRank (g : BitVec 128) (ix : List Nat) : Nat :=
  ((List.range 6).foldl (fun (p : Nat × Nat) a => (p.1 + nth 0 ix a * p.2, p.2 * gridExt g a)) (0, 1)).1
/-- Ranks in the job. -/
def gridSize (g : BitVec 128) : Nat := (List.range 6).foldl (fun p a => p * gridExt g a) 1

/-- Start, count and stride of a group's axis (R336). -/
def grpAxis (r : BitVec 512) (a : Nat) : Nat × Nat × Nat := (BV.fld r (49 * a) 16, BV.fld r (49 * a + 16) 17, BV.fld r (49 * a + 33) 16)
/-- `VALID` of a group record. -/
def grpValid (r : BitVec 512) : Bool := r.getLsbD 511
/-- Owning context. -/
def grpCtx (r : BitVec 512) : Nat := BV.fld r 507 4
/-- Number of members. -/
def grpSize (r : BitVec 512) : Nat := (List.range 6).foldl (fun p a => p * (grpAxis r a).2.1) 1
/-- The grid indices of a member, axis 0 fastest. -/
def grpIndices (r : BitVec 512) (m : Nat) : List Nat :=
  ((List.range 6).foldl (fun (p : List Nat × Nat) a =>
    let (s, n, d) := grpAxis r a
    (p.1 ++ [s + p.2 % n * d], p.2 / n)) ([], m)).1
/-- Member ranks in member order. -/
def grpRanks (g : BitVec 128) (r : BitVec 512) : List Nat := (List.range (grpSize r)).map fun m => gridRank g (grpIndices r m)

/-- The member index of a rank in a group, where the rank is a member (R336). -/
def grpMember (g : BitVec 128) (r : BitVec 512) (rank : Nat) : Option Nat :=
  if !grpValid r ∨ gridSize g ≤ rank then none else
  ((List.range 6).foldl (fun (p : Option (Nat × Nat) × Nat) a =>
    let (s, n, d) := grpAxis r a
    let ix := p.2 % gridExt g a
    let j := if d = 0 then 0 else (ix - s) / d
    (match p.1 with
      | some (m, w) => if s ≤ ix ∧ j < n ∧ s + j * d = ix then some (m + j * w, w * n) else none
      | none => none, p.2 / gridExt g a)) (some (0, 1), rank)).1.map (·.1)

/-- May a commit define this record (R337, R18)? `live` tells whether its context is LIVE; the last member has the highest rank. -/
def grpOk (g : BitVec 128) (r : BitVec 512) (live : Bool) : Bool :=
  live && ((List.range 6).all fun a =>
    let (s, n, d) := grpAxis r a
    decide (1 ≤ n ∧ n ≤ 4096 ∧ s + (n - 1) * d < gridExt g a) && !(d = 0 && decide (1 < n)))
  && decide (gridRank g ((List.range 6).map fun a => let (s, n, d) := grpAxis r a; s + (n - 1) * d) ≤ 65535)

/-- The home member of chunk c among P members and C chunks (R343). -/
def homeOf (P C c : Nat) : Nat := c * P / C

/-- The stages of a group of more than 4,096 members (R353): axis lists. -/
def grpStages (r : BitVec 512) : List (List Nat) :=
  let (cur, done, _) := (List.range 6).foldl (fun (p : List Nat × List (List Nat) × Nat) a =>
    let n := (grpAxis r a).2.1
    if p.2.2 * n ≤ 4096 then (p.1 ++ [a], p.2.1, p.2.2 * n) else ([a], p.2.1 ++ [p.1], n)) ([], [], 1)
  done ++ [cur]

/-- A member's index along each axis of its group. -/
def grpSplit (r : BitVec 512) (m : Nat) : List Nat :=
  ((List.range 6).foldl (fun (p : List Nat × Nat) a => (p.1 ++ [p.2 % (grpAxis r a).2.1], p.2 / (grpAxis r a).2.1)) ([], m)).1
/-- The member with given indices along the axes. -/
def grpJoin (r : BitVec 512) (ix : List Nat) : Nat :=
  ((List.range 6).foldl (fun (p : Nat × Nat) a => (p.1 + nth 0 ix a * p.2, p.2 * (grpAxis r a).2.1)) (0, 1)).1
/-- The stages in force: one for groups of at most 4,096 members. -/
def grpSt (r : BitVec 512) : List (List Nat) := if grpSize r ≤ 4096 then [List.range 6] else grpStages r
/-- The member that gathers stage k's contributions of a member for a home (R353). -/
def grpHolder (r : BitVec 512) (k m home : Nat) : Nat :=
  let st := nth [] (grpSt r) k
  let a := grpSplit r m
  let b := grpSplit r home
  grpJoin r ((List.range 6).map fun x => if st.contains x then nth 0 b x else nth 0 a x)
/-- Does a member gather stage k of a home's pieces: its indices on stages up to k are the home's. -/
def grpHolds (r : BitVec 512) (k m home : Nat) : Bool :=
  let ax := ((grpSt r).take (k + 1)).flatten
  let a := grpSplit r m
  let b := grpSplit r home
  ax.all fun x => nth 0 a x = nth 0 b x
/-- The members that contribute at stage k to a member that gathers it: those that differ from it on that stage's axes only. -/
def grpFeeds (r : BitVec 512) (k m : Nat) : List Nat :=
  let st := nth [] (grpSt r) k
  let a := grpSplit r m
  (List.range (grpSize r)).filter fun q => let b := grpSplit r q; (List.range 6).all fun x => st.contains x || nth 0 a x = nth 0 b x
/-- The stage in which a member's contribution reaches another. -/
def grpStageOf (r : BitVec 512) (p q : Nat) : Nat :=
  let a := grpSplit r p
  let b := grpSplit r q
  ((List.range (grpSt r).length).find? fun k => (nth [] (grpSt r) k).any fun x => nth 0 a x ≠ nth 0 b x).getD 0

/-! ### COLL block (R340) -/

/-- `CHUNKLG`. -/
def CB.chunkLg (d : Nat) : Nat := fld d 1019 5
/-- `GATHER`. -/
def CB.gather (d : Nat) : Bool := bitOf d 1018
/-- `NOTIFY`. -/
def CB.notify (d : Nat) : Bool := bitOf d 1017
/-- `DFMT`. -/
def CB.dfmt (d : Nat) : Nat := fld d 1012 5
/-- `DRND`. -/
def CB.drnd (d : Nat) : Nat := fld d 1010 2
/-- `DOVF`. -/
def CB.dovf (d : Nat) : Bool := bitOf d 1009
/-- `DINT`. -/
def CB.dint (d : Nat) : Bool := bitOf d 1008
/-- `CFLAG0`. -/
def CB.cflag0 (d : Nat) : Nat := fld d 988 20
/-- `PEER`. -/
def CB.peer (d : Nat) : Nat := fld d 968 20
/-- `P2PTAG`. -/
def CB.tag (d : Nat) : Nat := fld d 948 20
/-- `ROLE`: true receives. -/
def CB.recv (d : Nat) : Bool := bitOf d 947
/-- `CGROUP`. -/
def CB.cgroup (d : Nat) : Nat := fld d 941 6
/-- `CMASKMODE`. -/
def CB.maskMode (d : Nat) : Nat := fld d 939 2

/-! ### Plain data of the fabric -/

/-- A packet that a paused class keeps at its port (R312): context, destination rank, sub-port. -/
structure Waiting where
  ctx : Nat
  rank : Nat
  sub : Nat
  pkt : Packet
  deriving DecidableEq, Repr

/-- A port (R312, R313, R310, R321): control, sub-port states and, as a mask, the lanes in use; addresses are in tables of the fabric. `retry` marks sub-ports
whose retrain is a retry of R314, `waitq` holds the packets of paused priorities in order. -/
structure Port where
  laneEn : BitVec 8 := 0xFF
  pfcEn : Bool := false
  mode : BitVec 2 := 0
  en : Bool := true
  subst : Vector (BitVec 4) 8 := Vector.replicate 8 0
  lanes : Vector (BitVec 8) 8 := Vector.replicate 8 0
  badLanes : BitVec 8 := 0
  pfcPause : BitVec 8 := 0
  waitq : List Waiting := []
  retry : BitVec 8 := 0
  ets : List Nat := [2, 0, 50, 20, 3, 10, 15, 0]
  pcp : List Nat := [0, 1, 2, 3, 4, 5, 6, 7]
  dscp : List Nat := [0, 0, 0, 0, 0, 0, 0, 0]
  weights : List Nat := [16, 16, 16, 16, 16, 16, 16, 16, 16, 16, 16, 16, 16, 16, 16, 16]
  deriving DecidableEq, Repr

/-- A Strand engine's lasers (R318): spares left, spares switched in so far (kept in flash), worn lanes waiting for a switch, the sub-port that
retrains for such a switch. -/
structure Strand where
  spares : BitVec 8 := 4
  spent : Nat := 0
  wearQ : List Nat := []
  switching : Option Nat := none
  deriving DecidableEq, Repr

/-- One stream in both directions (R326 to R330): context, peer rank, class. -/
structure Stream where
  ctx : Nat
  peer : Nat
  tc : Nat
  nextSeq : Nat := 0
  unacked : List (Nat × Nat × Packet) := []
  txq : List Packet := []
  expiries : Nat := 0
  rto : Nat := 50000
  held : Bool := false
  cum : Nat := 0
  got : List Nat := []
  sinceAck : Nat := 0
  ce : Bool := false
  badSeq : List Nat := []
  tsLast : Nat := 0
  deriving DecidableEq, Repr

/-- What the module knows of a rank for one context (R329 to R333). -/
structure Peer where
  ctx : Nat
  rank : Nat
  joined : Bool := false
  joining : Bool := false
  tries : Nat := 0
  unreachable : Bool := false
  gen : Nat := 0
  bitmap : BitVec 256 := 0
  held : Bool := false
  deriving DecidableEq, Repr

/-- The rate and congestion estimate toward a rank in a class, in units of 2^−32 of capacity (R331, log 26). -/
structure Rate where
  ctx : Nat
  rank : Nat
  tc : Nat
  r : Nat := 2 ^ 32
  alpha : Nat := 2 ^ 32
  deriving DecidableEq, Repr

/-- A SHARE_END received (R348, R383): member, packets counted, mask digest, ledger. -/
structure ShEnd where
  member : Nat
  count : Nat
  digest : Nat
  ledger : Nat
  deriving DecidableEq, Repr

/-- One piece of a chunk at a member that accumulates it (R344, R349, R353, R357): its stage, its claimed area (slots of
Tidepool, or units of the HBM accumulation region), its accumulators by chunk-relative index, what each member ended and
sent, poisoned blocks; the ledger of its preload, and that of its accumulators when they drained (R383, R385). -/
structure Piece where
  chunk : Nat
  idx : Nat
  stage : Nat := 0
  due : Bool := false
  claimed : Bool := false
  granted : Bool := false
  drained : Bool := false
  spilled : Bool := false
  area : List Nat := []
  acc : Tbl SkeinW := []
  ends : List ShEnd := []
  got : Tbl Nat := []
  led : Tbl Nat := []
  poison : List Nat := []
  mismatch : List Nat := []
  pre : Nat := 0
  outLed : Nat := 0
  deriving DecidableEq, Repr

/-- One reduction or gather as this member sees it (R341 to R364). Tables keyed by chunk × 2^16 + piece: packets sent,
ledger sent; `outb` holds partials not yet sent, by accumulator index; `repMax`, `agreed` are keyed by anchor block,
`rises` counts the climbs of a block. In an attention reduction `soundMax`, `soundRep` and `mhat` hold the sounding combine
by query row (R211); `repSent` lists the chunks reported. -/
structure Red where
  ctx : Nat
  slot : Nat
  task : Nat
  redid : Nat
  isGather : Bool := false
  attn : Bool := false
  cmp : Bool := false
  ranks : List Nat := []
  grp : BitVec 512 := 0
  self : Nat := 0
  cls : Nat := 1
  chunkLg : Nat := 10
  elems : Nat := 0
  rowAcc : Nat := 1
  declared : Option Int := none
  epoch : Nat := 0
  pieces : List Piece := []
  done : List Nat := []
  reports : List (Nat × Nat) := []
  repMax : Tbl Int := []
  agreed : List (Nat × Int) := []
  rises : Tbl Nat := []
  climbed : List Nat := []
  grantA : List Nat := []
  grantP : List Nat := []
  outb : Tbl SkeinW := []
  sentN : Tbl Nat := []
  sentL : Tbl Nat := []
  ended : List Nat := []
  arrived : Tbl Nat := []
  corrupt : Bool := false
  repSent : List Nat := []
  soundMax : Tbl Int := []
  soundRep : List (Nat × Nat) := []
  mhat : List (Nat × Int) := []
  deriving DecidableEq, Repr

/-- A point-to-point transfer in progress (R365). `buf` keeps, by offset, the bytes received of Selvedge-64 blocks that the window covers in
part, which are written by their values once they are whole (R37). -/
structure P2P where
  ctx : Nat
  slot : Nat
  task : Nat
  peer : Nat
  tag : Nat
  recv : Bool
  granted : Bool := false
  packets : Nat := 0
  bytes : Nat := 0
  total : Option Nat := none
  sentAll : Bool := false
  buf : Tbl Byte := []
  deriving DecidableEq, Repr

/-- A Swash operation in progress at this member (R366 to R368). `use` tells what waits for it. -/
structure SwOp where
  ctx : Nat
  grp : Nat
  seq : Nat
  code : Nat
  lanes : Nat
  ranks : List Nat
  self : Nat
  own : Option (List Int) := none
  kids : List (Nat × Nat × Nat × List Int) := []
  sentUp : Bool := false
  use : Nat := 0
  slot : Nat := 0
  task : Nat := 0
  result : Option (List Int) := none
  failed : Bool := false
  deriving DecidableEq, Repr

/-- Combine two lane lists under a Swash code (R366). -/
def swComb (code : Nat) (a b : List Int) : List Int :=
  (List.range (max a.length b.length)).map fun i =>
    let x := nth 0 a i
    let y := nth 0 b i
    match code with
    | 1 => (Nat.lor (toTwos 64 x) (toTwos 64 y) : Nat)
    | 2 => (Nat.land (toTwos 64 x) (toTwos 64 y) : Nat)
    | 3 => max x y
    | 4 => min x y
    | _ => x + y

/-- The children of a member in a radix-16 tree over P members (R368). -/
def swKids (P m : Nat) : List Nat := (List.range 16).filterMap fun k => if 16 * m + 1 + k < P then some (16 * m + 1 + k) else none

/-- Accumulators of a reduction per row, in chunk-relative index (R342, R345): elements per chunk. -/
def Red.chunkN (r : Red) : Nat := 2 ^ r.chunkLg * r.rowAcc
/-- Accumulators in one piece (R344, R345). -/
def Red.pieceN (r : Red) : Nat :=
  if r.attn then min r.chunkN ((List.range 21).foldl (fun a q => if 2 ^ q * r.rowAcc ≤ 262144 then 2 ^ q * r.rowAcc else a) r.rowAcc)
  else if r.cmp then 131072 else 262144
/-- Chunk count C (R342). -/
def Red.chunks (r : Red) : Nat := max 1 (cdiv r.elems r.chunkN)
/-- Accumulators of chunk c. -/
def Red.chunkLen (r : Red) (c : Nat) : Nat := min r.chunkN (r.elems - c * r.chunkN)
/-- Pieces of chunk c; the chunk of an empty reduction has none (R342). -/
def Red.npieces (r : Red) (c : Nat) : Nat := cdiv (r.chunkLen c) r.pieceN
/-- Home member of chunk c. -/
def Red.home (r : Red) (c : Nat) : Nat := homeOf r.ranks.length r.chunks c

end Sys2Proof.Machine
end

