-- ==== Sys2Proof/Machine/Units.lean ====
section
/-! DEFINITION. Plain data of contexts, graph slots, attempts, checking, memory residency, resets, the Wrackline log
and remapping (spec/10, 11, 14, 15). -/
namespace Sys2Proof.Machine

/-- State of a context (R264). -/
inductive CtxSt where
  | free
  | live
  | dying
  deriving DecidableEq, Repr

/-- Graph-slot states (R275). -/
inductive SlotSt where
  | idle
  | admitting
  | running
  | done
  | rejected
  | faulted
  | skew
  | abandoned
  deriving DecidableEq, Repr

/-- The code of a slot state (R275). -/
def SlotSt.code : SlotSt → Nat
  | .idle => 0 | .admitting => 1 | .running => 2 | .done => 3 | .rejected => 4 | .faulted => 5 | .skew => 6 | .abandoned => 7

/-- What the module keeps of one task of a running graph (R280). `ends` is the status of a task that takes no panel and has ended in the
frame in hand, `lastPanel` the panel of its latest segment: it completes when the frame retires (R285). -/
structure TaskSt where
  status : Nat := 0
  segdone : Nat := 0
  flags : BitVec 24 := 0
  fault : BitVec 64 := 0
  frame : BitVec 64 := 0
  next : Nat := 0
  running : List Nat := []
  wb : Nat := 0
  lastPanel : Option Nat := none
  dispatched : Bool := false
  finished : Bool := false
  ends : Option Nat := none
  tainted : Bool := false
  climbs : List Nat := []
  rises : Tbl Nat := []
  epoch : Nat := 0
  qS : List Nat := [0, 0, 0, 0, 0, 0, 0, 0]
  qE : List Nat := [0, 0, 0, 0, 0, 0, 0, 0]
  deriving DecidableEq, Repr

/-- The exact partial sum of one output element of a Skein-192 reduction whose parts lie on several panels (R69): the reduction (its `REDID`,
or 2^20 plus the task where that is 0), the element, how the drain rounds and overflows, and the sum. -/
structure Part where
  red : Nat
  el : Nat
  rnd : Nat
  ovf : Bool
  int : Bool
  acc : SkeinW
  deriving DecidableEq, Repr

/-- The attempt of a training graph's step (R236, R257, R385 to R391). -/
structure Attempt where
  e : Int := 0
  ovf : Bool := false
  ledA : Nat := 0
  ledH : Nat := 0
  parNew : Tbl Nat := []
  normOn : Bool := false
  normPhase : Nat := 0
  gauge : Int := -127
  norm : Option Nat := none
  skewDone : Bool := false
  replayBit : Bool := false
  stopBit : Bool := false
  skewBit : Bool := false
  voted : Bool := false
  vote : List (Nat × List Int) := []
  voteFail : Bool := false
  sealing : Nat := 0
  deriving DecidableEq, Repr

/-- A graph slot (R275, R456): `regCtx`, `regImage` and `regCpl` are the slot page's settings, which an arm takes over; `leave` is the
state it enters at the next tick, with the error code and task. -/
structure Slot where
  st : SlotSt := .idle
  busy : Bool := false
  attempt : BitVec 3 := 0
  step : BitVec 32 := 0
  errCode : BitVec 8 := 0
  errTask : BitVec 20 := 0
  doneCnt : BitVec 21 := 0
  hash : BitVec 512 := 0
  irqEn : Bool := false
  ctx : BitVec 4 := 0
  image : BitVec 48 := 0
  cpl : BitVec 48 := 0
  regCtx : BitVec 4 := 0
  regImage : BitVec 48 := 0
  regCpl : BitVec 48 := 0
  graph : Graph := {}
  tasks : List TaskSt := []
  order : List (Nat × Nat) := []
  parts : List Part := []
  admitted : Bool := false
  leave : Option (SlotSt × Nat × Nat) := none
  stopped : Bool := false
  cancelled : Bool := false
  att : Attempt := {}
  deriving DecidableEq, Repr

/-- A receipt record (R396): message, the leaf, and whether its signature has been released. -/
structure Receipt where
  step : Nat
  msg : List Byte
  leaf : Nat := 0
  sig : List Byte := []
  signed : Bool := false
  failed : Bool := false
  deriving DecidableEq, Repr

/-- Quotas and identity a context's owner commits (R265, R456). -/
structure CtxCfg where
  hbmQ : BitVec 20 := 0
  spillQ : BitVec 20 := 0
  sramMin : BitVec 9 := 0
  panels : BitVec 6 := 0
  job : BitVec 24 := 0
  rank : BitVec 20 := 0
  vlan : BitVec 12 := 0
  seed : BitVec 64 := 0
  sealed : BitVec 32 := 0
  lsE : BitVec 8 := 0
  clean : BitVec 16 := 0
  interval : BitVec 16 := 0x07D0
  ovf : Bool := false
  grid : BitVec 128 := 0
  ident : BitVec 512 := 0
  finTwin : BitVec 64 := 0
  twinStep : BitVec 64 := 0
  adopt : BitVec 64 := 0
  lenders : List Nat := []
  hostBase : BitVec 64 := 0
  hostPages : BitVec 20 := 0
  ranks : Tbl (BitVec 256) := []
  deriving DecidableEq, Repr

/-- A context (R264, R265, R284, R291, R456). `freeing` are destroyed tensors whose pages a write may still reach
(R294), `aband` the abandoned steps of its training graphs that have not been started again (R247, R392). -/
structure Ctx where
  st : CtxSt := .free
  gen : BitVec 8 := 0
  answer : BitVec 4 := 2
  orphan : Bool := false
  orphGen : BitVec 8 := 0
  cfg : CtxCfg := {}
  progress : BitVec 64 := 0
  flags : List Nat := []
  tensors : List TRec := []
  orphans : List TRec := []
  freeing : List TRec := []
  resetting : Bool := false
  writesA : Nat := 0
  writesB : Nat := 0
  swSeq : Tbl Nat := []
  receipts : List Receipt := []
  rcptIrq : Bool := false
  epochs : Tbl Nat := []
  twinTries : Nat := 0
  twinWait : Option Nat := none
  twinLed : Nat := 0
  twinOn : Bool := false
  twinLines : List (Nat × Nat × List Byte) := []
  parSums : Tbl Nat := []
  leafWait : Option Nat := none
  gnorm : BitVec 32 := 0
  corrThresh : BitVec 64 := 0
  dropRaise : BitVec 64 := 0
  bar2Abort : BitVec 64 := 0
  tensorSnap : List Nat := []
  aband : List Nat := []
  deriving DecidableEq, Repr

/-- A page of a context that has a far copy (R306 to R308): its page number in the context, its tensor, the lender's rank (none:
the host region), the checksum made at eviction, the contents then, whether it is resident again with its copy still good,
whether a recall is in progress, and the parts of a recall that have arrived. -/
structure FarPage where
  ctx : Nat
  tid : Nat
  page : Nat
  lender : Option Nat
  sum : BitVec 64
  data : Tbl Byte := []
  resident : Bool := false
  recalling : Bool := false
  parts : List (Nat × List Byte) := []
  deriving DecidableEq, Repr

/-- A page this module lends (R307): the owner's rank, the context here that the owner's packets name, the owner's generation,
the page number, the partition whose HBM holds it, its parts and its checksum. -/
structure Lent where
  rank : Nat
  ctx : Nat
  gen : Nat
  page : Nat
  die : Nat := 0
  parts : List (Nat × List Byte) := []
  sum : Option (BitVec 64) := none
  deriving DecidableEq, Repr

/-- A suspect record (R375). -/
structure Suspect where
  slot : Nat
  task : Nat
  sigma : Nat
  attempt : Nat
  tile : Nat
  x : Nat
  y : Nat
  digX : BitVec 384
  digY : BitVec 384
  deriving DecidableEq, Repr

/-- A checking panel of a running cross swatch (R371, R372): checking panel, primary panel, rotation, the segment and its
attempt; for a decision run (R376) the suspect record it decides, with the digests of Z and of a suspect spare as they
become known. -/
structure Check where
  panel : Nat
  primary : Nat
  rot : Nat
  slot : Nat := 0
  task : Nat := 0
  sigma : Nat := 0
  attempt : Nat := 0
  susp : Option Suspect := none
  z : Option (BitVec 384) := none
  y : Option (BitVec 384) := none
  deriving DecidableEq, Repr

/-- The `SWT` page (R370, R378, R457): configuration word, the eight counters, the suspect records (R375), transients
(engine, hour of operation), carried samples (R371), the checking panels of this frame (R372) and those of ended frames whose
comparison is due (R373). -/
structure Swt where
  exp : BitVec 4 := 5
  trLimit : BitVec 4 := 3
  trWin : BitVec 16 := 0x18
  cross : BitVec 64 := 0
  mmShadow : BitVec 64 := 0
  mmCross : BitVec 64 := 0
  decided : BitVec 56 := 0
  fenced : BitVec 64 := 0
  transient : BitVec 64 := 0
  undecided : BitVec 64 := 0
  suspects : List Suspect := []
  transientAt : List (Nat × Nat) := []
  carried : List Nat := []
  checking : List Check := []
  due : List Check := []
  deriving DecidableEq, Repr

/-- Reset escalation (R405 to R409): the registers, the reset in progress (level, domain, whether it has escalated), faults queued
and requests that wait for the next tick (level, domain, cause), engines and panels whose own reset this one subsumed and that are tested as
it ends, requests ignored. A domain is a context (level 1), a physical
engine (2), a logical panel (3) or a partition (4). -/
structure Esc where
  status : BitVec 64 := 0
  event : BitVec 64 := 0
  heartbeat : BitVec 64 := 0
  active : Nat := 0
  domain : Nat := 0
  escal : Bool := false
  queue : List (Nat × Nat × Nat) := []
  waiting : List (Nat × Nat × Nat) := []
  tests : List (Nat × Nat) := []
  ignored : BitVec 64 := 0
  deriving DecidableEq, Repr

/-- The header of a unit's record in a crash dump (R421): unit class, logical and physical number, record length, status. -/
structure DumpRec where
  cls : Nat
  logical : Nat
  phys : Nat
  len : Nat
  status : Nat
  deriving DecidableEq, Repr

/-- The Wrackline log (R418, R419, R422): entries keyed by `SEQ` mod 32,768, head, flash copies. -/
structure Wrk where
  ring : Tbl (BitVec 512) := []
  seq : BitVec 32 := 0
  dumpWin : BitVec 2 := 0
  flash : List (BitVec 512) := []
  flashRing : Tbl (BitVec 512) := []
  flashDump : List DumpRec := []
  deriving DecidableEq, Repr

/-- The crash dump (R420, R421). -/
structure Dump where
  held : Bool := false
  collecting : Bool := false
  next : Nat := 0
  recs : List DumpRec := []
  deriving DecidableEq, Repr

/-- The remap table (R410 to R413, R429): physical panel of a logical panel (value + 1; unlisted: ascending order), physical
engine of a logical engine of a physical panel (value + 1), fenced physical engines and panels, absent logical panels,
physical engines in reset, fences that take effect at the next frame boundary (R377), and
engines and logical panels that failed their reset and are replaced there (R410, R411). A physical panel is
17 × die + 0 to 16, a physical engine 17 × panel + 0 to 16. R430 leaves no fused-bad unit of these. -/
structure Remap where
  panelOf : Tbl Nat := []
  engOf : Tbl Nat := []
  fencedEng : List Nat := []
  fencedPan : List Nat := []
  absent : List Nat := []
  resetting : List Nat := []
  atTick : List Nat := []
  failedEng : List Nat := []
  failedPan : List Nat := []
  deriving DecidableEq, Repr

/-- Tidepool of one partition (R354 to R358, R458): quota and slots in use per context, debug selector, counters. -/
structure Tdp where
  quota : Vector (BitVec 8) 16 := (Vector.replicate 16 0).set 0 0x10
  spill : BitVec 64 := 0
  maskdrop : BitVec 64 := 0
  digestmm : BitVec 64 := 0
  dbg : BitVec 64 := 0
  deriving DecidableEq, Repr

/-- Memory residency, retirement and lending (R298, R306 to R309): far and lent pages, the lending reserve, the pages with a
frame (page number, stack + 1), the frames retired (by the page they held), corrected errors per page since its frame was attached, the threshold, spare
frames used, the frame of each page's last use, BAR2 accesses refused. -/
structure Pager where
  far : List FarPage := []
  lent : List Lent := []
  reserve : BitVec 20 := 0
  frames : Tbl Nat := []
  retired : List Nat := []
  corrected : Tbl Nat := []
  threshold : BitVec 16 := 0
  sparesUsed : Nat := 0
  lru : Tbl Nat := []
  bar2Refused : BitVec 64 := 0
  deriving DecidableEq, Repr

/-- The constants of congestion control with the defaults of R331: gain 1/16 of α, decrease interval and decay interval
4 µs, decay factor 15/16, increase interval 8 µs, increase 1/256, floor 1/4,096 of capacity. -/
structure Cong where
  gainDen : Nat := 16
  decNs : Nat := 4000
  decayNum : Nat := 15
  decayDen : Nat := 16
  incNs : Nat := 8000
  incDen : Nat := 256
  floorDen : Nat := 4096
  deriving DecidableEq, Repr

/-- The fabric side: ports, streams, peers, groups, reductions, Swash (R311 to R368). -/
structure Fab where
  ports : Vector Port 32 := Vector.replicate 32 {}
  strands : Vector Strand 8 := Vector.replicate 8 {}
  addrs : Tbl (BitVec 256) := []
  nextHop : Tbl (BitVec 48) := []
  streams : List Stream := []
  peers : List Peer := []
  rates : List Rate := []
  wrr : Tbl Int := []
  groups : Tbl (BitVec 512) := []
  reds : List Red := []
  p2p : List P2P := []
  sw : List SwOp := []
  largest : BitVec 14 := 8192
  cong : Cong := {}
  drops : Tbl Nat := []
  foreign : BitVec 64 := 0
  poisonedPay : BitVec 64 := 0
  swOps : BitVec 64 := 0
  swFails : BitVec 64 := 0
  noService : Bool := false
  deriving DecidableEq, Repr

end Sys2Proof.Machine
end

