-- ==== Sys2Proof/Machine/Reg.lean ====
section
/-! DEFINITION. Names of registers: block type code, instance and page offset (R447, R454). A register whose page the spec
names without an offset has a number of 0x1000 or above, which no page offset reaches (log 30). -/
namespace Sys2Proof.Machine

/-- A register: block type code, instance, offset within its page. -/
structure Reg where
  blk : Nat
  inst : Nat
  ofs : Nat
  deriving DecidableEq, Repr

/-- How a host access names its register: by BAR0 offset of its function, or by name where no offset is given. -/
inductive RegSel where
  | addr (ofs : Nat)
  | name (r : Reg)
  deriving DecidableEq, Repr

/-- `HST_APT_IDX`. -/
def Reg.aptIdx (fn : Nat) : Reg := ⟨0x17, fn, 0x1000⟩
/-- `HST_APT_DATA`. -/
def Reg.aptData (fn : Nat) : Reg := ⟨0x17, fn, 0x1001⟩
/-- The dropped-access count of a function's `HST` page. -/
def Reg.hstDrops (fn : Nat) : Reg := ⟨0x17, fn, 0x1002⟩
/-- The count of a context's dropped flag raises on its `GRF` page (R284). -/
def Reg.flagDrops (c : Nat) : Reg := ⟨0x07, c, 0x1000⟩
/-- `WRK_DUMP_WIN`. -/
def Reg.dumpWin : Reg := ⟨0x12, 0, 0x1000⟩
/-- The log head. -/
def Reg.wrkSeq : Reg := ⟨0x12, 0, 0x1001⟩
/-- A lender of a context. -/
def Reg.lender (c k : Nat) : Reg := ⟨0x09, c, 0x1000 + k⟩
/-- The lending reserve, in pages. -/
def Reg.lendReserve : Reg := ⟨0x09, 0, 0x1010⟩
/-- Base of a context's host spill region. -/
def Reg.hostBase (c : Nat) : Reg := ⟨0x09, c, 0x1011⟩
/-- Pages of a context's host spill region. -/
def Reg.hostPages (c : Nat) : Reg := ⟨0x09, c, 0x1012⟩
/-- Corrected-error threshold of the `MEM` page. -/
def Reg.eccThreshold : Reg := ⟨0x08, 0, 0x1000⟩
/-- Half k of a context's grid word. -/
def Reg.grid (c k : Nat) : Reg := ⟨0x0B, c, 0x1000 + k⟩
/-- Largest payload. -/
def Reg.largest : Reg := ⟨0x0B, 16, 0x1010⟩
/-- Congestion constant k. -/
def Reg.cong (k : Nat) : Reg := ⟨0x0B, 16, 0x1018 + k⟩
/-- Word k of the rank-table entry of a rank. -/
def Reg.rank (c r k : Nat) : Reg := ⟨0x0B, c, 0x100000 + 4 * r + k⟩
/-- Word k of a group record. -/
def Reg.group (g k : Nat) : Reg := ⟨0x0B, 16 + g / 32, 0x2000 + 8 * (g % 32) + k⟩
/-- `PRT_CTRL`. -/
def Reg.prtCtrl (n : Nat) : Reg := ⟨0x0C, n, 0x1000⟩
/-- `PRT_STATUS`. -/
def Reg.prtStatus (n : Nat) : Reg := ⟨0x0C, n, 0x1001⟩
/-- ETS weights: class c in bits [8c + 7 : 8c]. -/
def Reg.ets (n : Nat) : Reg := ⟨0x0C, n, 0x1002⟩
/-- PCP map: class c in bits [8c + 7 : 8c]. -/
def Reg.pcp (n : Nat) : Reg := ⟨0x0C, n, 0x1003⟩
/-- DSCP map: class c in bits [8c + 5 : 8c]. -/
def Reg.dscp (n : Nat) : Reg := ⟨0x0C, n, 0x1004⟩
/-- Word k of a sub-port's addresses: 0 MAC, 1 IPv4, 2 and 3 IPv6, 4 next hop. -/
def Reg.subAddr (n s k : Nat) : Reg := ⟨0x0C, n, 0x1100 + 8 * s + k⟩
/-- A context's weight on a port. -/
def Reg.weight (n c : Nat) : Reg := ⟨0x0C, n, 0x1200 + c⟩
/-- `FIN_TWIN` of a context. -/
def Reg.finTwin (c : Nat) : Reg := ⟨0x0E, 0, 0x1000 + c⟩
/-- `FIN_TWIN_STEP` of a context. -/
def Reg.finTwinStep (c : Nat) : Reg := ⟨0x0E, 0, 0x1010 + c⟩
/-- `FIN_ADOPT` of a context. -/
def Reg.finAdopt (c : Nat) : Reg := ⟨0x0E, 0, 0x1020 + c⟩
/-- `FIN_GNORM` of a context. -/
def Reg.finGnorm (c : Nat) : Reg := ⟨0x0E, 0, 0x1030 + c⟩
/-- Word k of the graph identity. -/
def Reg.ident (c k : Nat) : Reg := ⟨0x10, c, 0x1000 + k⟩

/-- The page of a PF0 BAR0 offset: block and instance (R454). -/
def pf0Page (o : Nat) : Option (Nat × Nat) :=
  let p := o / 0x1000
  if p = 0 then some (0x17, 0) else if p = 1 then some (0x11, 0) else if p = 2 then some (0x12, 0)
  else if p = 3 then some (0x13, 0) else if p = 4 then some (0x14, 0) else if p = 5 then some (0x15, 0)
  else if p = 6 then some (0x16, 0) else if p = 7 then some (0x0F, 0) else if p = 8 then some (0x0D, 0)
  else if p < 0xB then some (0x0E, p - 9) else if p < 0xD then some (0x0A, p - 0xB) else if p < 0xF then some (0x0B, p - 0xD + 16)
  else if p < 0x10 then none
  else if p < 0x20 then some (0x0B, p - 0x10) else if p < 0x30 then some (0x07, p - 0x20)
  else if p < 0x70 then some (0x07, p - 0x30 + 16) else if p < 0x80 then some (0x10, p - 0x70)
  else if p < 0x90 then some (0x08, p - 0x80) else if p < 0xA0 then some (0x09, p - 0x90)
  else if p < 0xC0 then some (0x0C, p - 0xA0)
  else if 0x100 ≤ p ∧ p < 0x300 ∧ p % 16 < 6 then some (p % 16 + 1, (p - 0x100) / 16)
  else none

/-- The page of a virtual function's BAR0 offset (R455). `own` tells which slots its context owns. -/
def vfPage (fn : Nat) (own : Nat → Bool) (o : Nat) : Option (Nat × Nat) :=
  let p := o / 0x1000
  if p = 0 then some (0x17, fn) else if p = 1 then some (0x11, fn) else if p = 2 then some (0x07, fn)
  else if p = 3 then some (0x10, fn) else if p = 4 then some (0x08, fn) else if p = 5 then some (0x09, fn)
  else if p = 6 then some (0x0B, fn)
  else if 64 ≤ p ∧ p < 128 ∧ own (p - 64) then some (0x07, p - 64 + 16)
  else none

/-- Is the page served by the Harbour controller (R454)? -/
def pageHarbour (blk : Nat) : Bool := [0x17, 0x11, 0x12, 0x13, 0x14, 0x15, 0x16, 0x07, 0x10].contains blk
/-- Has the page transactional registers (R454)? -/
def pageTxn (blk : Nat) : Bool := !([0x11, 0x12, 0x13, 0x15, 0x16].contains blk)

/-- Does a function reach the page of a register (R443, R454, R455)? -/
def mayReach (fn : Nat) (own : Nat → Bool) (r : Reg) : Bool :=
  fn = 0 || (([0x17, 0x11, 0x10, 0x08, 0x09].contains r.blk && r.inst = fn) || (r.blk = 0x0B && r.inst = fn)
    || (r.blk = 0x07 && (r.inst = fn || (16 ≤ r.inst && own (r.inst - 16)))))

/-- Is the register one of those R450 exempts from transactions? -/
def Reg.exempt (r : Reg) : Bool :=
  decide (r.ofs < 0x100) || !pageTxn r.blk || (r.blk = 0x17 && (r.ofs = 0x1000 || r.ofs = 0x1001)) || (r.blk = 0x0A && r.ofs = 0x1A0)
    || (r.blk = 0x14 && r.ofs = 0x130) || (r.blk = 0x07 && 16 ≤ r.inst && r.ofs = 0x118)

/-- Has the register a writable field that a transaction stages (R450, R451: writes to RO registers are not counted)? -/
def Reg.writable (r : Reg) : Bool :=
  match r.blk with
  | 0x17 => (0x100 ≤ r.ofs && r.ofs < 0x120 && r.inst = 0)
  | 0x07 => if r.inst < 16 then [0x100, 0x110, 0x128, 0x130, 0x138, 0x140].contains r.ofs else [0x100, 0x108, 0x110].contains r.ofs
  | 0x14 => r.ofs = 0x100 || r.ofs = 0x110
  | 0x0F => r.ofs = 0x100
  | 0x0A => 0x100 ≤ r.ofs && r.ofs < 0x180
  | 0x09 => (0x1000 ≤ r.ofs && r.ofs < 0x1013)
  | 0x08 => r.ofs = 0x1000
  | 0x0B => if r.inst < 16 then (r.ofs = 0x1000 || r.ofs = 0x1001 || 0x100000 ≤ r.ofs) else 0x1010 ≤ r.ofs
  | 0x0C => r.ofs = 0x1000 || r.ofs = 0x1002 || r.ofs = 0x1003 || r.ofs = 0x1004 || 0x1100 ≤ r.ofs
  | 0x0E => (0x1000 ≤ r.ofs && r.ofs < 0x1010) || (0x1020 ≤ r.ofs && r.ofs < 0x1030)
  | 0x10 => 0x1000 ≤ r.ofs && r.ofs < 0x1008
  | _ => false

end Sys2Proof.Machine
end

