-- ==== Sys2Proof/Machine/Harbour.lean ====
section
/-! DEFINITION. Plain data of the host interface, bring-up, power, the edge pins, wear and security (spec/16 to 19). -/
namespace Sys2Proof.Machine

/-- A staged register write (R449): the register, its value, and which 32-bit halves were written (R446). -/
structure Staged where
  reg : Reg
  val : BitVec 64
  lo : Bool
  hi : Bool
  deriving DecidableEq, Repr

/-- A tensor command (R292, R294): create 0, modify 1, destroy 2, of a context, with the record's RW fields; `pos` is its place
among the writes staged in its transaction. -/
structure TCmd where
  kind : Nat
  ctx : Nat
  record : BitVec 1024
  pos : Nat := 0
  deriving DecidableEq, Repr

/-- A function's transaction (R449, R451): state 0 idle, 1 open, 2 commit pending; result; the first refused write;
the frame of the tick that applied or refused it; the shadow view; a 257th write was refused; the tensor
commands staged in it, and those made outside one, each a transaction of its own (log 59). -/
structure Txn where
  st : BitVec 2 := 0
  result : BitVec 6 := 0
  errBlock : BitVec 6 := 0
  errIndex : BitVec 8 := 0
  count : Nat := 0
  cframe : BitVec 32 := 0
  shadow : Bool := false
  full : Bool := false
  staged : List Staged := []
  cmds : List TCmd := []
  lone : List TCmd := []
  deriving DecidableEq, Repr

/-- A BAR2 access that waits for a far page (R304): function, offset, length of a read, bytes of a write. -/
structure Held where
  fn : Nat
  ofs : Nat
  len : Nat
  data : Option (List Byte) := none
  deriving DecidableEq, Repr

/-- The host interface (R441 to R456). -/
structure HostIf where
  link : Bool := false
  training : Bool := false
  d3 : List Nat := []
  txn : Vector Txn 16 := Vector.replicate 16 {}
  apt : Tbl (BitVec 64) := []
  aptIdx : Vector (BitVec 64) 16 := Vector.replicate 16 0
  drops : Vector (BitVec 64) 16 := Vector.replicate 16 0
  errSum : Tbl (BitVec 64) := []
  msix : List (Nat × Nat) := []
  slotOwn : Vector (BitVec 4) 64 := Vector.replicate 64 0
  held : List Held := []
  deriving DecidableEq, Repr

/-- Saved training data of a unit (R435): stack 0 to 11, or 16 + 8 × port + lane; the hours of operation and the die's junction temperature at
capture; whether it has been refused since. -/
structure Train where
  unit : Nat
  hour : Nat
  temp : Nat
  ok : Bool := true
  deriving DecidableEq, Repr

/-- Bring-up (R426 to R440): status fields of `BRU_STATUS`, the reports, whether stages are running, requests deferred
to S8, ignored requests counted, and the saved training data (R435). -/
structure Bring where
  stage : BitVec 8 := 0
  path : BitVec 4 := 0
  ready : Bool := false
  fatal : Bool := false
  boot : BitVec 32 := 0
  reports : List (BitVec 512) := []
  running : Bool := false
  part : Nat := 0
  deferred : Bool := false
  ignored : BitVec 64 := 0
  saved : List Train := []
  deriving DecidableEq, Repr

/-- Power and throttling (R475 to R488). `st` is the code of `PWR_STATE.STATE`; `target` a transition in progress;
`resume` the ticks left before dispatch resumes after Slack; `floorLeft` the
window ends until the floor of R476 is lifted; `waiting` a request held during a reset (R487). -/
structure Pwr where
  st : BitVec 4 := 5
  cause : BitVec 4 := 0
  np : Nat := 0
  nt : Nat := 0
  floorLeft : Nat := 0
  skipN : Nat := 0
  cap : BitVec 16 := 0x0ED8
  tcap : BitVec 8 := 0x64
  vin : BitVec 16 := 0
  pin : BitVec 16 := 0
  peak : BitVec 16 := 0
  tja : BitVec 8 := 0
  tjb : BitVec 8 := 0
  tin : BitVec 8 := 0
  tout : BitVec 8 := 0
  skips : BitVec 64 := 0
  event : BitVec 64 := 0
  target : Option Nat := none
  resume : Nat := 0
  waiting : Option Nat := none
  rails : Bool := false
  tripped : Bool := false
  deriving DecidableEq, Repr

/-- The module edge (R477, R478, R490). -/
structure Pins where
  vin : Bool := false
  pwrEn : Bool := false
  pwrGood : Bool := false
  perst : Bool := true
  alertLow : Bool := false
  tripLow : Bool := false
  presentLow : Bool := true
  trayId : BitVec 4 := 0xF
  handshake : Bool := false
  deriving DecidableEq, Repr

/-- The `WER` page (R459, R489): selection, and per unit (class × 4,096 + index) drift, hours, remaining life and band. -/
structure Wer where
  sel : BitVec 64 := 0
  drift : Tbl (BitVec 32) := []
  hours : BitVec 32 := 0
  mid : Tbl (BitVec 32) := []
  low : Tbl (BitVec 32) := []
  high : Tbl (BitVec 32) := []
  events : BitVec 64 := 0
  deriving DecidableEq, Repr

/-- A receipt key of the key store (R460, R468 to R471). -/
structure RKey where
  st : BitVec 3 := 0
  job : BitVec 24 := 0
  seq : BitVec 16 := 0
  leaf : Nat := 0
  since : Nat := 0
  certified : Bool := false
  cert : List Byte := []
  ident : Nat := 0
  deriving DecidableEq, Repr

/-- What a signature in the queue of R467 is for: a context's receipt, a receipt-key certificate, an attestation
response on a transport. -/
inductive SigFor where
  | receipt (ctx step : Nat)
  | cert (entry : Nat)
  | meas (transport : Nat)
  deriving DecidableEq, Repr

/-- A signature wanted (R465 to R467): the message, and the leaf once its advance is confirmed. -/
structure SigReq where
  what : SigFor
  tick : Nat
  msg : List Byte
  leaf : Option Nat := none
  key : Nat := 0
  deriving DecidableEq, Repr

/-- The Harbour security root (R460 to R474). `idLeaf` is the identity key's counter, `otp` its burnt OTP bits. -/
structure Sec where
  meas : Vector (BitVec 512) 8 := Vector.replicate 8 0
  log : List (Nat × List (BitVec 512) × Nat × Nat) := []
  idLeaf : Nat := 0
  otp : Nat := 0
  otpSvn : BitVec 8 := 0
  rk : Vector RKey 32 := Vector.replicate 32 {}
  keys : Nat := 0
  mbox : Tbl Byte := []
  mboxLen : BitVec 14 := 0
  mboxSt : BitVec 2 := 0
  rlen : BitVec 14 := 0
  mboxOfs : BitVec 64 := 0
  rkSel : BitVec 64 := 0
  tokens : Nat := 64
  queue : List SigReq := []
  busy : List Nat := []
  order : Nat := 0
  deriving DecidableEq, Repr

/-- What leaves the module beside packets: completions to the host, interrupts, answers of the management bus, ARP and
neighbour answers, pages and dumps handed out (log 2). -/
inductive Out where
  | read (fn : Nat) (data : BitVec 64)
  | bytes (fn : Nat) (data : List Byte)
  | unsupported (fn : Nat)
  | aborted (fn : Nat)
  | record (ctx : Nat) (rec : BitVec 1024)
  | msix (fn vec : Nat)
  | arp (sub ip mac : Nat)
  | neighbour (sub ip mac : Nat)
  | mgmt (data : List Byte)
  | doe (data : List Byte)
  | spill (ctx tid page : Nat) (data : List Byte)
  | hostWrite (addr : Nat) (data : List Byte)
  | adoptPull (ctx rank rctx step : Nat)
  deriving DecidableEq, Repr

end Sys2Proof.Machine
end

