-- ==== Sys2Proof/Syntax.lean ====
section
/-! DEFINITION. The commands of the module: one constructor per row of the opcode table, with the row's operands (what the
sender or the physical world supplies with the event). -/
namespace Sys2Proof

open Machine

/-- Where an uncorrectable or parity error hits (R130, R309): a 64-byte block of a context's memory, a word of a Panel SRAM line, a Skein
word, an entry of a queue, a store of a B half (data 0, scales 1, bobbles 2), an anchor record, or a piece in Tidepool. -/
inductive MemLoc where
  | hbm (ctx addr : Nat)
  | sram (panel line word : Nat)
  | skein (panel engine row col : Nat)
  | queue (panel engine q entry : Nat)
  | bHalf (panel engine half store : Nat)
  | anchor (panel engine row group : Nat)
  | tidepool (ctx redid chunk piece : Nat)
  deriving DecidableEq, Repr

/-- Which half of a register a write carries (R446). -/
inductive Half where
  | both
  | lo
  | hi
  deriving DecidableEq, Repr

/-- The domain a fault is charged to (R398, R399). -/
inductive FaultDom where
  | engine (panel engine : Nat)
  | panel (panel : Nat)
  | ctx (ctx : Nat)
  | part (part : Nat)
  | module
  deriving DecidableEq, Repr

/-- An error of an engine's hardware that shows in a known-answer run (R433): physical engine, format 0 to 2, byte of what it drains in the two
runs, the bits that differ. -/
structure Flaw where
  engine : Nat
  fmt : Nat
  byte : Nat
  flip : Byte
  deriving DecidableEq, Repr

/-- A read that reaches a queue tail (R123): the panel, and the single-bit errors corrected in what was read (R130). -/
structure ReadEvent where
  panel : Nat
  corrected : Nat := 0
  deriving DecidableEq, Repr

/-- What a reset's end finds (R399, R411, R434): whether the sequencer took its program, and the drained bytes of known-answer runs that
differ from the exact results. -/
structure ResetTests where
  passed : Bool
  flaws : List Flaw := []
  deriving DecidableEq, Repr

/-- One wear indicator's sample and the fit drawn from it (R489). -/
structure WearSample where
  cls : Nat
  index : Nat
  drift : BitVec 32
  mid : BitVec 32
  low : BitVec 32
  high : BitVec 32
  deriving DecidableEq, Repr

/-- What a bring-up stage found (R426 to R439): duration, failed units of partition A (or of the module) and of B, a
fatal result, units whose saved data was refused, measurements to extend (R464), spare lasers taken, errors that show in the known-answer run of S6. -/
structure StageFacts where
  time : Nat := 0
  failA : BitVec 384 := 0
  failB : BitVec 384 := 0
  fatal : Option Nat := none
  refused : List Nat := []
  digests : List (Nat × BitVec 512) := []
  lasA : Nat := 0
  lasB : Nat := 0
  flaws : List Flaw := []
  deriving DecidableEq, Repr

/-- The commands. -/
inductive Instr where
  /-- `TIDE_TICK` (R285): Every 4,096 arithmetic cycles the tick applies commits, retires the ended frame, decides whether to skip the new frame and dispatches ready work. -/
  | tideTick (watts : Nat)
  /-- `ROW_WORD_ISSUE` (R146): The Row Sequencer broadcasts one row word, and all of its fields act in the first cycle of the issue. -/
  | rowWordIssue (panel : Nat)
  /-- `OPERAND_READ_ARRIVAL` (R123): A Panel SRAM read or a cable read reaches its queue tail 6 or 8 cycles after issue. -/
  | operandReadArrival (read : ReadEvent)
  /-- `PRODUCT_VISIBLE` (R113): 18 cycles after the QA pop, the rounded contributions are added into the target Skein. -/
  | productVisible (panel : Nat)
  /-- `DRAIN_ENTRY_ARRIVAL` (R123): A drained entry reaches QD, QE or QN 4 cycles after the drain. -/
  | drainEntryArrival (panel : Nat)
  /-- `PRELOAD_VISIBLE` (R123): A preload becomes visible in the Skein 5 cycles after the QP pop. -/
  | preloadVisible (panel : Nat)
  /-- `NEIGHBOUR_ADD_VISIBLE` (R123): A neighbour add becomes visible 5 cycles after the QX pop. -/
  | neighbourAddVisible (panel : Nat)
  /-- `PARTIAL_SEND_ARRIVAL` (R167): A partial send reaches the neighbour's QX tail 3 cycles after issue. -/
  | partialSendArrival (panel : Nat)
  /-- `ELEMENT_RESULT_PUSH` (R123): An element-unit result is pushed to QF 10 or 20 cycles after the QE pop. -/
  | elementResultPush (panel : Nat)
  /-- `NORM_FINISH_SETTLE` (R167): 12 cycles after a finish, μ and ρ become readable. -/
  | normFinishSettle (panel : Nat)
  /-- `B_HALF_READY` (R111): A B half becomes ready two cycles after its 128th slice is written. -/
  | bHalfReady (panel : Nat)
  /-- `WRITE_TURNAROUND_END` (R129): Four cycles after a line write, its write tag is released and the line becomes readable. -/
  | writeTurnaroundEnd (panel : Nat)
  /-- `RESIDUE_CHECK` (R171): At cycle 31 of the boundary window the queues are checked empty, and any residue raises a fault. -/
  | residueCheck (panel : Nat)
  /-- `SHADOW_SWATCH` (R137): In cycles 32–127 of the boundary window, the spare compares state with the shadowed engine and loads the next engine's state; `upset`: a physical fault that no code detected made the two differ. -/
  | shadowSwatch (panel : Nat) (upset : Bool) (digX : BitVec 384) (digY : BitVec 384)
  /-- `CROSS_SWATCH` (R373): In the boundary window, each checking engine compares its state and stream digest with its primary engine; `upset`: a physical fault that no code detected made them differ. -/
  | crossSwatch (panel : Nat) (upset : Bool) (engine : Nat) (digX : BitVec 384) (digY : BitVec 384)
  /-- `ADMISSION_END` (R277): Admission finishes reading and checking the image, and the slot is rejected or proceeds to RUNNING. -/
  | admissionEnd (slot : Nat)
  /-- `UPDATE_PROGRAM_RUN` (R251): The Finishing unit runs the update program over each element of P once its inputs are ready. -/
  | updateProgramRun (slot : Nat) (task : Nat)
  /-- `GRADIENT_NORM_START` (R257): When every NORM_IN gradient is complete, the module issues the Swash MAX and SUM operations of the norm. -/
  | gradientNormStart (ctx : Nat)
  /-- `SEAL_VOTE_ISSUE` (R389): The SEAL task issues the vote once all checks are done, or at once with failure bits. -/
  | sealVoteIssue (ctx : Nat)
  /-- `STOP_NOTICE` (R390): A received stop notice for the current attempt stops dispatch and forces the vote with the notice's bits. -/
  | stopNotice (frame : Frame)
  /-- `SWASH_PACKET` (R368): A Swash packet is combined in the radix-16 tree, and the final result descends to every member. -/
  | swashPacket (frame : Frame)
  /-- `REPLAY_START` (R392): At the tick after the vote result, the replay resets tasks to pending, advances ATTEMPT and clears the chunk flags. -/
  | replayStart (slot : Nat)
  /-- `LEAF_ADVANCE_CONFIRMED` (R465): A flash journal write of c + 1 is confirmed, and the key signs with leaf c. -/
  | leafAdvanceConfirmed
  /-- `SIGNATURE_RELEASE` (R465): A finished XMSS signature is released and the receipt record is written to the ring. -/
  | signatureRelease
  /-- `RECEIPT_KEY_READY` (R468): Generation of a receipt key completes, and an identity leaf certifies it. -/
  | receiptKeyReady (entry : Nat)
  /-- `EPOCH_END` (R91): When every contribution of an epoch is rounded, climbing blocks rise by 16 and the reduction repeats if any block climbed. -/
  | epochEnd (slot : Nat) (task : Nat)
  /-- `ANCHOR_AGREEMENT_START` (R83): Once its local operand tags exist and the anchor GRANT has arrived, a member sends its anchor reports. -/
  | anchorAgreementStart (ctx : Nat) (redid : Nat) (chunk : Nat)
  /-- `SHARE_END_SEND` (R348): When its contributor tasks have drained a piece, a member sends SHARE_END with its packet count, digest and ledger. -/
  | shareEndSend (ctx : Nat) (redid : Nat) (chunk : Nat) (piece : Nat)
  /-- `PIECE_DRAIN` (R350): A complete piece passes its ledger checks and is drained into reference 0, and its area is freed. -/
  | pieceDrain (ctx : Nat) (redid : Nat) (chunk : Nat) (piece : Nat)
  /-- `COLL_TASK_COMPLETE` (R352): A REDUCE, GATHER or P2P task completes once its chunks are drained, arrived and acknowledged. -/
  | collTaskComplete (slot : Nat) (task : Nat)
  /-- `MOVE_COMPLETE` (R274): A MOVE finishes copying or converting its window, or retagging. -/
  | moveComplete (slot : Nat) (task : Nat)
  /-- `WINDOW_STAGE` (R300): The pager stages a segment's windows into reserved granules ahead of dispatch. -/
  | windowStage (panel : Nat) (slot : Nat) (task : Nat) (seg : Nat)
  /-- `WRITEBACK` (R302): After a segment ends, its output windows are written back to HBM before the grant is freed. -/
  | writeback (panel : Nat)
  /-- `PAGE_EVICT` (R306): When a context needs a frame, the spillable page with the farthest next use is sent to a lender or to the host. -/
  | pageEvict (ctx : Nat) (lender : Option Nat)
  /-- `PAGE_RECALL` (R305): A far page is recalled in order of next use, and its checksum is verified. -/
  | pageRecall (ctx : Nat)
  /-- `UNCORRECTABLE_ERROR` (R309): An uncorrectable memory error poisons the block, gives the reader status 0x03 and retires the frame. -/
  | uncorrectableError (loc : MemLoc)
  /-- `PATROL_SCRUB` (R309): The patrol scrub passes over all HBM frames every 24 h and retires frames above threshold. -/
  | patrolScrub (corrected : List (Nat × Nat)) (bad : List Nat)
  /-- `LS_DATA_RX` (R327): A DATA packet is checked, verified against its ledger, delivered once and placed by chunk and offset. -/
  | lsDataRx (frame : Frame)
  /-- `ACK_RX` (R328): An acknowledgement advances the stream, detects losses and adjusts the congestion rate. -/
  | ackRx (frame : Frame)
  /-- `JOIN_RX` (R332): A JOIN is answered with a JOIN_ACK that accepts version 2 or refuses. -/
  | joinRx (frame : Frame)
  /-- `JOIN_ACK_RX` (R332): A JOIN_ACK restarts the stream at 0, or marks the rank unreachable on refusal. -/
  | joinAckRx (frame : Frame)
  /-- `RESETTING_RX` (R330): RESETTING holds the stream and suspends its timers for the stated time. -/
  | resettingRx (frame : Frame)
  /-- `PROBE_RX` (R330): A PROBE updates the peer's in-service bitmap and is acknowledged. -/
  | probeRx (frame : Frame)
  /-- `RAISE` (R363): A RAISE chunk signal raises the named flag on the receiving member. -/
  | raise (frame : Frame)
  /-- `CLIMB` (R92): A CLIMB chunk signal raises the block's anchor once per epoch and clears the incomplete chunks. -/
  | climb (frame : Frame)
  /-- `SHARE_END` (R349): A SHARE_END is recorded at the home, and its digest and ledger are compared. -/
  | shareEnd (frame : Frame)
  /-- `GRANT` (R346): An anchor or piece GRANT lets a member send anchor reports or flush its outbound partials. -/
  | grant (frame : Frame)
  /-- `ANCHOR_REPORT` (R362): The home takes the exact maximum of the anchor or sounding reports and sends the agreed words. -/
  | anchorReport (frame : Frame)
  /-- `AGREED_ANCHOR` (R362): A member writes the agreed anchors into its anchor records and sets VALID. -/
  | agreedAnchor (frame : Frame)
  /-- `PAGE_DATA` (R307): A lender stores an evicted page, or an owner receives a recalled page. -/
  | pageData (frame : Frame)
  /-- `TWIN_DELTA` (R415): The twin writes a delta line into the shadow copy of a reserve tensor. -/
  | twinDelta (frame : Frame)
  /-- `TWIN_DELTA_CLOSE` (R415): The closing packet is checked against the delta ledger, and the twin flips and echoes, or discards and echoes poison. -/
  | twinDeltaClose (frame : Frame)
  /-- `TWIN_ECHO` (R415): The echo lets the source vote for the next step, or triggers a resend, with mirroring stopped after three failures. -/
  | twinEcho (frame : Frame)
  /-- `ARP_REQUEST` (R311): An ARP request for the sub-port's own address is answered. -/
  | arpRequest (sub : Nat) (ip : Nat)
  /-- `NEIGHBOUR_SOLICITATION` (R311): An IPv6 neighbour solicitation for the sub-port's own address is answered. -/
  | neighbourSolicitation (sub : Nat) (ip : Nat)
  /-- `PFC_PAUSE_FRAME` (R312): A received PFC pause frame is honoured when PFC_EN is 1. -/
  | pfcPauseFrame (port : Nat) (classes : BitVec 8)
  /-- `FOREIGN_FRAME_DROP` (R319): A received frame that is not Longshore, ARP, neighbour discovery or PFC is dropped and counted. -/
  | foreignFrameDrop (sub : Nat)
  /-- `RETRANSMIT_TIMER_EXPIRY` (R328): A retransmit timer expires, the packet is resent on another sub-port, and 16 expiries mark the rank unreachable. -/
  | retransmitTimerExpiry (ctx : Nat) (rank : Nat) (tc : Nat) (seq : Nat)
  /-- `ACK_DELAY_EXPIRY` (R327): 2 µs after the oldest unacknowledged arrival, an acknowledgement is sent. -/
  | ackDelayExpiry (ctx : Nat) (rank : Nat) (tc : Nat)
  /-- `JOIN_RETRY` (R332): Each 1 ms without a JOIN_ACK the JOIN repeats, and after 100 tries the rank is unreachable. -/
  | joinRetry (ctx : Nat) (rank : Nat)
  /-- `PROBE_TIMER` (R330): During a hold, after the stated time, a PROBE is sent every 1 ms. -/
  | probeTimer (ctx : Nat) (rank : Nat)
  /-- `HOLD_EXPIRY` (R330): A hold that lasts the stated time plus 1 s makes the rank unreachable. -/
  | holdExpiry (ctx : Nat) (rank : Nat)
  /-- `NO_SERVICE_TIMEOUT` (R316): With no sub-port in service for 1 s, every stream is treated as held by a reset. -/
  | noServiceTimeout
  /-- `CONGESTION_DECAY` (R331): Each 4 µs without ECE, α decays by 15/16. -/
  | congestionDecay (ctx : Nat) (rank : Nat) (tc : Nat)
  /-- `CONGESTION_INCREASE` (R331): Each 8 µs without ECE, the rate increases by 1/256 of capacity. -/
  | congestionIncrease (ctx : Nat) (rank : Nat) (tc : Nat)
  /-- `LANE_SIGNAL_LOSS` (R315): Loss of signal or lock on a lane starts a live retrain of its sub-port. -/
  | laneSignalLoss (port : Nat) (lane : Nat)
  /-- `FEC_ERROR_BURST` (R315): More than 16 uncorrectable codewords in 1 ms start a live retrain. -/
  | fecErrorBurst (port : Nat) (sub : Nat)
  /-- `LASER_FAILURE` (R318): A failed laser is replaced by a spare during the live retrain, if a spare remains. -/
  | laserFailure (port : Nat) (lane : Nat)
  /-- `LASER_WEAR` (R318): A laser reaching its wear threshold is replaced by a spare through a live retrain. -/
  | laserWear (port : Nat) (lane : Nat)
  /-- `RETRAIN_END` (R315): Within 200 ms a retraining sub-port becomes UP, DEGRADED or EXCLUDED. -/
  | retrainEnd (port : Nat) (sub : Nat) (good : BitVec 8)
  /-- `EXCLUDED_RETRY` (R314): Every 10 s an EXCLUDED sub-port is retried by a live retrain. -/
  | excludedRetry (port : Nat) (sub : Nat)
  /-- `RETRAIN` (R312): A write of RETRAIN requests a live retrain of the whole port. -/
  | retrain (fn : Nat) (port : Nat)
  /-- `THROTTLE_WINDOW` (R482): At the first tick of each 256-frame window, the power and thermal counts and the skip count are updated. -/
  | throttleWindow (watts : Nat) (tempA : Nat) (tempB : Nat)
  /-- `HEARTBEAT` (R405): Harbour firmware advances ESC_HEARTBEAT every 1 ms. -/
  | heartbeat
  /-- `WEAR_SAMPLE` (R489): Each operating hour, the wear indicators are sampled and the remaining-life fit is updated. -/
  | wearSample (hours : Nat) (samples : List WearSample)
  /-- `TOKEN_REFILL` (R474): Every 225 s the attestation bucket gains one token, up to 64. -/
  | tokenRefill
  /-- `WRACKLINE_FLASH_COPY` (R419): Each Wrackline entry is copied to flash within 1 ms of being written. -/
  | wracklineFlashCopy
  /-- `TXN_BEGIN` (R449): BEGIN opens the function's transaction. -/
  | txnBegin (fn : Nat)
  /-- `TXN_COMMIT` (R449): COMMIT moves the open transaction to pending for the next tick. -/
  | txnCommit (fn : Nat)
  /-- `TXN_ROLLBACK` (R449): ROLLBACK discards the staged writes. -/
  | txnRollback (fn : Nat)
  /-- `REGISTER_WRITE` (R450): A write to a register with no row of its own is staged in an open transaction, or applied at once outside one. -/
  | registerWrite (fn : Nat) (sel : RegSel) (part : Half) (value : BitVec 64)
  /-- `BAD_REGISTER_ACCESS` (R446): An access of wrong size or alignment completes with UR or is dropped, and sets ACCESS. -/
  | badRegisterAccess (fn : Nat) (ofs : Nat) (isRead : Bool)
  /-- `ERR_CLEAR` (R447): Writing 1s to ERR_CLEAR clears the same bits of ERR_SUMMARY. -/
  | errClear (fn : Nat) (ofs : Nat) (value : BitVec 64)
  /-- `ESC_EVENT_CLEAR` (R408): A write-1-clear of ESC_EVENT clears event bits, and clearing DUMP releases the dump area. -/
  | escEventClear (fn : Nat) (value : BitVec 64)
  /-- `PWR_EVENT_CLEAR` (R488): A write-1-clear of PWR_EVENT clears event bits and releases ALERT# when none remains. -/
  | pwrEventClear (value : BitVec 64)
  /-- `APERTURE_DATA_ACCESS` (R444): An access to HST_APT_DATA reads or writes an aperture entry and may advance the index. -/
  | apertureDataAccess (fn : Nat) (write : Option (BitVec 64))
  /-- `ARM` (R276): A committed arm starts admission of a graph image in the slot, or sets BUSY. -/
  | arm (slot : Nat) (ctx : Nat) (irqEn : Bool)
  /-- `CANCEL` (R282): A committed cancel stops dispatch of a RUNNING slot and marks its unfinished tasks cancelled. -/
  | cancel (slot : Nat)
  /-- `CREATE` (R264): A committed CREATE makes a context LIVE after the version handshake, optionally reattaching orphans. -/
  | create (ctx : Nat) (offer : Nat) (reattach : Bool) (regen : BitVec 8)
  /-- `TEARDOWN` (R289): A committed TEARDOWN makes the context DYING, cancels its slots and refuses its new transfers. -/
  | teardown (ctx : Nat)
  /-- `TEARDOWN_DRAIN_COMPLETE` (R289): When outstanding writes reach zero, pages are freed, the generation advances and the context becomes FREE. -/
  | teardownDrainComplete (ctx : Nat)
  /-- `TEARDOWN_TIMEOUT` (R290): A DYING context not drained in 50 ms escalates to a partition reset. -/
  | teardownTimeout (ctx : Nat)
  /-- `TENSOR_CREATE` (R292): A create command makes a tensor record and assigns its placement, or is refused. -/
  | tensorCreate (ctx : Nat) (rec : BitVec 1024)
  /-- `TENSOR_MODIFY` (R294): A modify command changes the permitted fields of a tensor not in use. -/
  | tensorModify (ctx : Nat) (rec : BitVec 1024)
  /-- `TENSOR_DESTROY` (R294): A destroy command frees a tensor's pages once no write to them is outstanding. -/
  | tensorDestroy (ctx : Nat) (tid : Nat)
  /-- `TENSOR_READ` (R291): A read command returns a tensor record. -/
  | tensorRead (ctx : Nat) (tid : Nat)
  /-- `ORPHAN_DISCARD` (R424): A discard command drops the orphaned tensor tables of a context number. -/
  | orphanDiscard (ctx : Nat)
  /-- `BAR2_WRITE` (R444): A host write through a tensor aperture lands in the committed copy, or is dropped or aborted. -/
  | bar2Write (fn : Nat) (ofs : Nat) (data : List Byte)
  /-- `BAR2_READ` (R304): A host read through a tensor aperture is served after recalling far pages, or returns UR or 0. -/
  | bar2Read (fn : Nat) (ofs : Nat) (len : Nat)
  /-- `CONTEXT_RESET` (R399): Level 0x1 resets one context's slots, flags, Tidepool areas and streams and abandons its step. -/
  | contextReset (ctx : Nat)
  /-- `ENGINE_RESET` (R399): Level 0x2 resets one physical engine and re-tests it. -/
  | engineReset (panel : Nat) (engine : Nat)
  /-- `PANEL_RESET` (R399): Level 0x3 resets one panel and runs its known-answer test. -/
  | panelReset (panel : Nat)
  /-- `PARTITION_RESET` (R399): Level 0x4 resets one partition, keeps HBM in self-refresh and retrains its stacks and ports. -/
  | partitionReset (part : Nat)
  /-- `MODULE_FAST_PATH_RESET` (R399): Level 0x5 resets both partitions while Harbour firmware keeps running and HBM is retained. -/
  | moduleFastPathReset
  /-- `FULL_MODULE_RESET` (R407): Level 0x6 takes the link down, takes a dump and restarts bring-up at S0 with HBM lost. -/
  | fullModuleReset
  /-- `CRASH_DUMP_ONLY` (R420): Level 0x7 takes a crash dump without a reset. -/
  | crashDumpOnly
  /-- `DUMP_UNIT_TIMEOUT` (R421): A unit that does not answer within 100 µs is recorded unreachable, and collection continues. -/
  | dumpUnitTimeout
  /-- `HARDWARE_FAULT` (R398): A detected unit fault is charged to its smallest domain and starts the matching reset, or is queued or subsumed. -/
  | hardwareFault (dom : FaultDom)
  /-- `RESET_COMPLETE` (R399): A reset reaches its end condition, and queued faults and a REPLAY vote follow. -/
  | resetComplete (tests : ResetTests) (elapsed : Nat)
  /-- `RESET_BOUND_EXPIRY` (R401): A reset exceeding its bound escalates one level, or sets HOSTNEED at level 0x5. -/
  | resetBoundExpiry
  /-- `FLR_PF0` (R443): A function-level reset of PF0 is a module fast-path reset. -/
  | flrPf0
  /-- `FLR_VF` (R443): A function-level reset of a virtual function is a context reset of its context. -/
  | flrVf (fn : Nat)
  /-- `PERST_ASSERT` (R407): Asserting PERST# starts a full module reset with the Headland dies held in reset. -/
  | perstAssert
  /-- `PERST_DEASSERT` (R427): Deasserting PERST# trains the link and lets bring-up proceed past S0. -/
  | perstDeassert
  /-- `PWR_EN_RISE` (R477): Raising PWR_EN starts inrush and stage S0, and PWR_GOOD follows once the input is qualified. -/
  | pwrEnRise
  /-- `POWER_DOWN_HANDSHAKE` (R478): Lowering PWR_EN stops dispatch, saves the log and dump to flash, lowers PWR_GOOD and removes the rails. -/
  | powerDownHandshake
  /-- `INPUT_EXCURSION` (R479): An input excursion drops the module into Dry at once and loses contexts. -/
  | inputExcursion
  /-- `THERMAL_TRIP` (R484): At 115 °C hardware asserts THERM_TRIP# and removes the rails, latched until a PWR_EN cycle. -/
  | thermalTrip
  /-- `INPUT_POWER_LOSS` (R423): Removal of input power without the handshake keeps only what survives a power cycle. -/
  | inputPowerLoss
  /-- `BRINGUP_STAGE_END` (R426): A bring-up stage completes, writes its report and the next stage starts, up to S8 and READY. -/
  | bringupStageEnd (facts : StageFacts)
  /-- `PWR_REQ_OPERATING` (R486): A request to return to operating, including exit from Neap or Dry. -/
  | pwrReqOperating
  /-- `SLACK_REQUEST` (R485): A request to enter Slack, in which every frame is skipped. -/
  | slackRequest
  /-- `NEAP_REQUEST` (R485): A request to enter Neap, refused unless no slot runs and no write is outstanding. -/
  | neapRequest
  /-- `DRY_REQUEST` (R485): A request to enter Dry, refused unless every context is FREE. -/
  | dryRequest
  /-- `POWER_STATE_TRANSITION_DONE` (R485): A power-state entry or exit completes and STATEDONE is set. -/
  | powerStateTransitionDone
  /-- `MAILBOX_GO` (R472): GO submits the mailbox buffer as an attestation request. -/
  | mailboxGo (len : Nat)
  /-- `MAILBOX_ABORT` (R472): ABORT discards the mailbox request or response. -/
  | mailboxAbort
  /-- `MAILBOX_DATA_ACCESS` (R472): An access to SEC_MBOX_DATA reads or writes 8 buffer bytes and may advance the offset. -/
  | mailboxDataAccess (write : Option (BitVec 64))
  /-- `GET_VERSION` (R472): GET_VERSION returns the attestation versions spoken. -/
  | getVersion (transport : Nat)
  /-- `GET_CERT` (R472): GET_CERT returns the identity certificate or a receipt-key certificate. -/
  | getCert (transport : Nat) (kind : Nat) (job : Nat) (seq : Nat)
  /-- `GET_MEASUREMENTS` (R474): GET_MEASUREMENTS returns the nonce, registers and log signed by the identity key, subject to the token bucket and leaf reserve. -/
  | getMeasurements (transport : Nat) (nonce : List Byte)
  /-- `GET_LEAVES` (R472): GET_LEAVES returns the identity and receipt leaf counts. -/
  | getLeaves (transport : Nat)
  /-- `RECEIPT_KEY_ERASE` (R469): SEC_RK_CMD erases a key-store entry unless a LIVE context uses its job. -/
  | receiptKeyErase
  /-- `AD_GO` (R416): AD_GO starts pulling the committed shards of a failed rank from its twin. -/
  | adGo (ctx : Nat)
  /-- `PLDM_SENSOR_REQUEST` (R490): An MCTP or PLDM request over the management bus is answered with sensor data. -/
  | pldmSensorRequest (sensor : Nat)
  /-- `INPUT_POWER_APPLIED` (R477): 64 V arrives at the edge and the module enters standby, with only the management bus answering. -/
  | inputPowerApplied (mv : Nat)
  /-- `INPUT_QUALIFIED` (R477): Within 50 ms of PWR_EN rising the input is qualified and PWR_GOOD is raised, or S0 ends with result 0x82. -/
  | inputQualified (mv : Nat)
  /-- `POWER_DOWN_HANDSHAKE_END` (R478): The flash copy of the handshake finishes, PWR_GOOD is lowered and every internal rail is removed, and a pending PWR_EN rise then starts power-up. -/
  | powerDownHandshakeEnd
  /-- `INTERNAL_LINK_RELEASE` (R407): 10 ms after an ESC_REQ level 0x6 took the link down, the module releases the link as a PERST# deassertion would. -/
  | internalLinkRelease
  /-- `PCIE_LINK_TRAINED` (R427): Link training completes within 20 ms of deassertion or internal release, and the link comes up. -/
  | pcieLinkTrained
  /-- `CRASH_DUMP_COMPLETE` (R421): Collection over the scan ring finishes, the dump is held and ESC_EVENT.DUMP is set. -/
  | crashDumpComplete
  /-- `DOE_DISCOVERY` (R442): A DOE Discovery request on PF0's mailbox is answered with the supported data object types. -/
  | doeDiscovery (index : Nat)
  /-- `D_STATE_CHANGE` (R441): A configuration write moves a function between D0 and D3hot; in D3hot the function answers only configuration requests. -/
  | dStateChange (fn : Nat) (d3hot : Bool)
  /-- `ADOPTION_PULL_REQUEST` (R416): The twin receives the spare's pull request and streams the committed copies of its reserve tensors at step S, or refuses. -/
  | adoptionPullRequest (rank : Nat) (ctx : Nat) (step : Nat)
  /-- `HOST_SPILL_REGION_UNREACHABLE` (R308): The context's host spill region becomes unreachable, and the owner marks every far page held there lost and poisoned. -/
  | hostSpillRegionUnreachable (ctx : Nat)
  deriving DecidableEq, Repr

end Sys2Proof
end

