-- ==== Sys2Proof/WellFormed.lean ====
section
/-! DEFINITION. Well-formed commands: every operand names a unit, a number or a field the module has. -/
namespace Sys2Proof

open Machine

/-- A received frame: a sub-port of the module, a payload of at most 8,192 bytes. -/
def Machine.Frame.wf (f : Frame) : Bool := f.sub < 256 && f.dstSub < 256 && f.vlan < 4096 && f.pcp < 8 && f.pkt.payload.length ≤ 8192

/-- A fault domain that exists. -/
def FaultDom.wf : FaultDom → Bool
  | .engine p e => p < 32 && e < 16
  | .panel p => p < 32
  | .ctx c => c < 16
  | .part q => q < 2
  | .module => true

/-- A memory location that exists. -/
def MemLoc.wf : MemLoc → Bool
  | .hbm c a => c < 16 && a < 2 ^ 40
  | .sram p l w => p < 32 && l < 384 * 512 && w < 16
  | .skein p e r c => p < 32 && e < 16 && r < 64 && c < 128
  | .queue p e q k => p < 32 && e < 16 && q < 8 && k < 16
  | .bHalf p e h k => p < 32 && e < 16 && h < 2 && k < 3
  | .anchor p e r g => p < 32 && e < 16 && r < 64 && g < 4
  | .tidepool c r k q => c < 16 && r < 2 ^ 20 && k < 2 ^ 20 && q < 2 ^ 16

/-- A register selection: an offset inside BAR0, or a register named by block and instance. -/
def Machine.RegSel.wf : RegSel → Bool
  | .addr o => o < 2 ^ 25 && o % 4 = 0
  | .name r => r.blk < 0x18 && 0 < r.blk

/-- Well-formed commands. -/
def Instr.wf : Instr → Bool
  | .tideTick watts => watts < 2 ^ 16
  | .rowWordIssue panel => panel < 32
  | .operandReadArrival read => read.panel < 32 && read.corrected < 2 ^ 32
  | .productVisible panel => panel < 32
  | .drainEntryArrival panel => panel < 32
  | .preloadVisible panel => panel < 32
  | .neighbourAddVisible panel => panel < 32
  | .partialSendArrival panel => panel < 32
  | .elementResultPush panel => panel < 32
  | .normFinishSettle panel => panel < 32
  | .bHalfReady panel => panel < 32
  | .writeTurnaroundEnd panel => panel < 32
  | .residueCheck panel => panel < 32
  | .shadowSwatch panel _ _ _ => panel < 32
  | .crossSwatch panel _ engine _ _ => panel < 32 && engine < 16
  | .admissionEnd slot => slot < 64
  | .updateProgramRun slot task => slot < 64 && task < 2 ^ 20
  | .gradientNormStart ctx => ctx < 16
  | .sealVoteIssue ctx => ctx < 16
  | .stopNotice frame => frame.wf
  | .swashPacket frame => frame.wf
  | .replayStart slot => slot < 64
  | .leafAdvanceConfirmed => true
  | .signatureRelease => true
  | .receiptKeyReady entry => entry < 32
  | .epochEnd slot task => slot < 64 && task < 2 ^ 20
  | .anchorAgreementStart ctx redid chunk => ctx < 16 && redid < 2 ^ 20 && chunk < 2 ^ 20
  | .shareEndSend ctx redid chunk piece => ctx < 16 && redid < 2 ^ 20 && chunk < 2 ^ 20 && piece < 2 ^ 16
  | .pieceDrain ctx redid chunk piece => ctx < 16 && redid < 2 ^ 20 && chunk < 2 ^ 20 && piece < 2 ^ 16
  | .collTaskComplete slot task => slot < 64 && task < 2 ^ 20
  | .moveComplete slot task => slot < 64 && task < 2 ^ 20
  | .windowStage panel slot task seg => panel < 32 && slot < 64 && task < 2 ^ 20 && seg < 2 ^ 32
  | .writeback panel => panel < 32
  | .pageEvict ctx lender => ctx < 16 && lender.all (fun k => k < 2 ^ 16)
  | .pageRecall ctx => ctx < 16
  | .uncorrectableError loc => loc.wf
  | .patrolScrub _ _ => true
  | .lsDataRx frame => frame.wf
  | .ackRx frame => frame.wf
  | .joinRx frame => frame.wf
  | .joinAckRx frame => frame.wf
  | .resettingRx frame => frame.wf
  | .probeRx frame => frame.wf
  | .raise frame => frame.wf
  | .climb frame => frame.wf
  | .shareEnd frame => frame.wf
  | .grant frame => frame.wf
  | .anchorReport frame => frame.wf
  | .agreedAnchor frame => frame.wf
  | .pageData frame => frame.wf
  | .twinDelta frame => frame.wf
  | .twinDeltaClose frame => frame.wf
  | .twinEcho frame => frame.wf
  | .arpRequest sub ip => sub < 256 && ip < 2 ^ 128
  | .neighbourSolicitation sub ip => sub < 256 && ip < 2 ^ 128
  | .pfcPauseFrame port _ => port < 32
  | .foreignFrameDrop sub => sub < 256
  | .retransmitTimerExpiry ctx rank tc seq => ctx < 16 && rank < 2 ^ 16 && tc < 7 && seq < 2 ^ 32
  | .ackDelayExpiry ctx rank tc => ctx < 16 && rank < 2 ^ 16 && tc < 7
  | .joinRetry ctx rank => ctx < 16 && rank < 2 ^ 16
  | .probeTimer ctx rank => ctx < 16 && rank < 2 ^ 16
  | .holdExpiry ctx rank => ctx < 16 && rank < 2 ^ 16
  | .noServiceTimeout => true
  | .congestionDecay ctx rank tc => ctx < 16 && rank < 2 ^ 16 && tc < 7
  | .congestionIncrease ctx rank tc => ctx < 16 && rank < 2 ^ 16 && tc < 7
  | .laneSignalLoss port lane => port < 32 && lane < 8
  | .fecErrorBurst port sub => port < 32 && sub < 8
  | .laserFailure port lane => port < 32 && lane < 8
  | .laserWear port lane => port < 32 && lane < 8
  | .retrainEnd port sub _ => port < 32 && sub < 8
  | .excludedRetry port sub => port < 32 && sub < 8
  | .retrain fn port => fn < 16 && port < 32
  | .throttleWindow watts tempA tempB => watts < 2 ^ 16 && tempA < 256 && tempB < 256
  | .heartbeat => true
  | .wearSample hours samples => hours < 2 ^ 32 && samples.all (fun w => w.cls < 3)
  | .tokenRefill => true
  | .wracklineFlashCopy => true
  | .txnBegin fn => fn < 16
  | .txnCommit fn => fn < 16
  | .txnRollback fn => fn < 16
  | .registerWrite fn sel _ _ => fn < 16 && sel.wf
  | .badRegisterAccess fn ofs _ => fn < 16 && ofs < 2 ^ 40
  | .errClear fn ofs _ => fn < 16 && ofs < 2 ^ 40
  | .escEventClear fn _ => fn < 16
  | .pwrEventClear _ => true
  | .apertureDataAccess fn _ => fn < 16
  | .arm slot ctx _ => slot < 64 && ctx < 16
  | .cancel slot => slot < 64
  | .create ctx offer _ _ => ctx < 16 && offer < 16
  | .teardown ctx => ctx < 16
  | .teardownDrainComplete ctx => ctx < 16
  | .teardownTimeout ctx => ctx < 16
  | .tensorCreate ctx _ => ctx < 16
  | .tensorModify ctx _ => ctx < 16
  | .tensorDestroy ctx tid => ctx < 16 && tid < 2 ^ 32
  | .tensorRead ctx tid => ctx < 16 && tid < 2 ^ 32
  | .orphanDiscard ctx => ctx < 16
  | .bar2Write fn ofs data => fn < 16 && ofs < 2 ^ 40 && data.length ≤ 512
  | .bar2Read fn ofs len => fn < 16 && ofs < 2 ^ 40 && len ≤ 4096
  | .contextReset ctx => ctx < 16
  | .engineReset panel engine => panel < 32 && engine < 16
  | .panelReset panel => panel < 32
  | .partitionReset part => part < 2
  | .moduleFastPathReset => true
  | .fullModuleReset => true
  | .crashDumpOnly => true
  | .dumpUnitTimeout => true
  | .hardwareFault dom => dom.wf
  | .resetComplete _ elapsed => elapsed < 2 ^ 32
  | .resetBoundExpiry => true
  | .flrPf0 => true
  | .flrVf fn => fn < 16
  | .perstAssert => true
  | .perstDeassert => true
  | .pwrEnRise => true
  | .powerDownHandshake => true
  | .inputExcursion => true
  | .thermalTrip => true
  | .inputPowerLoss => true
  | .bringupStageEnd facts => facts.digests.all (fun d => d.1 < 5)
  | .pwrReqOperating => true
  | .slackRequest => true
  | .neapRequest => true
  | .dryRequest => true
  | .powerStateTransitionDone => true
  | .mailboxGo len => len < 2 ^ 14
  | .mailboxAbort => true
  | .mailboxDataAccess _ => true
  | .getVersion transport => transport < 3
  | .getCert transport kind job seq => transport < 3 && kind < 256 && job < 2 ^ 24 && seq < 2 ^ 32
  | .getMeasurements transport nonce => transport < 3 && nonce.length = 32
  | .getLeaves transport => transport < 3
  | .receiptKeyErase => true
  | .adGo ctx => ctx < 16
  | .pldmSensorRequest sensor => sensor < 256
  | .inputPowerApplied mv => mv < 2 ^ 17
  | .inputQualified mv => mv < 2 ^ 17
  | .powerDownHandshakeEnd => true
  | .internalLinkRelease => true
  | .pcieLinkTrained => true
  | .crashDumpComplete => true
  | .doeDiscovery index => index < 256
  | .dStateChange fn _ => fn < 16
  | .adoptionPullRequest rank ctx step => rank < 2 ^ 16 && ctx < 16 && step < 2 ^ 32
  | .hostSpillRegionUnreachable ctx => ctx < 16

end Sys2Proof
end

