-- ==== Sys2Proof/Machine/Shake.lean ====
section
/-! DEFINITION. SHAKE256 (FIPS 202), the hash of graph images, firmware and measurements (R277, R462, R464). -/
namespace Sys2Proof.Machine

/-- Round constants of Keccak-f[1600]. -/
def keccakRC : List Nat :=
  [0x0000000000000001, 0x0000000000008082, 0x800000000000808A, 0x8000000080008000, 0x000000000000808B, 0x0000000080000001,
   0x8000000080008081, 0x8000000000008009, 0x000000000000008A, 0x0000000000000088, 0x0000000080008009, 0x000000008000000A]
  ++ [0x000000008000808B, 0x800000000000008B, 0x8000000000008089, 0x8000000000008003, 0x8000000000008002, 0x8000000000000080,
   0x000000000000800A, 0x800000008000000A, 0x8000000080008081, 0x8000000000008080, 0x0000000080000001, 0x8000000080008008]

/-- Rotation of lane x + 5y. -/
def keccakRot : List Nat := [0, 1, 62, 28, 27, 36, 44, 6, 55, 20, 3, 10, 43, 25, 39, 41, 45, 15, 21, 8, 18, 2, 61, 56, 14]

/-- A 64-bit lane rotated left. -/
def rotl64 (x n : Nat) : Nat := (x * 2 ^ n) % 2 ^ 64 + x / 2 ^ (64 - n)

/-- One round. -/
def keccakRound (rc : Nat) (a : List Nat) : List Nat :=
  let at_ (l : List Nat) (x y : Nat) : Nat := nth 0 l (x % 5 + 5 * (y % 5))
  let c := (List.range 5).map fun x => (List.range 5).foldl (fun s y => Nat.xor s (at_ a x y)) 0
  let d := (List.range 5).map fun x => Nat.xor (nth 0 c ((x + 4) % 5)) (rotl64 (nth 0 c ((x + 1) % 5)) 1)
  let a := (List.range 25).map fun i => Nat.xor (nth 0 a i) (nth 0 d (i % 5))
  -- ρ and π: lane (x, y) goes to (y, 2x + 3y)
  let b := (List.range 25).map fun i =>
    let x' := i % 5
    let y' := i / 5
    -- the source lane (x, y) with y = x' and 2x + 3y = y'
    let x := (x' + 3 * y') % 5
    rotl64 (at_ a x x') (nth 0 keccakRot (x + 5 * x'))
  let e := (List.range 25).map fun i =>
    let x := i % 5
    let y := i / 5
    Nat.xor (at_ b x y) (Nat.land (2 ^ 64 - 1 - at_ b (x + 1) y) (at_ b (x + 2) y))
  match e with
  | z :: t => Nat.xor z rc :: t
  | [] => []

/-- The permutation. -/
def keccakF (a : List Nat) : List Nat := keccakRC.foldl (fun a rc => keccakRound rc a) a

/-- Blocks of 136 bytes. Fuel bounds them. -/
def blocks136 : Nat → List Byte → List (List Byte)
  | 0, _ => []
  | f + 1, l => if l.isEmpty then [] else l.take 136 :: blocks136 f (l.drop 136)

/-- SHAKE256 with n ≤ 136 bytes of output. -/
def shake256 (m : List Byte) (n : Nat) : List Byte :=
  let z := 136 - (m.length + 1) % 136
  let p := m ++ (if z % 136 = 0 then [0x9F] else [0x1F] ++ List.replicate (z - 1) 0 ++ [0x80])
  let s := (blocks136 (p.length / 136 + 1) p).foldl (fun a b =>
    keccakF ((List.range 25).map fun i => if i < 17 then Nat.xor (nth 0 a i) (ofLE ((b.drop (8 * i)).take 8)) else nth 0 a i))
    (List.replicate 25 0)
  (s.flatMap fun w => toLE 8 w).take n

end Sys2Proof.Machine
end

