-- ==== Sys2Proof/Machine/State.lean ====
section
/-! DEFINITION. The state of the module as plain data, its reset, and the reasons a step stops. -/
namespace Sys2Proof.Machine

/-- Why a step stops: the undefined cases of R176, for which the spec gives no value, flag or schedule. Each is safe: the
model stops where the module goes on without any guarantee. -/
inductive Fault where
  /-- Two write slots drive one bank's write port in one cycle. Raised by `rowWordIssue`. Safe. -/
  | writePortClash
  /-- A generator's stream leaves its tensor's extent, or reads undefined staged bytes. Raised by `rowWordIssue`. Safe. -/
  | extentLeft
  /-- A write outside a transaction to a page marked live. Raised by `registerWrite` and `retrain`. Safe. -/
  | liveWrite
  /-- A graph image is modified after its slot is armed. Raised by `bar2Write`. Safe. -/
  | imageModified
  /-- Software wrote a gauge tag that understates its block. Raised by `windowStage` and `tideTick`. Safe. -/
  | tagUnderstated
  deriving DecidableEq, Repr

/-- Why a step is refused. -/
inductive Refusal where
  /-- The command has no meaning in the model yet. Raised by no command of this model. Safe. -/
  | notModelled (mnemonic : String)
  deriving DecidableEq, Repr

/-- The module (INVENTORY.md, State). Units are grouped as the chapters group them. -/
structure State where
  frame : BitVec 64
  tickRun : Bool
  panels : Vector Panel 32
  ctxs : Vector Ctx 16
  slots : Vector Slot 64
  mem : Tbl Byte
  poison : List Nat
  fab : Fab
  tdp : Vector Tdp 2
  pager : Pager
  swt : Swt
  esc : Esc
  wrk : Wrk
  dump : Dump
  remap : Remap
  bru : Bring
  host : HostIf
  pwr : Pwr
  pins : Pins
  wer : Wer
  sec : Sec
  wire : List Frame
  out : List Out
  fresh : Nat
  pending : List Instr
  deriving DecidableEq, Repr

/-- A context before its first creation: FREE, with a generation drawn at loss of input power (R425, log 4). -/
def Ctx.cold (c : Nat) : Ctx := { gen := BitVec.ofNat 8 (Config.entropy c) }

/-- Tidepool quotas after a module reset: 16 slots for context 0, none for the others (R356). -/
def Tdp.cold : Tdp := {}

/-- The module at reset: seated, without input power (log 1). -/
def State.reset : State :=
  { frame := 0, tickRun := false
    panels := Vector.replicate 32 {}
    ctxs := Vector.ofFn fun i => Ctx.cold i.val
    slots := Vector.replicate 64 {}
    mem := [], poison := [], fab := {}
    tdp := Vector.replicate 2 Tdp.cold
    pager := {}, swt := {}, esc := {}, wrk := {}, dump := {}, remap := {}, bru := {}, host := {}, pwr := {}, pins := {}
    wer := {}, sec := {}, wire := [], out := [], fresh := 0, pending := [] }

end Sys2Proof.Machine
end

