-- ==== Sys2Proof/Machine/Ops.lean ====
section
/-! DEFINITION. Named operations over the units of State: access by number, the log, interrupts, memory with its poison
marks, chunk flags, tensors, physical numbers. -/
namespace Sys2Proof.Machine

/-! ### Access by number -/

/-- Context c. -/
def State.ctx (s : State) (c : Nat) : Ctx := (s.ctxs[c]?).getD {}
/-- Context c replaced. -/
def State.setCtx (s : State) (c : Nat) (x : Ctx) : State := { s with ctxs := s.ctxs.setIfInBounds c x }
/-- Slot n. -/
def State.slot (s : State) (n : Nat) : Slot := (s.slots[n]?).getD {}
/-- Slot n replaced. -/
def State.setSlot (s : State) (n : Nat) (x : Slot) : State := { s with slots := s.slots.setIfInBounds n x }
/-- Panel p. -/
def State.panel (s : State) (p : Nat) : Panel := (s.panels[p]?).getD {}
/-- Panel p replaced. -/
def State.setPanel (s : State) (p : Nat) (x : Panel) : State := { s with panels := s.panels.setIfInBounds p x }
/-- Port n. -/
def State.port (s : State) (n : Nat) : Port := (s.fab.ports[n]?).getD {}
/-- Port n replaced. -/
def State.setPort (s : State) (n : Nat) (x : Port) : State := { s with fab := { s.fab with ports := s.fab.ports.setIfInBounds n x } }
/-- The transaction of a function. -/
def State.txn (s : State) (f : Nat) : Txn := (s.host.txn[f]?).getD {}
/-- The transaction of a function replaced. -/
def State.setTxn (s : State) (f : Nat) (x : Txn) : State := { s with host := { s.host with txn := s.host.txn.setIfInBounds f x } }
/-- The free value of this step with index k, and the counter advanced (log 5). -/
def State.draw (s : State) : Nat × State := (Config.freeNat (s.fresh * 2 ^ 32), { s with fresh := s.fresh + 1 })
/-- A 64-bit event counter advanced; it saturates (R447 COUNTSAT). -/
def bump (x : BitVec 64) : BitVec 64 := if x = BitVec.allOnes 64 then x else x + 1
/-- Packets handed to the ports. -/
def State.sendFrames (s : State) (l : List Frame) : State := { s with wire := s.wire ++ l }
/-- An output of the module. -/
def State.emit (s : State) (o : Out) : State := { s with out := s.out ++ [o] }

/-! ### Interrupts and error summaries (R445, R447) -/

/-- An edge event raises a vector. -/
def State.fire (s : State) (fn vec : Nat) : State := s.emit (.msix fn vec)
/-- A level-held event raises its vector once until it is cleared (R445). -/
def State.hold (s : State) (fn vec : Nat) : State :=
  if s.host.msix.contains (fn, vec) then s else
  { s with host := { s.host with msix := s.host.msix ++ [(fn, vec)] }, out := s.out ++ [.msix fn vec] }
/-- The event of a vector is cleared. -/
def State.release (s : State) (fn vec : Nat) : State :=
  { s with host := { s.host with msix := s.host.msix.filter (· ≠ (fn, vec)) } }
/-- The key of a page in the `ERR_SUMMARY` table. -/
def pageKey (blk inst : Nat) : Nat := blk * 65536 + inst
/-- A bit of a page's `ERR_SUMMARY` set. -/
def State.err (s : State) (blk inst bit : Nat) : State :=
  let k := pageKey blk inst
  { s with host := { s.host with errSum := tset 0 s.host.errSum k (tget 0 s.host.errSum k ||| BitVec.ofNat 64 (2 ^ bit)) } }
/-- `ACCESS` of a page (R446). -/
def State.access (s : State) (blk inst : Nat) : State := s.err blk inst 4
/-- Bits of `ESC_EVENT` set, with their vectors (R408, R445). -/
def State.escSet (s : State) (bits : Nat) : State :=
  let s := { s with esc := { s.esc with event := s.esc.event ||| BitVec.ofNat 64 bits } }
  let s := s.hold 0 0
  (List.range 16).foldl (fun s n => if n ≠ 0 ∧ bitOf bits n then s.hold n 0 else s) s
/-- Bits of `PWR_EVENT` set: vector 3 and `ALERT#` (R488). -/
def State.pwrSet (s : State) (bits : Nat) : State :=
  let s := { s with pwr := { s.pwr with event := s.pwr.event ||| BitVec.ofNat 64 bits }, pins := { s.pins with alertLow := true } }
  s.hold 0 3

/-! ### The Wrackline log (R418, R494) -/

/-- What a log entry says besides its time, its sequence number and `OVERLAP`. -/
structure Ev where
  code : Nat
  sev : Nat
  ctx : Nat := 0
  unit : Nat := 0
  num : Nat := 0
  phys : Nat := 0
  data : Nat := 0
  deriving DecidableEq, Repr

/-- The entry's 512 bits (R418); `t` is the free value of its time. -/
def Ev.entry (e : Ev) (gen seq : Nat) (overlap : Bool) (t : Nat) : BitVec 512 :=
  BitVec.ofNat 512 (fld t 0 48 * 2 ^ 464 + fld t 48 30 % 1000000000 * 2 ^ 434 + fld t 78 1 * 2 ^ 433 + overlap.toNat * 2 ^ 432
    + seq % 2 ^ 32 * 2 ^ 400 + e.code % 65536 * 2 ^ 384 + e.sev % 16 * 2 ^ 380 + e.ctx % 16 * 2 ^ 376 + gen % 256 * 2 ^ 368
    + e.unit % 16 * 2 ^ 364 + e.num % 4096 * 2 ^ 352 + e.phys % 4096 * 2 ^ 340 + e.data % 2 ^ 320)

/-- An entry written to the ring at `SEQ` mod 32,768; severity 3 and above raises PF0's vector 1 (R445). -/
def State.log (s : State) (e : Ev) : State :=
  let x := e.entry (s.ctx e.ctx).gen.toNat s.wrk.seq.toNat (s.esc.active ≠ 0) (Config.freeNat (s.fresh * 2 ^ 32))
  let s := { s with wrk := { s.wrk with ring := tset 0 s.wrk.ring (s.wrk.seq.toNat % 32768) x, seq := s.wrk.seq + 1 }, fresh := s.fresh + 1 }
  if 3 ≤ e.sev then s.fire 0 1 else s

/-! ### Physical numbers (R413, R429) -/

/-- Physical panel of a logical panel. -/
def Remap.panel (r : Remap) (p : Nat) : Nat := match tget 0 r.panelOf p with | 0 => p / 16 * 17 + p % 16 | k + 1 => k
/-- Physical engine of a logical engine of a logical panel. -/
def Remap.eng (r : Remap) (p e : Nat) : Nat := match tget 0 r.engOf (r.panel p * 16 + e) with | 0 => r.panel p * 17 + e | k + 1 => k
/-- The unassigned spare engine of a logical panel, if it has one. -/
def Remap.spare (r : Remap) (p : Nat) : Option Nat :=
  let used := (List.range 16).map fun e => r.eng p e
  ((List.range 17).map fun k => r.panel p * 17 + k).find? fun x => !used.contains x && !r.fencedEng.contains x && !r.resetting.contains x
/-- The spare panel of a die, if it is unused (R139). -/
def Remap.sparePanel (r : Remap) (d : Nat) : Option Nat :=
  let used := (List.range 16).map fun k => r.panel (d * 16 + k)
  ((List.range 17).map fun k => d * 17 + k).find? fun x => !used.contains x && !r.fencedPan.contains x
/-- The logical engine that a physical engine carries on a logical panel. -/
def Remap.logical (r : Remap) (p x : Nat) : Option Nat := (List.range 16).find? fun e => r.eng p e = x
/-- The logical panel that a physical panel carries. -/
def Remap.panelNum (r : Remap) (q : Nat) : Option Nat := (List.range 32).find? fun p => r.panel p = q && !r.absent.contains p
/-- The logical number of a physical engine in the log, 16 × panel + engine; an engine that carries none stands under its panel's
engine 0 (R11, log 58). -/
def Remap.engNum (r : Remap) (x : Nat) : Nat :=
  match r.panelNum (x / 17) with
  | none => 0
  | some p => p * 16 + (r.logical p x).getD 0
/-- Is a logical panel present? -/
def Remap.present (r : Remap) (p : Nat) : Bool := !r.absent.contains p

/-! ### Memory with poison (R493) and page frames (R298) -/

/-- Is some 64-byte block of a byte range poisoned? -/
def State.poisoned (s : State) (key n : Nat) : Bool :=
  decide (0 < n) && s.poison.any fun b => decide (key / 64 ≤ b ∧ b ≤ (key + n - 1) / 64)
/-- The blocks wholly inside a byte range. -/
def blocksIn (key n : Nat) : List Nat :=
  let lo := cdiv key 64
  (List.range ((key + n) / 64 - lo)).map fun i => lo + i
/-- Marks of the blocks wholly covered by a write replaced (R493). -/
def State.mark (s : State) (key n : Nat) (bad : Bool) : State :=
  let lo := cdiv key 64
  let hi := (key + n) / 64
  let rest := s.poison.filter fun b => decide (b < lo ∨ hi ≤ b)
  { s with poison := if bad then (blocksIn key n).foldl sins rest else rest }
/-- Every block of a range poisoned. -/
def State.poisonRange (s : State) (key n : Nat) : State :=
  if n = 0 then s else
  { s with poison := (List.range ((key + n - 1) / 64 + 1 - key / 64)).foldl (fun l i => sins l (key / 64 + i)) s.poison }
/-- The page number of a byte key. -/
def pageOf (key : Nat) : Nat := key / 2 ^ 21
/-- Pages of a tensor, all copies: first page and count. -/
def TRec.pageRange (t : TRec) : Nat × Nat := (pageOf (memKey t.ctx t.place), t.allPages)
/-- The tensor that owns a page. -/
def State.pageTensor (s : State) (p : Nat) : Option TRec :=
  (s.ctx (p / 2 ^ 19)).tensors.find? fun t => decide (t.pageRange.1 ≤ p ∧ p < t.pageRange.1 + t.pageRange.2)
/-- The stack of page i of a tensor's copy where every stack has a free frame (R299). -/
def TRec.stackOf (t : TRec) (i : Nat) : Nat := if t.part = 0 then (t.tid % 12 + i) % 12 else 6 * (t.part - 1) + (t.tid % 6 + i) % 6
/-- The stacks a page may take, in the order of R299. -/
def State.stackSeq (s : State) (p : Nat) : List Nat :=
  match s.pageTensor p with
  | some t => let i := (p - t.pageRange.1) % max 1 t.pages; (List.range (if t.part = 0 then 12 else 6)).map fun j => t.stackOf (i + j)
  | none => List.range 12
/-- Allocatable frames of a stack: of 32,768, what the reserve of 512 pages per partition leaves, shared over its stacks (R297, log 61). -/
def stackFrames (k : Nat) : Nat := 32768 - (if k % 6 < 2 then 86 else 85)
/-- The stack that holds a page's frame, if it has one. -/
def State.frameOf (s : State) (p : Nat) : Option Nat := match tget 0 s.pager.frames p with | 0 => none | k + 1 => some k
/-- Frames of a stack in use. -/
def State.stackUsed (s : State) (k : Nat) : Nat := (s.pager.frames.filter fun x => x.2 = k + 1).length
/-- A page takes a frame of the first stack of its sequence that has one free (R298, R299). -/
def State.framePage (s : State) (p : Nat) : State :=
  if (s.frameOf p).isSome then s else
  let seq := s.stackSeq p
  let k := (seq.find? fun k => decide (s.stackUsed k < stackFrames k)).getD (nth 0 seq 0)
  { s with pager := { s.pager with frames := tset 0 s.pager.frames p (k + 1) } }
/-- A page that is written or staged has a frame; one that was far is back, since its contents are whole here (log 63). -/
def State.attachPage (s : State) (p : Nat) : State :=
  let t := s.framePage p
  { t with pager := { t.pager with far := t.pager.far.filter fun f => f.resident || !(f.ctx * 2 ^ 19 + f.page = p) } }
/-- A frame is attached to the pages of a range when they are first written or staged (R298). -/
def State.attach (s : State) (key n : Nat) : State :=
  if n = 0 then s else (List.range (pageOf (key + n - 1) + 1 - pageOf key)).foldl (fun s i => s.attachPage (pageOf key + i)) s
/-- The byte ranges of one row of a copy: its elements, scales or headers, tags, bobble slots and shadow (R295). -/
def TRec.rowRanges (t : TRec) (base row : Nat) : List (Nat × Nat) :=
  let k := t.key base
  let sb := t.rowScales * (if t.selv then 8 else 1)
  [(k + row * t.pitch, max 1 t.pitch)]
    ++ (if t.scaled ∨ t.selv then [(k + t.scaleOfs + row * sb, sb)] else [])
    ++ (if t.hasTags then [(k + t.tagOfs + row * t.rowBlocks, t.rowBlocks)] else [])
    ++ (if t.bobs = 0 then [] else [(k + t.bobOfs + row * t.rowBlocks * 2 * t.bobs, t.rowBlocks * 2 * t.bobs)])
    ++ (if t.shEn then [(t.shKey base row, t.shVec)] else [])
/-- Frames for every area of a row that is written (R298). -/
def State.attachRow (s : State) (t : TRec) (base row : Nat) : State := (t.rowRanges base row).foldl (fun s x => s.attach x.1 x.2) s
/-- Pages of a context with a frame. -/
def State.residentPages (s : State) (c : Nat) : List Nat := (s.pager.frames.map (·.1)).filter fun p => decide (p / 2 ^ 19 = c)
/-- Have the pages a write touches frames, or room for them within the context's HBM quota (R298)? -/
def State.roomFor (s : State) (c : Nat) (ps : List Nat) : Bool :=
  let new := (ps.eraseDups).filter fun p => (s.frameOf p).isNone
  new.isEmpty || decide ((s.residentPages c).length + new.length ≤ (s.ctx c).cfg.hbmQ.toNat)
/-- Bytes written to a context's memory, with poison and frames. -/
def State.store (s : State) (c a : Nat) (l : List Byte) (bad : Bool) : State :=
  ({ s with mem := wrBs s.mem (memKey c a) l }.mark (memKey c a) l.length bad).attach (memKey c a) l.length
/-- Bytes of a context's memory. -/
def State.load (s : State) (c a n : Nat) : List Byte := rdBs s.mem (memKey c a) n

/-! ### Tensors (R291) -/

/-- A tensor of a context. -/
def State.tensor (s : State) (c tid : Nat) : Option TRec := (s.ctx c).tensors.find? fun t => t.tid = tid
/-- A tensor's record replaced. -/
def Ctx.setTensor (x : Ctx) (t : TRec) : Ctx := { x with tensors := x.tensors.map fun u => if u.tid = t.tid then t else u }
/-! ### Slots and graphs -/

/-- Is the slot ADMITTING or RUNNING? -/
def Slot.busyNow (x : Slot) : Bool := x.st = .admitting || x.st = .running
/-- Numbers of the slots of a context that are ADMITTING or RUNNING. -/
def State.liveSlots (s : State) (c : Nat) : List Nat :=
  (List.range 64).filter fun n => (s.slot n).busyNow && decide ((s.slot n).ctx.toNat = c)
/-- Is a slot's task set used by a tensor (R294, R304)? -/
def Graph.names (g : Graph) (tid : Nat) : Bool :=
  g.tasks.any (fun d => (List.range 8).any fun r => TD.tref d r = tid) || g.progs.any fun p => PE.tid p = tid
/-- Is a tensor named by a graph of its context in ADMITTING or RUNNING? -/
def State.inUse (s : State) (c tid : Nat) : Bool := (s.liveSlots c).any fun n => (s.slot n).graph.names tid
/-- The chunk-flag range of a slot's graph: base and count. -/
def Slot.range (x : Slot) : Nat × Nat := (GH.flagBase x.graph.hdr, GH.flagCount x.graph.hdr)
/-- A chunk flag raised (R284): dropped and counted outside every owned range or off a LIVE context. -/
def State.raiseFlag (s : State) (c f : Nat) : State :=
  let x := s.ctx c
  if x.st = .live && (s.liveSlots c).any (fun n => let (b, k) := (s.slot n).range; (s.slot n).admitted && decide (b ≤ f ∧ f < b + k))
  then s.setCtx c { x with flags := sins x.flags f }
  else s.setCtx c { x with dropRaise := bump x.dropRaise }
/-- The flags of a range cleared. -/
def Ctx.clearFlags (x : Ctx) (r : Nat × Nat) : Ctx := { x with flags := x.flags.filter fun f => decide (f < r.1 ∨ r.1 + r.2 ≤ f) }
/-- State of a slot's task. -/
def Slot.task (x : Slot) (i : Nat) : TaskSt := nth {} x.tasks i
/-- State of a slot's task replaced. -/
def Slot.setTask (x : Slot) (i : Nat) (t : TaskSt) : Slot := { x with tasks := x.tasks.set i t }
/-- Descriptor of a slot's task. -/
def Slot.desc (x : Slot) (i : Nat) : Nat := nth 0 x.graph.tasks i
/-- A slot leaves ADMITTING or RUNNING: its state, its interrupt (R279, R457). -/
def State.leaveSlot (s : State) (n : Nat) (st : SlotSt) : State :=
  let x := s.slot n
  let s := s.setSlot n { x with st := st, leave := none }
  if x.busyNow ∧ x.irqEn then s.fire x.ctx.toNat (8 + n % 56) else s
/-- Pages of a context's tensors, with those of destroyed ones not yet free. -/
def Ctx.pages (x : Ctx) : Nat := sumN ((x.tensors ++ x.freeing).map (·.allPages))
/-- Pages of its tensors that may not be held far. -/
def Ctx.fixedPages (x : Ctx) : Nat := sumN (((x.tensors ++ x.freeing).filter fun t => !t.spill).map (·.allPages))
/-- Ranks in a context's job. -/
def Ctx.ranksN (x : Ctx) : Nat := gridSize x.cfg.grid
/-- A context that is LIVE. -/
def State.live (s : State) (c : Nat) : Bool := (s.ctx c).st = .live
/-- Some context is LIVE. -/
def State.anyLive (s : State) : Bool := s.ctxs.toList.any fun x => x.st = .live

end Sys2Proof.Machine
end

