-- ==== Sys2Proof/Machine/Flags.lean ====
section
/-! DEFINITION. Status computations: completion records, task flags, the status words of the register pages. -/
namespace Sys2Proof.Machine

/-- SAT, FMT and QE of references 0 to 7 in a task's `FLAGS`, three bits each (R280). -/
def flagBits (l : List Nat) : Nat := sumN ((List.range 8).map fun r => nth 0 l r % 8 * 2 ^ (3 * r))
/-- A segment's flags joined into a task's (R49, R280). -/
def joinFlags (f : BitVec 24) (l : List Nat) : BitVec 24 := f ||| BitVec.ofNat 24 (flagBits l)

/-- The 32-byte completion record (R280). -/
def TaskSt.record (t : TaskSt) (attempt gen : Nat) : Nat :=
  t.frame.toNat * 2 ^ 192 + t.fault.toNat * 2 ^ 128 + attempt % 256 * 2 ^ 120 + gen % 256 * 2 ^ 112
    + t.flags.toNat * 2 ^ 64 + t.status % 256 * 2 ^ 56 + t.segdone % 2 ^ 32

/-- `GRF_SLOT_STATE` (R457). -/
def Slot.stateWord (x : Slot) : BitVec 64 :=
  BitVec.ofNat 64 (x.st.code * 2 ^ 60 + x.busy.toNat * 2 ^ 59 + x.attempt.toNat * 2 ^ 56 + x.step.toNat * 2 ^ 24)
/-- `GRF_SLOT_ERR`. -/
def Slot.errWord (x : Slot) : BitVec 64 := BitVec.ofNat 64 (x.errCode.toNat * 2 ^ 56 + x.errTask.toNat * 2 ^ 36)
/-- `GRF_CTX_STATE`. -/
def Ctx.stateWord (x : Ctx) : BitVec 64 :=
  let st := match x.st with | .free => 0 | .live => 1 | .dying => 2
  BitVec.ofNat 64 (st * 2 ^ 62 + x.gen.toNat * 2 ^ 54 + x.answer.toNat * 2 ^ 50 + x.orphan.toNat * 2 ^ 49 + x.orphGen.toNat * 2 ^ 41)
/-- `TXN_STATUS` (R448). -/
def Txn.status (x : Txn) : BitVec 64 :=
  BitVec.ofNat 64 (x.st.toNat * 2 ^ 62 + x.result.toNat * 2 ^ 56 + x.errBlock.toNat * 2 ^ 50 + x.count % 512 * 2 ^ 41
    + x.errIndex.toNat * 2 ^ 33 + x.cframe.toNat)
/-- `BRU_STATUS` (R440). -/
def Bring.word (b : Bring) : BitVec 64 :=
  BitVec.ofNat 64 (b.stage.toNat * 2 ^ 56 + b.path.toNat * 2 ^ 52 + b.ready.toNat * 2 ^ 51 + b.fatal.toNat * 2 ^ 50
    + b.reports.length % 256 * 2 ^ 32 + b.boot.toNat)
/-- `PWR_STATE` (R488). -/
def Pwr.word (p : Pwr) : BitVec 64 := BitVec.ofNat 64 (p.st.toNat * 2 ^ 60 + p.cause.toNat * 2 ^ 56 + p.skipN % 256 * 2 ^ 48)
/-- `ESC_STATUS` with the number of queued faults (R408). -/
def Esc.word (e : Esc) : BitVec 64 :=
  BitVec.ofNat 64 (setFld (setFld e.status.toNat 60 4 e.active) 56 4 (min 15 e.queue.length))
/-- `SEC_RK_STATE` (spec/18). -/
def RKey.word (k : RKey) : BitVec 64 :=
  BitVec.ofNat 64 (k.st.toNat * 2 ^ 61 + k.job.toNat * 2 ^ 37 + k.seq.toNat * 2 ^ 21 + (65536 - k.leaf) % 2 ^ 17 * 2 ^ 4)

/-- `GRF_LS.OVF` (R236, R457): the local overflow flag of the attempt in progress; between attempts, of the last seal. -/
def State.ovfOf (s : State) (c : Nat) : Bool :=
  match (s.liveSlots c).find? fun n => (s.slot n).graph.training && (s.slot n).st = .running && (s.slot n).step = (s.ctx c).cfg.sealed + 1 with
  | some n => (s.slot n).att.ovf
  | none => (s.ctx c).cfg.ovf

end Sys2Proof.Machine
end

