-- ==== Sys2Proof/Machine/Slots.lean ====
section
/-! DEFINITION. The life of a graph in its slot: arm, admission, cancel, task completion, faults, failed attempts, abandoned
steps (spec/10 R275 to R290, spec/14 R386, R392). -/
namespace Sys2Proof.Machine

/-! ### Task completion -/

/-- The completion record of a task written to the completion area (R280). -/
def State.writeRecord (s : State) (n i : Nat) : State :=
  let x := s.slot n
  let c := x.ctx.toNat
  s.store c (x.cpl.toNat + 32 * i) (toLE 32 ((x.task i).record x.attempt.toNat (s.ctx c).gen.toNat)) false

/-- All records of a slot cleared (R280). -/
def State.clearRecords (s : State) (n : Nat) : State :=
  let x := s.slot n
  s.store x.ctx.toNat x.cpl.toNat (List.replicate (32 * x.graph.tasks.length) 0) false

/-- A task takes a completion status (R280): its record, the count of done tasks, and the progress counter for a task that takes
no panel and completes (R265; a cancelled task does not complete, R282, but SEAL does, R279). A task that has one stays as it is. -/
def State.finishTask (s : State) (n i status : Nat) (fault : BitVec 64 := 0) : State :=
  let x := s.slot n
  let t := x.task i
  if t.finished ∨ x.tasks.length ≤ i then s else
  let t := { t with status := status, finished := true, frame := s.frame, fault := fault }
  let x := { x.setTask i t with doneCnt := if status = 1 then x.doneCnt + 1 else x.doneCnt }
  let s := s.setSlot n x
  let c := x.ctx.toNat
  let s := if (TD.onPanels (x.desc i) ∧ TD.segments (x.desc i) ≠ 0) ∨ (status = 4 ∧ TD.typ (x.desc i) ≠ 7) then s else s.setCtx c { s.ctx c with progress := bump (s.ctx c).progress }
  s.writeRecord n i

/-- Every task of a slot that has not completed takes a status. -/
def State.finishAll (s : State) (n status : Nat) : State :=
  (List.range (s.slot n).tasks.length).foldl (fun s i => s.finishTask n i status) s

/-- Segments of a slot that still run on panels, whose windows are not written back yet (R281, R302), or whose residue check is due
(R171). -/
def State.runningSegs (s : State) (n : Nat) : Bool :=
  s.panels.toList.any fun p =>
    (p.seg.any fun g => g.slot = n) || (p.wbq.any fun d => d.seg.slot = n) || p.held.any fun h => h.done.seg.slot = n

/-- What a slot's tasks hold in the units is dropped: reductions, transfers, Swash operations, staged windows. -/
def State.dropWork (s : State) (n : Nat) : State :=
  { s with
    fab := { s.fab with reds := s.fab.reds.filter (·.slot ≠ n), p2p := s.fab.p2p.filter (·.slot ≠ n) }
    panels := s.panels.map fun p => { p with staged := p.staged.filter (·.slot ≠ n) } }

/-- A slot that must stop leaves RUNNING once no segment of it runs (R281, R282); what it held is released. -/
def State.settleSlot (s : State) (n : Nat) : State :=
  let x := s.slot n
  if x.st = .running ∧ x.stopped ∧ !s.runningSegs n then
    if x.cancelled then s.leaveSlot n .abandoned
    else if x.graph.training then s else (s.dropWork n).leaveSlot n .faulted
  else s

/-! ### Suspect records (R379) -/

/-- A physical engine marked for a fence at the next frame boundary (R377, R378), logged as permanent. -/
def State.fence (s : State) (x : Nat) : State :=
  if s.remap.fencedEng.contains x ∨ s.remap.atTick.contains x then s else
  ({ s with remap := { s.remap with atTick := sins s.remap.atTick x } }).log
    { code := 0x0404, sev := 2, unit := 3, num := s.remap.engNum x, phys := x }

/-- A transient counted against a physical engine; the limit within the window of operating hours fences it (R378). -/
def State.countTransient (s : State) (e : Nat) : State :=
  let now := s.wer.hours.toNat
  let l := (s.swt.transientAt.filter fun x => decide (now < x.2 + s.swt.trWin.toNat)) ++ [(e, now)]
  let s := { s with swt := { s.swt with transientAt := l, transient := bump s.swt.transient } }
  if s.swt.trLimit.toNat ≤ (l.filter fun x => x.1 = e).length then s.fence e else s

/-- Suspect records of a slot closed undecided: logged, one transient against each of X and Y (R379). -/
def State.closeSuspects (s : State) (n : Nat) : State :=
  let l := s.swt.suspects.filter (·.slot = n)
  let s := { s with swt := { s.swt with suspects := s.swt.suspects.filter (·.slot ≠ n) } }
  l.foldl (fun s r =>
    let s := { s with swt := { s.swt with undecided := bump s.swt.undecided } }
    ((s.log { code := 0x0405, sev := 1, ctx := (s.slot n).ctx.toNat, unit := 3, num := s.remap.engNum r.x
              phys := r.x, data := r.x + r.y * 4096 }).countTransient r.x).countTransient r.y) s

/-! ### Stopping, failing and abandoning -/

/-- The tasks of a slot are cancelled and the step of a training graph is abandoned on this module (R392, R402): log and `ABANDON`. -/
def State.dropStep (s : State) (n : Nat) : State :=
  let x := s.slot n
  let c := x.ctx.toNat
  let s := ((s.finishAll n 4).closeSuspects n).dropWork n
  if x.graph.training then ((s.setCtx c { s.ctx c with aband := sins (s.ctx c).aband x.step.toNat }).log
    { code := 0x0506, sev := 5, ctx := c, data := x.step.toNat }).escSet (2 ^ c) else s

/-- A step is abandoned and its slot enters ABANDONED at once. -/
def State.abandonStep (s : State) (n : Nat) : State := (s.dropStep n).leaveSlot n .abandoned

/-- An attempt is marked as failed and replayable (R374, R386, R403): the failure waits for the vote. `taintAll` marks every task
that has not completed with status 0x03. A graph without a SEAL task stops instead (R281). -/
def State.failMark (s : State) (n : Nat) (taintAll : Bool) : State :=
  let x := s.slot n
  if x.st ≠ .running then s else
  let s := s.setSlot n { x with att := { x.att with replayBit := true }, stopped := true }
  if taintAll then
    (List.range x.tasks.length).foldl (fun s i => if TD.typ (x.desc i) = 7 then s else s.finishTask n i 3) s
  else s

/-- A failed attempt; the slot settles at the tick, once nothing of it runs (R275, R281). -/
def State.failAttempt (s : State) (n : Nat) (taintAll : Bool) : State := s.failMark n taintAll

/-- A task that takes no panel has ended with a status: it completes when the frame retires (R285). -/
def State.endsWith (s : State) (n i status : Nat) : State :=
  let x := s.slot n
  let t := x.task i
  if t.finished ∨ t.ends.isSome ∨ x.tasks.length ≤ i then s else s.setSlot n (x.setTask i { t with ends := some status })

/-- A task takes status 0x02 and stops its slot (R281), which settles at the end of the tick's retirement: in a training graph the
vote carries STOP. -/
def State.stopFault (s : State) (n i : Nat) (rec : BitVec 64) : State :=
  let s := s.finishTask n i 2 rec
  let x := s.slot n
  s.setSlot n { x with stopped := true, att := { x.att with stopBit := true } }

/-- A cancel of a RUNNING slot (R282); a slot in another state is not touched. -/
def State.cancelSlot (s : State) (n : Nat) : State :=
  let x := s.slot n
  if x.st ≠ .running then s else
  let s := s.setSlot n { x with stopped := true, cancelled := true }
  let s := (s.finishAll n 4).dropWork n
  let c := x.ctx.toNat
  let s := if x.graph.training then (s.closeSuspects n).setCtx c { (s.closeSuspects n).ctx c with aband := sins (s.ctx c).aband x.step.toNat } else s
  s.settleSlot n

/-! ### Arm and admission -/

/-- The bytes from an address to `END_OFS` of the raw object that holds it (R296): none where no raw object of the context does. -/
def State.rawRoom (s : State) (c a : Nat) : Option Nat :=
  ((s.ctx c).tensors.find? fun t => t.raw && decide (t.place ≤ a ∧ a < t.place + t.endOfs)).map fun t => t.place + t.endOfs - a

/-- An arm (R276): BUSY on a slot in ADMITTING or RUNNING; otherwise the slot enters ADMITTING and the image is read. -/
def State.armSlot (s : State) (n c : Nat) (irq : Bool) : State :=
  let x := s.slot n
  if x.busyNow then s.setSlot n { x with busy := true } else
  let a := x.regImage.toNat
  let g := (match s.rawRoom c a with
    | some room => Graph.read s.mem c a room
    | none => { addr := a })
  s.setSlot n { st := .admitting, busy := x.busy, irqEn := irq, ctx := BitVec.ofNat 4 c, image := x.regImage, cpl := x.regCpl, graph := g,
                regCtx := x.regCtx, regImage := x.regImage, regCpl := x.regCpl,
                step := BitVec.ofNat 32 (TD.step (nth 0 g.tasks 0)) }

/-- What admission of a slot's graph checks against. -/
def State.admEnv (s : State) (n : Nat) : AdmEnv :=
  let x := s.slot n
  let c := x.ctx.toNat
  let k := s.ctx c
  let others := (s.liveSlots c).filter fun m => m ≠ n && (s.slot m).admitted
  let qt := s.tdp.toList.map fun t => ((t.quota[c]?).getD 0).toNat
  let grp (g : Nat) : BitVec 512 := tget 0 s.fab.groups g
  { mem := s.mem, ctx := c, tensors := k.tensors, rank := k.cfg.rank.toNat, hbmQuota := k.cfg.hbmQ.toNat, spillCap := k.cfg.spillQ.toNat
    sramMin := k.cfg.sramMin.toNat, ranges := others.map fun m => (s.slot m).range, lastSealed := k.cfg.sealed.toNat
    otherSteps := (others.filter fun m => (s.slot m).graph.training).map fun m => (s.slot m).step.toNat
    tdpQuota := qt.foldl min 256
    groupSizes := (List.range 64).map fun g => if grpValid (grp g) && grpCtx (grp g) = c then grpSize (grp g) else 0
    maxRankOk := (List.range 64).map fun g => (grpRanks k.cfg.grid (grp g)).all fun r => r ≤ 65535 }

/-- The code and the task of the first failed admission check of a slot (R276, R277). -/
def State.admitSlot (s : State) (n : Nat) : Option (Nat × Nat) :=
  let x := s.slot n
  let c := x.ctx.toNat
  admitGraph (s.admEnv n) x.graph (s.rawRoom c x.image.toNat) x.cpl.toNat (s.rawRoom c x.cpl.toNat)

/-- Admission ends (R275, R277, R279, R284): to be REJECTED with its code, or admitted and to enter RUNNING, at the next tick. A slot
whose context is not LIVE is REJECTED with a code the spec does not give (free, log 62). -/
def State.endAdmission (s : State) (n : Nat) : State :=
  let x := s.slot n
  if x.st ≠ .admitting ∨ x.admitted ∨ x.leave.isSome then s else
  let c := x.ctx.toNat
  let readable := decide (x.image.toNat % 64 = 0 ∧ x.image.toNat < 2 ^ 40) && (match s.rawRoom c x.image.toNat with
    | some room => decide (x.graph.span ≤ room)
    | none => false)
  let h := if readable then BitVec.ofNat 512 (ofLE (shake256 (s.load c x.image.toNat x.graph.span) 64)) else 0
  let rej (s : State) (code task : Nat) : State :=
    s.setSlot n { x with hash := h, leave := some (.rejected, code, task) }
  if !s.live c then let (k, s) := s.draw; rej s k 0 else
  match s.admitSlot n with
  | some (code, task) => rej s code task
  | none =>
    let s := s.setSlot n { x with hash := h, admitted := true, order := implicitOrder (s.admEnv n) x.graph }
    s.setCtx c ((s.ctx c).clearFlags x.range)

/-! ### Starting and repeating an attempt -/

/-- A graph's tasks made pending and its records cleared (R280, R281). -/
def State.resetTasks (s : State) (n : Nat) : State :=
  let x := s.slot n
  (s.setSlot n { x with tasks := x.graph.tasks.map fun _ => ({} : TaskSt), parts := [], doneCnt := 0, stopped := false }).clearRecords n

/-- The loss-scale exponent a step runs with: the context's at its start (R235). -/
def Ctx.lsExp (x : Ctx) : Int := x.cfg.lsE.toInt

/-- A slot that was to leave its state at the tick does so (R275): a rejected one with its error, another ABANDONED. -/
def State.leaveDue (s : State) (n : Nat) : State :=
  let x := s.slot n
  match x.leave with
  | none => s
  | some (st, code, task) =>
    let s := if st = .rejected then s.setSlot n { x with errCode := BitVec.ofNat 8 code, errTask := BitVec.ofNat 20 task } else s
    s.leaveSlot n st

/-- A slot whose admission ended enters RUNNING (R279); its step is no longer abandoned (R247). A graph of no task is DONE at once (R288). -/
def State.startSlot (s : State) (n : Nat) : State :=
  let x := s.slot n
  if x.st ≠ .admitting ∨ !x.admitted then s else
  let s := s.setSlot n { x with st := .running, att := { e := (s.ctx x.ctx.toNat).lsExp } }
  let k := s.ctx x.ctx.toNat
  let s := if x.graph.training then s.setCtx x.ctx.toNat { k with aband := k.aband.filter (· ≠ x.step.toNat) } else s
  let s := s.resetTasks n
  if x.graph.tasks.isEmpty then s.leaveSlot n .done else s

/-- Whether every task of a slot other than SEAL has completed with status 0x01 (R279). -/
def Slot.allDone (x : Slot) : Bool :=
  (List.range x.tasks.length).all fun i => TD.typ (x.desc i) = 7 || (x.task i).status = 1

/-- A graph without SEAL whose tasks are all done enters DONE (R279). -/
def State.doneSlot (s : State) (n : Nat) : State :=
  let x := s.slot n
  if x.st = .running ∧ !x.graph.training ∧ !x.stopped ∧ x.tasks.all (fun t => t.status = 1) then s.leaveSlot n .done else s

end Sys2Proof.Machine
end

