-- ==== Sys2Proof/Machine/Ctxs.lean ====
section
/-! DEFINITION. Contexts and tensors: quotas, creation, teardown, orphans, tensor commands (spec/10 R264, R265, R289, R290,
spec/11 R291 to R298, spec/15 R424, R425). -/
namespace Sys2Proof.Machine

/-! ### Quota rules -/

/-- The LIVE contexts. -/
def State.liveCtxs (s : State) : List Nat := (List.range 16).filter fun c => s.live c
/-- Panel guarantees of the LIVE contexts sum to at most 32 (R265). -/
def State.panelsOk (s : State) : Bool := decide (sumN (s.liveCtxs.map fun c => (s.ctx c).cfg.panels.toNat) ≤ 32)
/-- HBM quotas of the LIVE contexts and the lending reserve fit the pages of HBM (R297). -/
def State.hbmOk (s : State) : Bool :=
  decide (sumN (s.liveCtxs.map fun c => (s.ctx c).cfg.hbmQ.toNat) + s.pager.reserve.toNat ≤ 392192)
/-- Tidepool quotas of the LIVE contexts sum to at most 128 in each partition (R356). -/
def State.tdpOk (s : State) : Bool :=
  s.tdp.toList.all fun t => decide (sumN (s.liveCtxs.map fun c => ((t.quota[c]?).getD 0).toNat) ≤ 128)
/-- The rules over all LIVE contexts. -/
def State.quotasOk (s : State) : Bool := s.panelsOk && s.hbmOk && s.tdpOk

/-- A context's quotas still hold what its admitted graphs were checked against (R265); a graph not yet admitted was checked against none. -/
def State.quotaKeeps (s : State) (c : Nat) : Bool :=
  let q := (s.ctx c).cfg
  ((s.liveSlots c).filter fun n => (s.slot n).admitted).all fun n =>
    let g := (s.slot n).graph
    let v := s.admEnv n
    decide (GH.peakPages g.hdr - GH.spillPages g.hdr ≤ q.hbmQ.toNat ∧ GH.spillPages g.hdr ≤ q.spillQ.toNat)
    && g.tasks.all fun d => !TD.onPanels d || decide (PE.granules (v.task g d).pe ≤ q.sramMin.toNat)

/-- The page limits of R298 for a context. -/
def Ctx.pagesOk (x : Ctx) : Bool :=
  let q := x.cfg
  decide (x.pages ≤ q.hbmQ.toNat + q.spillQ.toNat
    ∧ x.fixedPages + (if x.tensors.any (·.spill) then 8 else 0) ≤ q.hbmQ.toNat)

/-! ### Pages, apertures, memory of a tensor -/

/-- Everything kept for a byte range of a context is dropped: bytes, poison, frames, far copies. -/
def State.freeRange (s : State) (c a n : Nat) : State :=
  let k := memKey c a
  { s with
    mem := tkeep (fun x => decide (x < k ∨ k + n ≤ x)) s.mem
    poison := s.poison.filter fun b => decide (b * 64 < k ∨ k + n ≤ b * 64)
    pager := { s.pager with
      frames := tkeep (fun p => decide (p * 2 ^ 21 < k ∨ k + n ≤ p * 2 ^ 21)) s.pager.frames
      far := s.pager.far.filter fun f => !(f.ctx = c && decide (a ≤ f.page * 2 ^ 21 ∧ f.page * 2 ^ 21 < a + n)) } }

/-- Aperture entries of a context's function that name a tensor lose `VALID` (R444). -/
def State.clearApt (s : State) (c tid : Nat) : State :=
  { s with host := { s.host with apt := (s.host.apt.map fun (k, e) =>
      if k / 2 ^ 20 = c ∧ BV.fld e 0 32 = tid then (k, BV.put e 63 1 0) else (k, e)).filter fun x => x.2 ≠ 0 } }

/-- A tensor's pages freed; the checksum of its parameter (R263) goes with it. -/
def State.dropTensor (s : State) (t : TRec) : State :=
  let s := (s.freeRange t.ctx t.place (t.allPages * 2 ^ 21)).clearApt t.ctx t.tid
  s.setCtx t.ctx { s.ctx t.ctx with tensors := (s.ctx t.ctx).tensors.filter (·.tid ≠ t.tid)
                                    parSums := tkeep (fun k => k ≠ t.tid) (s.ctx t.ctx).parSums }

/-- May a segment still write to a tensor's pages (R294)? -/
def State.writesTo (s : State) (t : TRec) : Bool :=
  s.panels.toList.any fun p =>
    (p.seg.toList ++ p.wbq.map (·.seg) ++ (p.held.map (·.done.seg)).toList).any fun g => g.ctx = t.ctx && g.refs.any fun r => r.out && r.t.place = t.place

/-- A tensor destroyed (R294): its number is free, its pages are once no write to them is outstanding. -/
def State.destroy (s : State) (t : TRec) : State :=
  if s.writesTo t then
    let s := s.clearApt t.ctx t.tid
    let x := s.ctx t.ctx
    s.setCtx t.ctx { x with tensors := x.tensors.filter (·.tid ≠ t.tid), parSums := tkeep (fun k => k ≠ t.tid) x.parSums, freeing := x.freeing ++ [t] }
  else s.dropTensor t

/-- The pages of destroyed tensors of a context that no write can reach any more are freed. -/
def State.freeDestroyed (s : State) (c : Nat) : State :=
  let (keep, gone) := (s.ctx c).freeing.partition s.writesTo
  if gone.isEmpty then s else
  (gone.foldl (fun s t => s.freeRange t.ctx t.place (t.allPages * 2 ^ 21)) s).setCtx c { s.ctx c with freeing := keep }

/-! ### Tensor commands -/

/-- A run of n free pages of the 2^19 pages of a context, tried from a start on (fuel bounds the tries). -/
def fitFrom (used : List (Nat × Nat)) (n : Nat) : Nat → Nat → Option Nat
  | 0, _ => none
  | f + 1, p =>
    if 2 ^ 19 < p + n then fitFrom used n f 0 else
    match used.find? (fun u => decide (p < u.1 + u.2 ∧ u.1 < p + n)) with
    | none => some p
    | some u => fitFrom used n f (u.1 + u.2)

/-- The placement of a new tensor: any free run of pages (the spec does not say which; the start is free, log 8). -/
def Ctx.place (x : Ctx) (n start : Nat) : Option Nat :=
  if n = 0 then some 0 else
  let l := x.tensors ++ x.orphans ++ x.freeing
  fitFrom (l.map fun t => (t.place / 2 ^ 21, t.allPages)) n (2 * l.length + 4) start

/-- Reserved bits of the words and of the record are 0 (R14, R291). -/
def recReserved (w : BitVec 1024) (t : TRec) : Bool :=
  FW.reserved0 t.fmt && fld t.attn.toNat 0 2 = 0 && fld t.upd.toNat 0 30 = 0 && fld w.toNat 0 351 = 0

/-- The create rules of R292, R293 and R298 that do not need the placement. -/
def Ctx.createOk (x : Ctx) (w : BitVec 1024) (t : TRec) : Bool :=
  t.tid ≠ 0 && !(x.tensors.any fun u => u.tid = t.tid) && decide (t.elems ≤ 2 ^ 40) && t.part ≠ 3
  && (if t.raw then t.fmt = 0 && t.e1 = 1 && t.e2 = 1 && t.e3 = 1 && !t.spill else !FW.bad t.fmt)
  && recReserved w t && !(t.finEn && t.spill) && decide (x.tensors.length < 2 ^ 20)
  && ({ x with tensors := x.tensors ++ [t] }).pagesOk

/-- A placed tensor joins its context: its pages hold nothing yet, its copies the values a create gives them (R292). -/
def State.addTensor (s : State) (c : Nat) (t : TRec) : State :=
  let x := s.ctx c
  let s := s.freeRange c t.place (t.allPages * 2 ^ 21)
  let m := if t.raw then s.mem else if t.finEn then t.fill (t.fill s.mem (t.copyAt 0)) (t.copyAt 1) else t.fill s.mem (t.copyAt 0)
  { s.setCtx c { x with tensors := x.tensors ++ [t] } with mem := m }

/-- A create command (R292): the new state, or none where it is refused. `FIN_COPY` is read-only and starts at 0 (R245). -/
def State.tensorCreate (s : State) (c : Nat) (w : BitVec 1024) : Option State :=
  let x := s.ctx c
  let t0 := TRec.ofWord w
  let t := { t0 with ctx := c, gen := x.gen.toNat, upd := BV.put t0.upd 31 1 0 }
  if !s.live c ∨ !x.createOk w t then none else
  let (k, s) := s.draw
  (x.place t.allPages (k % 2 ^ 19)).map fun p => s.addTensor c { t with place := p * 2 ^ 21 }

/-- Bits of the format word that a modify may change (R294). -/
def modFmtMask : Nat := 2 ^ 52 - 1 - (2 ^ 41 - 2 ^ 39) - (2 ^ 28 - 2 ^ 20) - (2 ^ 10 - 1)
/-- Bits of the attention word that a modify may change (R294): all but `SH_EN` and reserved bits. -/
def modAttnMask : Nat := 2 ^ 64 - 1 - 2 ^ 31 - 3

/-- A modify command (R294). -/
def State.tensorModify (s : State) (c : Nat) (w : BitVec 1024) : Option State :=
  let n := TRec.ofWord w
  match s.tensor c n.tid with
  | none => none
  | some t =>
    let keep (m a b : Nat) : Bool := Nat.land (Nat.xor a b) (2 ^ 64 - 1 - m) = 0
    if s.inUse c t.tid || !s.live c || n.part = 3
      || !keep modFmtMask t.fmt.toNat n.fmt.toNat || !keep modAttnMask t.attn.toNat n.attn.toNat || n.upd ≠ t.upd
      || n.e0 ≠ t.e0 || n.e1 ≠ t.e1 || n.e2 ≠ t.e2 || n.e3 ≠ t.e3 || n.spill ≠ t.spill || n.raw ≠ t.raw
      || (if t.raw then n.fmt ≠ 0 else FW.bad n.fmt) || !recReserved w n
    then none
    else some (s.setCtx c ((s.ctx c).setTensor { t with fmt := n.fmt, attn := n.attn, grad := n.grad, part := n.part }))

/-- A destroy command (R294): refused while a graph names the tensor. -/
def State.tensorDestroy (s : State) (c tid : Nat) : Option State :=
  match s.tensor c tid with
  | none => none
  | some t => if s.inUse c tid then none else some (s.destroy t)

/-- A refused command outside a staged commit reports as a refused transaction of its function at its page (R292, R451). -/
def State.refuseAt (s : State) (fn blk inst : Nat) : State :=
  let x := s.txn fn
  (s.setTxn fn { x with result := 3, errBlock := BitVec.ofNat 6 blk, errIndex := 0, cframe := BitVec.ofNat 32 s.frame.toNat }).err blk inst 3

/-! ### Orphans, creation and teardown -/

/-- Orphaned tensors of a context number discarded (R424). -/
def State.dropOrphans (s : State) (c : Nat) : State :=
  let x := s.ctx c
  let s := x.orphans.foldl (fun s t => s.freeRange t.ctx t.place (t.allPages * 2 ^ 21)) s
  s.setCtx c { s.ctx c with orphans := [], orphan := false, orphGen := 0 }

/-- A create (R16, R264, R424, R428): none where the commit is refused. -/
def State.createCtx (s : State) (c offer : Nat) (re : Bool) (regen : BitVec 8) : Option State :=
  let x := s.ctx c
  if !s.bru.ready ∨ x.st ≠ .free then none
  else if offer ≠ 2 then some (s.setCtx c { x with answer := 2 })
  else
    let fresh : Ctx := { x with st := .live, answer := 2, flags := [], tensors := [], orphans := [], orphan := false, orphGen := 0
                                swSeq := [], receipts := [], epochs := [], twinWait := none, twinTries := 0, leafWait := none
                                progress := 0, parSums := [], freeing := [], aband := [] }
    if re then
      if !x.orphan ∨ x.orphGen ≠ regen then none else
      let y := { fresh with tensors := x.orphans.map fun t => { t with gen := x.gen.toNat } }
      let t := s.setCtx c y
      if y.pagesOk ∧ t.quotasOk then some t else none
    else
      let t := (s.dropOrphans c).setCtx c fresh
      if t.quotasOk then some t else none

/-- A teardown commit (R289): the LIVE context becomes DYING and its slots are cancelled. -/
def State.teardownCtx (s : State) (c : Nat) : State :=
  if !s.live c then s else
  let l := s.liveSlots c
  let s := s.setCtx c { s.ctx c with st := .dying }
  l.foldl (fun s n => if (s.slot n).st = .running then s.cancelSlot n else s.leaveSlot n .abandoned) s

/-- Does a partition still hold writes of a context (R289)? Segments that run or wait for writeback, and pages in transit. -/
def State.outWrites (s : State) (c part : Nat) : Bool :=
  (List.range 16).any (fun k => let p := s.panel (16 * part + k)
    p.seg.any (fun g => g.ctx = c) || p.wbq.any (fun d => d.seg.ctx = c) || p.held.any fun h => h.done.seg.ctx = c)
  || (part = 0 && (s.pager.far.any (fun f => f.ctx = c && f.recalling)
        || s.fab.streams.any (fun x => x.ctx = c && !x.unacked.isEmpty)))

/-- What the fabric holds for a context is dropped. -/
def Fab.dropCtx (f : Fab) (c : Nat) : Fab :=
  { f with streams := f.streams.filter (·.ctx ≠ c), peers := f.peers.filter (·.ctx ≠ c), rates := f.rates.filter (·.ctx ≠ c)
           reds := f.reds.filter (·.ctx ≠ c), p2p := f.p2p.filter (·.ctx ≠ c), sw := f.sw.filter (·.ctx ≠ c) }

/-- The teardown completes (R289, R358): pages freed, generation advanced, slots IDLE, context FREE. A panel that ran it clears
before the number's next context (R143, log 27). -/
def State.freeCtx (s : State) (c : Nat) : State :=
  let s := (s.ctx c).tensors.foldl (fun s t => s.dropTensor t) s
  let s := (s.ctx c).freeing.foldl (fun s t => s.freeRange t.ctx t.place (t.allPages * 2 ^ 21)) s
  let x := s.ctx c
  let s := { s.setCtx c { x with st := .free, freeing := [], gen := x.gen + 1, tensors := [], flags := [], swSeq := [], epochs := [] } with
    slots := s.slots.map (fun (y : Slot) => if y.ctx.toNat = c ∧ y.st ≠ SlotSt.idle then { y with st := .idle } else y)
    fab := s.fab.dropCtx c
    panels := s.panels.map (fun (p : Panel) => if p.lastCtx = some c then { p with lastCtx := some 16 } else p)
    sec := { s.sec with queue := s.sec.queue.filter fun q => match q.what with | .receipt k _ => k ≠ c | _ => true } }
  s.fire c 0

/-! ### Meanings -/

/-- CREATE (R264); it commits at a tick (R452). -/
def execCreate (ctx offer : Nat) (reattach : Bool) (regen : BitVec 8) (s : State) : Host.Outcome State Fault Refusal :=
  .next (if !s.tickRun then s else (s.createCtx ctx offer reattach regen).getD (s.refuseAt ctx 0x07 ctx))

/-- TEARDOWN (R289). A context that is not LIVE is not touched (R290). -/
def execTeardown (ctx : Nat) (s : State) : Host.Outcome State Fault Refusal := .next (if s.tickRun then s.teardownCtx ctx else s)

/-- TEARDOWN_DRAIN_COMPLETE (R289): a DYING context without outstanding writes becomes FREE. -/
def execTeardownDrainComplete (ctx : Nat) (s : State) : Host.Outcome State Fault Refusal :=
  .next (if (s.ctx ctx).st = .dying ∧ !s.outWrites ctx 0 ∧ !s.outWrites ctx 1 then s.freeCtx ctx else s)

/-- What a tensor command does at its committing tick, none where it is refused. -/
def State.runTCmd (s : State) (k : TCmd) : Option State :=
  match k.kind with
  | 0 => s.tensorCreate k.ctx k.record
  | 1 => s.tensorModify k.ctx k.record
  | _ => s.tensorDestroy k.ctx k.record.toNat

/-- A command's result without a change of the transaction. -/
def State.txnResult (s : State) (fn : Nat) (result : BitVec 6) : State := (s.setTxn fn { s.txn fn with result := result }).fire fn 5

/-- A tensor command of a context's owner (R292, R449): staged in its open transaction, busy while a commit is pending, and otherwise
a transaction of its own that the next tick commits (log 59). -/
def State.tensorCmd (s : State) (k : TCmd) : State :=
  let x := s.txn k.ctx
  if x.st = 0 then s.setTxn k.ctx { x with lone := x.lone ++ [k] }
  else if x.st = 1 then
    if 256 ≤ x.staged.length + x.cmds.length then (s.setTxn k.ctx { x with result := 5, full := true }).fire k.ctx 5
    else s.setTxn k.ctx { x with cmds := x.cmds ++ [{ k with pos := x.staged.length }], count := x.count + 1 }
  else s.txnResult k.ctx 7

/-- TENSOR_CREATE (R292). -/
def execTensorCreate (ctx : Nat) (rec : BitVec 1024) (s : State) : Host.Outcome State Fault Refusal :=
  .next (s.tensorCmd { kind := 0, ctx := ctx, record := rec })

/-- TENSOR_MODIFY (R294). -/
def execTensorModify (ctx : Nat) (rec : BitVec 1024) (s : State) : Host.Outcome State Fault Refusal :=
  .next (s.tensorCmd { kind := 1, ctx := ctx, record := rec })

/-- TENSOR_DESTROY (R294). -/
def execTensorDestroy (ctx tid : Nat) (s : State) : Host.Outcome State Fault Refusal :=
  .next (s.tensorCmd { kind := 2, ctx := ctx, record := BitVec.ofNat 1024 tid })

/-- TENSOR_READ (R291): the record, or a refusal where no tensor has the ID. -/
def execTensorRead (ctx tid : Nat) (s : State) : Host.Outcome State Fault Refusal :=
  .next (match s.tensor ctx tid with
    | some t => s.emit (.record ctx t.word)
    | none => s.refuseAt ctx 0x08 ctx)

/-- ORPHAN_DISCARD (R424). -/
def execOrphanDiscard (ctx : Nat) (s : State) : Host.Outcome State Fault Refusal := .next (s.dropOrphans ctx)

/-- ARM (R276): the slot's arm with its image and completion-area addresses; a slot of another context refuses (R458). -/
def execArm (slot ctx : Nat) (irqEn : Bool) (s : State) : Host.Outcome State Fault Refusal :=
  .next (if !s.tickRun then s else if ((s.host.slotOwn[slot]?).getD 0).toNat ≠ ctx ∨ (s.ctx ctx).st = .dying then s.refuseAt 0 0x07 (slot + 16) else s.armSlot slot ctx irqEn)

/-- CANCEL (R282). -/
def execCancel (slot : Nat) (s : State) : Host.Outcome State Fault Refusal := .next (if s.tickRun then s.cancelSlot slot else s)

/-- ADMISSION_END (R277). -/
def execAdmissionEnd (slot : Nat) (s : State) : Host.Outcome State Fault Refusal := .next (s.endAdmission slot)

end Sys2Proof.Machine
end

