-- ==== Sys2Proof/Machine/Secure.lean ====
section
/-! DEFINITION. Measured boot, leaf state, receipt keys, attestation messages (spec/18 R464 to R474, spec/14 R396, R397, spec/17
R442). -/
namespace Sys2Proof.Machine

/-! ### Measured boot (R464) -/

/-- A measurement register extended, with its log entry; a 65th entry replaces the log. -/
def State.extend (s : State) (i : Nat) (d : BitVec 512) : State :=
  let m := (s.sec.meas[i]?).getD 0
  let v := BitVec.ofNat 512 (ofLE (shake256 (toLE 64 m.toNat ++ toLE 64 d.toNat) 64))
  let meas := s.sec.meas.setIfInBounds i v
  let stage := s.bru.stage.toNat
  let boot := s.bru.boot.toNat
  { s with sec := { s.sec with meas := meas
                               log := if 64 ≤ s.sec.log.length then [(0xFF, meas.toList, stage, boot)] else s.sec.log ++ [(i, [d], stage, boot)] } }

/-! ### The key store (R460, R468 to R470) -/

/-- Leaves of the identity key and of a receipt key. -/
def idLeaves : Nat := 2 ^ 20
/-- Leaves of a receipt key. -/
def rkLeaves : Nat := 65536
/-- Entry i of the key store. -/
def State.rkey (s : State) (i : Nat) : RKey := (s.sec.rk[i]?).getD {}
/-- Entry i replaced. -/
def State.setRkey (s : State) (i : Nat) (k : RKey) : State := { s with sec := { s.sec with rk := s.sec.rk.setIfInBounds i k } }
/-- Does a LIVE context use a job? -/
def State.jobLive (s : State) (job : BitVec 24) : Bool := s.ctxs.toList.any fun x => x.st = .live && x.cfg.job = job
/-- Entries of a job. -/
def State.jobKeys (s : State) (job : BitVec 24) : List Nat := (List.range 32).filter fun i => (s.rkey i).st ≠ 0 && (s.rkey i).job = job

/-- The mark of a key that becomes active now: one above every other in the store (R469). -/
def State.nextSince (s : State) : Nat := s.sec.rk.toList.foldl (fun m k => max m k.since) 0 + 1

/-- The entry a new key takes (R469): a free one, else the one that became active longest ago among those whose job no LIVE
context uses. -/
def State.keyEntry (s : State) : Option Nat :=
  match (List.range 32).find? fun i => (s.rkey i).st = 0 with
  | some i => some i
  | none =>
    ((List.range 32).filter fun i => decide (0 < (s.rkey i).since) && !s.jobLive (s.rkey i).job).foldl (fun b i => match b with
      | some k => if (s.rkey i).since < (s.rkey k).since then some i else some k
      | none => some i) none

/-- Generation of a key for a job starts (R468, R469); without an entry no key is generated. -/
def State.newKey (s : State) (job : BitVec 24) (seq : Nat) : State :=
  match s.keyEntry with
  | none => s
  | some i =>
    let s := s.setRkey i { st := 1, job := job, seq := BitVec.ofNat 16 seq, ident := s.sec.keys + 1 }
    { s with sec := { s.sec with keys := s.sec.keys + 1 } }

/-- A commit sets `GRF_JOB.JOB` (R468): a key is generated where the job has none. Its first sequence number follows the job's
highest in the store. -/
def State.jobKey (s : State) (job : BitVec 24) : State :=
  let l := s.jobKeys job
  if l.any fun i => let k := s.rkey i; k.st = 1 || k.st = 2 || k.st = 3 then s else
  s.newKey job (l.foldl (fun m i => max m ((s.rkey i).seq.toNat + 1)) 0)

/-! ### Answers (R472, R473) -/

/-- An 8-byte message header (R473). -/
def attHead (code status len : Nat) : List Byte := [2, BitVec.ofNat 8 code, BitVec.ofNat 8 status, 0] ++ toLE 4 len
/-- A response. -/
def attResp (code status : Nat) (body : List Byte) : List Byte := attHead (code + 128) status (8 + body.length) ++ body

/-- A response leaves on its transport: 0 the mailbox buffer, 1 DOE, 2 MCTP. -/
def State.answer (s : State) (tr : Nat) (l : List Byte) : State :=
  let s := { s with sec := { s.sec with busy := s.sec.busy.filter (· ≠ tr) } }
  match tr with
  | 0 => ({ s with sec := { s.sec with mbox := tsetMany 0 s.sec.mbox 0 (l.take 8192), mboxSt := 2, rlen := BitVec.ofNat 14 l.length } }).hold 0 4
  | 1 => s.emit (.doe l)
  | _ => s.emit (.mgmt l)

/-- Identity leaves left. -/
def State.idRemain (s : State) : Nat := idLeaves - s.sec.idLeaf
/-! ### The signing queue (R465 to R467, R471) -/

/-- The active key a receipt of a job signs with, or its successor once the active key is exhausted. -/
def State.signKey (s : State) (job : BitVec 24) : Option Nat :=
  let l := s.jobKeys job
  match l.find? fun i => let k := s.rkey i; k.st = 2 && k.certified && decide (k.leaf < rkLeaves) with
  | some i => some i
  | none => l.find? fun i => let k := s.rkey i; k.st = 3 && k.certified

/-- May a receipt of a job still be signed? A key can sign, or one being generated can still be certified. -/
def State.keyHope (s : State) (job : BitVec 24) : Bool :=
  (s.signKey job).isSome || (s.jobKeys job).any fun i => (s.rkey i).st = 1
    && (decide (s.sec.idLeaf < idLeaves) || s.sec.queue.any fun q => q.what = .cert i && q.leaf.isSome)

/-- A receipt record joins its context's ring of eight and raises its interrupt (R396). -/
def State.putReceipt (s : State) (c : Nat) (r : Receipt) : State :=
  let x := s.ctx c
  (s.setCtx c { x with receipts := (x.receipts ++ [r]).drop (x.receipts.length + 1 - 8), rcptIrq := true }).fire c 7

/-- The Finishing tasks of the next step wait no longer for a step's receipt leaf (R397). -/
def State.leafDone (s : State) (c step : Nat) : State :=
  if (s.ctx c).leafWait = some step then s.setCtx c { s.ctx c with leafWait := none } else s

/-- A message with its leaf index in bytes 140 to 143. -/
def withLeaf (msg : List Byte) (leaf : Nat) : List Byte := msg.take 140 ++ toLE 4 leaf ++ msg.drop 144

/-- A receipt that no certified key can sign (R471): the record with leaf 0xFFFF_FFFF and signature bytes 0, logged. -/
def State.unsignedReceipt (s : State) (c step : Nat) (msg : List Byte) : State :=
  let s := s.putReceipt c { step := step, msg := withLeaf msg 0xFFFFFFFF, leaf := 0xFFFFFFFF, sig := List.replicate 2692 0, failed := true }
  (s.log { code := 0x0B01, sev := 3, ctx := c, data := step }).leafDone c step

/-- Waiting receipts that no key can sign any more are written unsigned; measurements that wait when the identity reserve is
reached are answered so (R474). -/
def State.dropHopeless (s : State) : State :=
  s.sec.queue.foldl (fun s q => match q.what, q.leaf with
    | .receipt c step, none =>
      if s.keyHope (s.ctx c).cfg.job then s else
      ({ s with sec := { s.sec with queue := s.sec.queue.filter (· ≠ q) } }).unsignedReceipt c step q.msg
    | .meas tr, none =>
      if 16384 < s.idRemain then s else
      ({ s with sec := { s.sec with queue := s.sec.queue.filter (· ≠ q) } }).answer tr (attResp 3 6 [])
    | _, _ => s) s

/-- A receipt due at a seal (R396, R397, R471). -/
def State.wantReceipt (s : State) (c step : Nat) (msg : List Byte) : State :=
  if s.keyHope (s.ctx c).cfg.job then
    (s.setCtx c { s.ctx c with leafWait := some step }) |> fun s =>
    { s with sec := { s.sec with queue := s.sec.queue ++ [{ what := .receipt c step, tick := s.frame.toNat, msg := msg }] } }
  else s.unsignedReceipt c step msg

/-- Can a queued signature take its leaf now? -/
def State.canServe (s : State) (q : SigReq) : Bool :=
  match q.what with
  | .receipt c _ => (s.signKey (s.ctx c).cfg.job).isSome
  | .cert _ => decide (s.sec.idLeaf < idLeaves)
  | .meas _ => decide (16384 < s.idRemain)

/-- The class of a signature in the order of R467. -/
def SigReq.rank (q : SigReq) : Nat := match q.what with | .receipt _ _ => 0 | .cert _ => 1 | .meas _ => 2

/-- The request that is served next (R467): receipts by sealing tick, then certifications, then attestations by arrival. -/
def State.nextSig (s : State) : Option SigReq :=
  if s.sec.queue.any fun q => q.leaf.isSome then none else
  (s.sec.queue.filter s.canServe).foldl (fun b q => match b with
    | none => some q
    | some p => if q.rank < p.rank ∨ (q.rank = 0 ∧ p.rank = 0 ∧ q.tick < p.tick) then some q else some p) none

/-- A request's entry in the queue replaced. -/
def State.setSig (s : State) (q p : SigReq) : State := { s with sec := { s.sec with queue := s.sec.queue.map fun x => if x = q then p else x } }

/-- The identity key's leaf advance (R465, R466): an OTP bit burns before the journal passes a multiple of 1,024. -/
def State.idAdvance (s : State) : State :=
  let c := s.sec.idLeaf + 1
  { s with sec := { s.sec with idLeaf := c, otp := if c % 1024 = 0 then c / 1024 else s.sec.otp } }

/-- The receipt key's leaf advance (R465, R470): an exhausted key gives way to its successor, and a key with 4,096 leaves left
gets one. -/
def State.rkAdvance (s : State) (i : Nat) : State :=
  let k := s.rkey i
  let s := if k.st = 3 then
      (s.jobKeys k.job).foldl (fun s j => if (s.rkey j).st = 2 then s.setRkey j { s.rkey j with st := 4 } else s) s
    else s
  let k := { k with st := if k.leaf + 1 = rkLeaves then 4 else 2, leaf := k.leaf + 1, since := if k.st = 3 then s.nextSince else k.since }
  let s := s.setRkey i k
  if k.leaf = rkLeaves - 4096 then s.newKey k.job (k.seq.toNat + 1) else s

/-! ### Signatures and certificates (R460, R461, R468) -/

/-- An XMSS signature: leaf index, randomiser, chain values and path (R461). -/
def xmssSig (key leaf n : Nat) (msg : List Byte) : List Byte :=
  toBE 4 leaf ++ (List.range (n - 4)).map fun k => Config.xmssByte key leaf msg k
/-- A 68-byte public key: the parameter set's OID and the key (R461). -/
def publicKey (oid key : Nat) : List Byte := toBE 4 oid ++ (List.range 64).map fun k => Config.publicKeyByte key k
/-- The identity public key. -/
def idKey : List Byte := publicKey 0x12 0
/-- Bytes 0 to 159 of a receipt-key certificate (R468). -/
def State.certBody (s : State) (i : Nat) : List Byte :=
  let k := s.rkey i
  toLE 2 2 ++ [2, 0] ++ toLE 4 k.job.toNat ++ toLE 4 k.seq.toNat ++ publicKey 0x11 k.ident ++ shake256 idKey 64
    ++ toLE 4 s.bru.boot.toNat ++ toLE 4 s.frame.toNat ++ List.replicate 8 0

/-! ### Attestation messages (R472 to R474) -/

/-- Identity and receipt leaf counts. -/
def State.leafCounts (s : State) : List Byte :=
  toLE 4 s.idRemain ++ (List.range 32).flatMap fun i => toLE 4 (if (s.rkey i).st = 0 then 0 else rkLeaves - (s.rkey i).leaf)

/-- A measurement-log entry. -/
def logBytes (e : Nat × List (BitVec 512) × Nat × Nat) : List Byte :=
  [BitVec.ofNat 8 e.1, BitVec.ofNat 8 e.2.2.1] ++ toLE 4 e.2.2.2 ++ e.2.1.flatMap fun d => toLE 64 d.toNat

/-- The bytes a GET_MEASUREMENTS response signs (R472, R473). -/
def State.measBody (s : State) (nonce : List Byte) : List Byte :=
  let body := nonce ++ toLE 4 s.bru.boot.toNat ++ s.sec.meas.toList.flatMap (fun m => toLE 64 m.toNat) ++ toLE 4 s.sec.log.length
    ++ s.sec.log.flatMap logBytes ++ s.leafCounts
  attHead 0x83 0 (8 + body.length + 2820) ++ body

/-- The device identity certificate, of a length the spec does not give. -/
def identityCert : List Byte := (List.range (Config.moduleConst 3)).map Config.identityCertByte

/-- Does a host access of a function reach the module: link up, function not in D3hot (R427, R441)? -/
def State.hostUp (s : State) (fn : Nat) : Bool := s.host.link && !s.host.d3.contains fn

/-- Is a transport there: the mailbox while PF0 answers, DOE, a configuration mechanism, while the link is up (R22, R441), the management bus
while 64 V is at the edge (R477)? -/
def State.transportUp (s : State) (tr : Nat) : Bool :=
  match tr with
  | 0 => s.hostUp 0
  | 1 => s.host.link
  | _ => s.pins.vin

/-- A request that arrives on a transport (R472 to R474). -/
def State.request (s : State) (tr code : Nat) (body : List Byte) : State :=
  if !s.transportUp tr then s else
  if s.sec.busy.contains tr then (if tr = 0 then s else s.emit (if tr = 1 then .doe (attResp code 1 []) else .mgmt (attResp code 1 []))) else
  match code with
  | 1 => s.answer tr (if body.isEmpty then attResp 1 0 [2] else attResp 1 4 [])
  | 2 =>
    if body.length ≠ 12 then s.answer tr (attResp 2 4 []) else
    let kind := ofLE (body.take 4)
    if kind = 1 then s.answer tr (attResp 2 0 identityCert) else
    let job := BitVec.ofNat 24 (ofLE ((body.drop 4).take 4))
    let seq := ofLE ((body.drop 8).take 4)
    (match (s.jobKeys job).find? fun i => (s.rkey i).certified && (s.rkey i).seq.toNat = seq && kind = 2 with
     | some i => s.answer tr (attResp 2 0 (s.rkey i).cert)
     | none => s.answer tr (attResp 2 5 []))
  | 3 =>
    if body.length ≠ 32 then s.answer tr (attResp 3 4 [])
    else if s.sec.tokens = 0 then s.answer tr (attResp 3 2 [])
    else if s.idRemain ≤ 16384 then s.answer tr (attResp 3 6 [])
    else { s with sec := { s.sec with tokens := s.sec.tokens - 1, busy := s.sec.busy ++ [tr], mboxSt := if tr = 0 then 1 else s.sec.mboxSt
                                      queue := s.sec.queue ++ [{ what := .meas tr, tick := s.frame.toNat, msg := s.measBody body }] } }
  | 4 => s.answer tr (if body.isEmpty then attResp 4 0 s.leafCounts else attResp 4 4 [])
  | k => s.answer tr (attResp (k % 128) 3 [])

/-! ### Meanings -/

/-- LEAF_ADVANCE_CONFIRMED (R465, R467): the journal write of the request served next is confirmed; one signature is made at a
time. The leaf of a receipt frees the next step's Finishing tasks (R397). -/
def execLeafAdvanceConfirmed (s : State) : Host.Outcome State Fault Refusal :=
  .next (match s.nextSig with
    | none => s
    | some q =>
      match q.what with
      | .receipt c step =>
        (match s.signKey (s.ctx c).cfg.job with
         | none => s
         | some i =>
           let leaf := (s.rkey i).leaf
           let t := (s.rkAdvance i).setSig q { q with leaf := some leaf, msg := withLeaf q.msg leaf, key := (s.rkey i).ident }
           (t.leafDone c step).dropHopeless)
      | .cert i => (s.setSig q { q with leaf := some s.sec.idLeaf, msg := s.certBody i }).idAdvance.dropHopeless
      | .meas _ => (s.setSig q { q with leaf := some s.sec.idLeaf }).idAdvance.dropHopeless)

/-- SIGNATURE_RELEASE (R465, R396, R468, R472): the signature in progress is released. -/
def execSignatureRelease (s : State) : Host.Outcome State Fault Refusal :=
  .next (match s.sec.queue.find? fun q => q.leaf.isSome with
    | none => s
    | some q =>
      let leaf := q.leaf.getD 0
      let s := { s with sec := { s.sec with queue := s.sec.queue.filter (· ≠ q) } }
      match q.what with
      | .receipt c step => s.putReceipt c { step := step, msg := q.msg, leaf := leaf, sig := xmssSig q.key leaf 2692 q.msg, signed := true }
      | .cert i =>
        let k := s.rkey i
        if k.st ≠ 1 then s else
        let active := (s.jobKeys k.job).any fun j => (s.rkey j).st = 2
        s.setRkey i { k with certified := true, cert := q.msg ++ xmssSig 0 leaf 2820 q.msg, st := if active then 3 else 2
                             since := if active then k.since else s.nextSince }
      | .meas tr => s.answer tr (q.msg ++ xmssSig 0 leaf 2820 q.msg))

/-- RECEIPT_KEY_READY (R468): a generated key asks for its certification. -/
def execReceiptKeyReady (entry : Nat) (s : State) : Host.Outcome State Fault Refusal :=
  let k := s.rkey entry
  .next (if k.st ≠ 1 ∨ s.sec.queue.any (fun q => q.what = .cert entry) then s
    else if idLeaves ≤ s.sec.idLeaf then s.dropHopeless
    else { s with sec := { s.sec with queue := s.sec.queue ++ [{ what := .cert entry, tick := s.frame.toNat, msg := s.certBody entry }] } })

/-- TOKEN_REFILL (R474). -/
def execTokenRefill (s : State) : Host.Outcome State Fault Refusal :=
  .next { s with sec := { s.sec with tokens := min 64 (s.sec.tokens + 1) } }

/-- MAILBOX_GO (R472, R473): the request in the buffer is submitted; one is outstanding at a time. -/
def execMailboxGo (len : Nat) (s : State) : Host.Outcome State Fault Refusal :=
  .next (if !s.hostUp 0 then s else
    let s := { s with sec := { s.sec with mboxLen := BitVec.ofNat 14 len } }
    if s.sec.mboxSt = 1 then s else
    let l := tgetMany 0 s.sec.mbox 0 (min len 8192)
    let code := (nth 0 l 1).toNat
    if len < 8 ∨ 8192 < len ∨ nth 0 l 0 ≠ 2 ∨ ofLE ((l.drop 4).take 4) ≠ len then s.answer 0 (attResp (code % 128) 4 [])
    else s.request 0 code (l.drop 8))

/-- MAILBOX_ABORT (R472): the request or the response is discarded. A signature whose leaf is taken leaves it unused. -/
def execMailboxAbort (s : State) : Host.Outcome State Fault Refusal :=
  .next (if !s.hostUp 0 then s else
    ({ s with sec := { s.sec with mboxSt := 0, rlen := 0, busy := s.sec.busy.filter (· ≠ 0), queue := s.sec.queue.filter fun q => q.what ≠ SigFor.meas 0 } }).release 0 4)

/-- MAILBOX_DATA_ACCESS (R472): 8 bytes of the buffer at `OFS`, which advances with `AUTOINC`. -/
def execMailboxDataAccess (write : Option (BitVec 64)) (s : State) : Host.Outcome State Fault Refusal :=
  .next (if !s.hostUp 0 then s else
    let o := BV.fld s.sec.mboxOfs 0 13 / 8 * 8
    let t := match write with
      | some v => { s with sec := { s.sec with mbox := tsetMany 0 s.sec.mbox o (toLE 8 v.toNat) } }
      | none => s.emit (.read 0 (BitVec.ofNat 64 (ofLE (tgetMany 0 s.sec.mbox o 8))))
    if s.sec.mboxOfs.getLsbD 63 then { t with sec := { t.sec with mboxOfs := BV.put s.sec.mboxOfs 0 13 ((o + 8) % 8192) } } else t)

/-- GET_VERSION (R472). -/
def execGetVersion (transport : Nat) (s : State) : Host.Outcome State Fault Refusal := .next (s.request transport 1 [])
/-- GET_CERT (R472). -/
def execGetCert (transport kind job seq : Nat) (s : State) : Host.Outcome State Fault Refusal :=
  .next (s.request transport 2 (toLE 4 kind ++ toLE 4 job ++ toLE 4 seq))
/-- GET_MEASUREMENTS (R472, R474). -/
def execGetMeasurements (transport : Nat) (nonce : List Byte) (s : State) : Host.Outcome State Fault Refusal :=
  .next (s.request transport 3 nonce)
/-- GET_LEAVES (R472). -/
def execGetLeaves (transport : Nat) (s : State) : Host.Outcome State Fault Refusal := .next (s.request transport 4 [])

/-- RECEIPT_KEY_ERASE (R469): the selected entry is erased unless a LIVE context uses its job. -/
def execReceiptKeyErase (s : State) : Host.Outcome State Fault Refusal :=
  let i := BV.fld s.sec.rkSel 59 5
  .next (if !s.hostUp 0 then s
    else if (s.rkey i).st ≠ 0 ∧ s.jobLive (s.rkey i).job then s.access 0x16 0
    else State.dropHopeless { s.setRkey i {} with sec := { (s.setRkey i {}).sec with queue := (s.setRkey i {}).sec.queue.filter fun q => q.what ≠ SigFor.cert i } })

/-- DOE_DISCOVERY (R442): entry 0 is DOE Discovery, entry 1 the vendor-defined attestation type. -/
def execDoeDiscovery (index : Nat) (s : State) : Host.Outcome State Fault Refusal :=
  .next (if !s.host.link then s else s.emit (.doe (toLE 4 (match index with
    | 0 => 0x01000001
    | 1 => Config.moduleConst 1 % 2 ^ 16 + Config.moduleConst 2 % 256 * 2 ^ 16
    | _ => 0x0000FFFF))))

end Sys2Proof.Machine
end

