-- ==== Sys2Proof/Machine/Anchor.lean ====
section
/-! DEFINITION. Anchors of output blocks from the gauge tags of operands (spec/03 R75 to R82, R90, spec/07 R214). -/
namespace Sys2Proof.Machine

/-- The largest of two optional gauges. -/
def maxO : Option Int → Option Int → Option Int
  | none, b => b
  | a, none => a
  | some a, some b => some (max a b)

/-- Tile gauge of an operand (R75): the largest tag among the blocks with contracted index 32κ to 32κ + 31 and free index
32j to 32j + 31 at fixed other indices. -/
def tileGauge (m : Tbl Byte) (t : TRec) (cax fax kap j : Nat) (ix : List Nat) : Option Int :=
  let inner := if cax = 0 then fax else cax
  let lo := if cax = 0 then 32 * j else 32 * kap
  let blk := if cax = 0 then 32 * kap else 32 * j
  if t.ext 0 ≤ blk then none else
  (List.range 32).foldl (fun g d =>
    let k := lo + d
    if t.ext inner ≤ k then g else
    let ix := ix.set inner k
    maxO g (some (t.tag m t.base (t.rowOf (nth 0 ix 1) (nth 0 ix 2) (nth 0 ix 3)) blk))) none

/-- Indices of an operand at the batch position of an output element (R75). -/
def batchIx (inAx outAx : List Nat) (out : List Nat) : List Nat :=
  (inAx.zip outAx).foldl (fun l (a, b) => l.set a (nth 0 out b)) [0, 0, 0, 0]

/-- log2 P of R72: both operands block-scaled along the contracted axis. -/
def logP (e : TaskEnv) : Nat :=
  match e.r 0, e.r 1 with
  | some a, some b => if a.scaled && b.scaled && TD.aCax e.d = 0 && TD.bCax e.d = 0 then lg (min a.blk b.blk) else 0
  | _, _ => 0

/-- The output's free axis that is not its innermost, along which the output tile of a task's product extends (R76, R77); a sum's tile is
one block (R78). -/
def tileAxis (d : Nat) : Option Nat := if TD.variant d = 1 then none else some (if TD.cAax d = 0 then TD.cBax d else TD.cAax d)

/-- The bound of a preload of the output's shape, or of a bias along one output axis, at the tile of the output block at (row, col) (R77):
the largest tag among the elements that map to the tile. -/
def preloadTile (m : Tbl Byte) (p out : TRec) (fax : Option Nat) (row col : Nat) : Option Int :=
  let ix := [col, out.rowIdx row 1, out.rowIdx row 2, out.rowIdx row 3]
  let tile : List (List Nat) := match fax with
    | none => [ix]
    | some a => ((List.range 32).map fun d => ix.set a (nth 0 ix a / 32 * 32 + d)).filter fun i => decide (nth 0 i a < out.ext a)
  let at1 (i : List Nat) (a : Nat) : Nat := if p.ext a = 1 then 0 else nth 0 i a
  tile.foldl (fun g i => maxO g (some (p.tag m p.base (p.rowOf (at1 i 1) (at1 i 2) (at1 i 3)) (at1 i 0)))) none

/-- The preload's bound at an output block of a task that carries one (R77). -/
def preloadGauge (m : Tbl Byte) (e : TaskEnv) (out : TRec) (row col : Nat) : Option Int :=
  if !TD.pre e.d then none else
  match e.r 3 with
  | none => none
  | some p => preloadTile m p out (tileAxis e.d) row col

/-- Local anchor of the 32-element output block at (row, col) over one task's contributions (R77, R78, R82); none where the
task contributes nothing. -/
def taskAnchor (m : Tbl Byte) (g : Graph) (e : TaskEnv) (out : TRec) (row col : Nat) : Option Int :=
  let d := e.d
  let o := [col, out.rowIdx row 1, out.rowIdx row 2, out.rowIdx row 3]
  let main : Option Int :=
    if TD.variant d = 1 then
      (segWalk g d).foldl (fun a sg =>
        let (so, co) := winSeg out (g.winRec d 2) sg
        let lo := max col (nth 0 so 0)
        let hi := min (col + 32) (nth 0 so 0 + nth 0 co 0)
        if hi ≤ lo ∨ !([1, 2, 3].all fun x => decide (nth 0 so x ≤ nth 0 o x ∧ nth 0 o x < nth 0 so x + nth 0 co x)) then a else
        (List.range 2).foldl (fun a r => match e.r r with
          | some t =>
            let si := (winSeg t (g.winRec d r) sg).1
            let ix (x : Nat) : Nat := nth 0 si x + (nth 0 o x - nth 0 so x)
            let b0 := (nth 0 si 0 + (lo - nth 0 so 0)) / 32
            let b1 := (nth 0 si 0 + (hi - 1 - nth 0 so 0)) / 32
            (List.range (b1 + 1 - b0)).foldl (fun a k => maxO a (some (t.tag m t.base (t.rowOf (ix 1) (ix 2) (ix 3)) ((b0 + k) * 32)))) a
          | none => a) a) none
    else match e.r 0, e.r 1 with
      | some a, some b =>
        let ja := nth 0 o (TD.cAax d) / 32
        let jb := nth 0 o (TD.cBax d) / 32
        let ob := batchAxes (TD.cAax d) (TD.cBax d)
        let ia := batchIx (batchAxes (TD.aCax d) (TD.aFax d)) ob o
        let ib := batchIx (batchAxes (TD.bCax d) (TD.bFax d)) ob o
        let (lo, hi) := nth (0, 0) (refBox g d 0 a) (TD.aCax d)
        let (lb, _) := nth (0, 0) (refBox g d 1 b) (TD.bCax d)
        if hi ≤ lo then none else
        (List.range ((hi - 1) / 32 + 1 - lo / 32)).foldl (fun x k =>
          match tileGauge m a (TD.aCax d) (TD.aFax d) (lo / 32 + k) ja ia, tileGauge m b (TD.bCax d) (TD.bFax d) (lb / 32 + k) jb ib with
          | some p, some q => maxO x (some (p + q + (logP e : Int)))
          | _, _ => x) none
      | _, _ => none
  maxO main (preloadGauge m e out row col)

/-! ### The parameter block (R202) -/

/-- `SIGMA`. -/
def AB.sigma (d : Nat) : Val := ofF32 (fld d 992 32)
/-- `MASK`. -/
def AB.mask (d : Nat) : Nat := fld d 990 2
/-- `LSE_EN`. -/
def AB.lseEn (d : Nat) : Bool := bitOf d 989
/-- `OOVF`. -/
def AB.oovf (d : Nat) : Bool := bitOf d 988
/-- `ORND`. -/
def AB.ornd (d : Nat) : Nat := fld d 986 2
/-- `GQA`. -/
def AB.gqa (d : Nat) : Nat := fld d 983 3
/-- `QPOS`. -/
def AB.qpos (d : Nat) : Nat := fld d 958 25
/-- `KPOS`. -/
def AB.kpos (d : Nat) : Nat := fld d 933 25
/-- `WINDOW`. -/
def AB.window (d : Nat) : Nat := fld d 908 25

/-! ### Masks (R204) -/

/-- Is the pair of query row i and key row k masked? -/
def masked (m : Tbl Byte) (e : TaskEnv) (i k : Nat) : Bool :=
  let d := e.d
  let pq := AB.qpos d + i
  let pk := AB.kpos d + k
  match AB.mask d with
  | 0 => false
  | 1 => decide (pq < pk)
  | 2 => !(decide (pq < pk + AB.window d) && decide (pk ≤ pq))
  | _ => match e.r 5 with
    | some t => !(t.val m t.base (i / 32) (k / 32)).isNz
    | none => true

/-- Is some pair of a query of one list and a key of another unmasked? -/
def pairSeen (m : Tbl Byte) (e : TaskEnv) (qs ks : List Nat) : Bool := qs.any fun i => ks.any fun k => !masked m e i k

/-- The indices of tile t below n. -/
def tileOf (n t : Nat) : List Nat := ((List.range 32).map (32 * t + ·)).filter fun i => decide (i < n)

/-- The key-value head of a query head. -/
def kvHead (e : TaskEnv) (h : Nat) : Nat := h / 2 ^ AB.gqa e.d

/-- The query heads of a key-value head. -/
def qHeads (e : TaskEnv) (nh kv : Nat) : List Nat := (List.range nh).filter fun h => kvHead e h = kv

/-! ### Declared anchors and attention sums -/

/-- Does a tensor force the declared anchor: it lacks tags and is no Selvedge-64 (R90)? -/
def TRec.untagged (t : TRec) : Bool := !t.raw && !t.selv && !FW.tags t.fmt

/-- Does a task run with the declared anchor: an operand, input or preload other than Selvedge-64 lacks tags (R90)? Of a backward ATTN task
it is dO that may lack them (R203, R225). -/
def declaredTask (e : TaskEnv) : Bool :=
  (match TD.typ e.d, TD.variant e.d with | 0, _ => [0, 1, 3] | 1, 2 => [4] | _, _ => []).any fun i => match e.r i with
    | some t => t.untagged
    | none => false

/-- Anchor of the value sum of an attention output block (R214): the largest tile gauge of V along its columns, per (key)
tile not wholly masked; the mask of whole tiles is `seen`. -/
def valueAnchor (m : Tbl Byte) (v : TRec) (col i2 i3 : Nat) (seen : Nat → Bool) : Option Int :=
  (List.range (cdiv v.e1 32)).foldl (fun a kt =>
    if seen kt then maxO a (tileGauge m v 1 0 kt (col / 32) [0, 0, i2, i3]) else a) none

/-- The local anchor of a block of dV at key row j of key-value head kv, columns from c on (R225): 1 plus the largest tile gauge of dO over
the query tiles not wholly masked for the key tile. -/
def dvAnchor (m : Tbl Byte) (e : TaskEnv) (q k dO : TRec) (j kv c : Nat) : Option Int :=
  (qHeads e q.e2 kv).foldl (fun a h => (List.range (cdiv q.e1 32)).foldl (fun a it =>
    if pairSeen m e (tileOf q.e1 it) (tileOf k.e1 (j / 32)) then maxO a ((tileGauge m dO 1 0 it (c / 32) [0, 0, h, 0]).map (· + 1)) else a) a) none

/-- The anchor clamped to its 16 bits; no contribution gives 0 (R80). -/
def anchorOf : Option Int → Int
  | none => 0
  | some t => max (-32768) (min 32767 t)

end Sys2Proof.Machine
end

