-- ==== Sys2Proof/Machine/Net.lean ====
section
/-! DEFINITION. Longshore: streams, acknowledgements, joins, holds, congestion (spec/12 R316, R319 to R334). -/
namespace Sys2Proof.Machine

/-! ### Sub-ports in service (R313, R334) -/

/-- Is a sub-port in service (R313)? -/
def State.inService (s : State) (i : Nat) : Bool :=
  let st := ((s.port (i / 8)).subst[i % 8]?).getD 0
  st = 3 || st = 4
/-- Spray weight of a sub-port: its lanes in use (R313, R317). -/
def State.weight (s : State) (i : Nat) : Nat := if s.inService i then (List.range 8).countP (((s.port (i / 8)).lanes[i % 8]?).getD 0).getLsbD else 0
/-- The module's in-service bitmap. -/
def State.bitmap (s : State) : Nat := sumN ((List.range 256).map fun i => if s.inService i then 2 ^ i else 0)

/-- Smooth weighted round-robin over the in-service sub-ports but one (R328, R334): the choice and the new credits. -/
def State.spray (s : State) (tc : Nat) (avoid : Option Nat) : Option (Nat × State) :=
  let l := (List.range 256).filter fun i => decide (0 < s.weight i)
  let l := match avoid with
    | some a => if l.length = 1 then l else l.filter (· ≠ a)
    | none => l
  match l with
  | [] => none
  | h :: _ =>
    let total := sumN (l.map s.weight)
    let w := l.foldl (fun w i => tset 0 w (tc * 256 + i) (tget 0 w (tc * 256 + i) + (s.weight i : Int))) s.fab.wrr
    let best := l.foldl (fun b i => if tget 0 w (tc * 256 + b) < tget 0 w (tc * 256 + i) then i else b) h
    some (best, { s with fab := { s.fab with wrr := tset 0 w (tc * 256 + best) (tget 0 w (tc * 256 + best) - (total : Int)) } })

/-! ### Peers and streams -/

/-- Streams and peers are kept in lists keyed by context, rank and class. -/
def State.stream (s : State) (c r tc : Nat) : Stream :=
  (s.fab.streams.find? fun x => x.ctx = c ∧ x.peer = r ∧ x.tc = tc).getD { ctx := c, peer := r, tc := tc }
/-- A stream replaced or added. -/
def State.setStream (s : State) (x : Stream) : State :=
  { s with fab := { s.fab with streams := s.fab.streams.filter (fun y => ¬(y.ctx = x.ctx ∧ y.peer = x.peer ∧ y.tc = x.tc)) ++ [x] } }
/-- What is known of a rank. -/
def State.peer (s : State) (c r : Nat) : Peer := (s.fab.peers.find? fun x => x.ctx = c ∧ x.rank = r).getD { ctx := c, rank := r }
/-- A peer replaced or added. -/
def State.setPeer (s : State) (x : Peer) : State :=
  { s with fab := { s.fab with peers := s.fab.peers.filter (fun y => ¬(y.ctx = x.ctx ∧ y.rank = x.rank)) ++ [x] } }
/-- The rate toward a rank in a class. -/
def State.rate (s : State) (c r tc : Nat) : Rate := (s.fab.rates.find? fun x => x.ctx = c ∧ x.rank = r ∧ x.tc = tc).getD { ctx := c, rank := r, tc := tc }
/-- A rate replaced or added. -/
def State.setRate (s : State) (x : Rate) : State :=
  { s with fab := { s.fab with rates := s.fab.rates.filter (fun y => ¬(y.ctx = x.ctx ∧ y.rank = x.rank ∧ y.tc = x.tc)) ++ [x] } }
/-- A drop counted on the `LSH` page, one counter for each check (R325, R327, R382): 1 to 6 the checks, 7 window or
duplicate, 8 ledger. -/
def State.drop (s : State) (k : Nat) : State := { s with fab := { s.fab with drops := tset 0 s.fab.drops k (tget 0 s.fab.drops k + 1) } }
/-- The rank-table entry of a rank (R333). -/
def Ctx.entry (x : Ctx) (r : Nat) : BitVec 256 := tget 0 x.cfg.ranks r
/-- `VALID` of an entry. -/
def entryValid (e : BitVec 256) : Bool := e.getLsbD 107
/-- The UDP port of an entry; 0 means 47,600. -/
def entryPort (e : BitVec 256) : Nat := if BV.fld e 112 16 = 0 then 47600 else BV.fld e 112 16

/-- A rank becomes unreachable (R329): logged, the `LSH` interrupt of the context's function, nothing more is sent. -/
def State.unreachable (s : State) (c r : Nat) : State :=
  let p := s.peer c r
  if p.unreachable then s else
  let s := s.setPeer { p with unreachable := true, joining := false, held := false }
  (s.log { code := 0x0604, sev := 3, ctx := c, data := r }).hold c 6

/-! ### Building and sending packets -/

/-- What a packet says beside its addresses and its sequence number. -/
structure Msg where
  typ : Nat := 1
  tc : Nat
  pfmt : Nat := 0
  redid : Nat := 0
  chunk : Nat := 0
  offset : Nat := 0
  epoch : Nat := 0
  ledger : Nat := 0
  last : Bool := false
  climb : Bool := false
  poison : Bool := false
  rctx : Option Nat := none
  payload : List Byte := []
  deriving DecidableEq, Repr

/-- The packet of a message from a context to a rank, before its sequence number, acknowledgement and CRC. -/
def State.packet (s : State) (c r : Nat) (m : Msg) : Packet :=
  let x := s.ctx c
  let e := x.entry r
  { hdr := BitVec.ofNat 512 (2 * 2 ^ 508 + m.typ * 2 ^ 504 + m.tc * 2 ^ 501 + m.rctx.getD (BV.fld e 108 4) % 16 * 2 ^ 497 + (s.peer c r).gen % 256 * 2 ^ 489
      + m.epoch % 16 * 2 ^ 485 + x.cfg.job.toNat * 2 ^ 461 + x.cfg.rank.toNat * 2 ^ 441 + r % 2 ^ 20 * 2 ^ 421
      + m.redid % 2 ^ 20 * 2 ^ 273 + m.chunk % 2 ^ 20 * 2 ^ 253 + m.offset % 2 ^ 32 * 2 ^ 221 + m.payload.length % 2 ^ 14 * 2 ^ 207
      + m.pfmt % 16 * 2 ^ 203 + m.ledger % 2 ^ 61 * 2 ^ 142 + m.last.toNat * 2 ^ 137 + m.climb.toNat * 2 ^ 136 + m.poison.toNat * 2 ^ 135)
    payload := m.payload }

/-- The acknowledgement fields of a stream's receive side put into a header (R322): the next expected number, the bits
above it, the echo of the last time stamp. -/
def Stream.ackFields (x : Stream) (h : BitVec 512) : BitVec 512 :=
  let sack := sumN ((List.range 64).map fun b => if x.got.contains ((x.cum + 1 + b) % 2 ^ 32) then 2 ^ b else 0)
  let h := BV.put (BV.put (BV.put h 357 32 x.cum) 293 64 sack) 62 32 x.tsLast
  BV.put (BV.put h 141 1 1) 140 1 x.ce.toNat

/-- Is a class paused on a port (R312)? Pause frames name priorities, to which the port maps its classes. -/
def Port.paused (p : Port) (tc : Nat) : Bool := p.pfcEn && p.pfcPause.getLsbD (nth 0 p.pcp tc)

/-- A packet leaves on a sub-port as a frame (R319, R333), or waits at its port while its priority is paused; its time stamp is a free value. -/
def State.transmit (s : State) (c r : Nat) (sub : Nat) (p : Packet) : State :=
  let port := s.port (sub / 8)
  if port.paused (LS.tc p.hdr) then s.setPort (sub / 8) { port with waitq := port.waitq ++ [{ ctx := c, rank := r, sub := sub, pkt := p }] } else
  let x := s.ctx c
  let e := x.entry r
  let bm := (s.peer c r).bitmap
  let d := ((List.range 256).map fun k => (sub + k) % 256).find? fun i => bm.getLsbD i
  let dst := d.getD sub
  let (t, s) := s.draw
  let p := Packet.sealCrc { p with hdr := BV.put p.hdr 94 32 (t % 2 ^ 32) }
  let a := tget 0 s.fab.addrs sub
  let addr := BitVec.ofNat 128 (setFld (BV.fld e 128 128) 0 8 dst)
  let saddr := if isV4 addr then BitVec.ofNat 128 (0xFFFF * 2 ^ 32 + BV.fld a 48 32) else BitVec.ofNat 128 (BV.fld a 80 128)
  let sport := 0xC000 + LS.seq p.hdr % 2 ^ 14
  let f : Frame := { sub := sub, dstSub := dst, vlan := x.cfg.vlan.toNat, pcp := nth 0 port.pcp (LS.tc p.hdr), dscp := BitVec.ofNat 6 (nth 0 port.dscp (LS.tc p.hdr))
                     mac := tget 0 s.fab.nextHop sub, smac := BitVec.ofNat 48 (BV.fld a 0 48), addr := addr, saddr := saddr
                     udpSrc := sport, udpDst := entryPort e
                     udpSum := udpChecksum saddr addr sport (entryPort e) (toBE 64 p.hdr.toNat ++ p.payload), pkt := p }
  s.sendFrames [f]

/-- A packet that belongs to no stream (JOIN, JOIN_ACK, RESETTING, PROBE, ACK), sent at once where a sub-port serves; not to a rank without
a valid entry, which is unreachable (R333), and to an unreachable rank only the answer to its JOIN (R329). -/
def State.sendLoose (s : State) (c r : Nat) (m : Msg) (ack : Option Stream := none) : State :=
  if !entryValid ((s.ctx c).entry r) then (if (s.ctx c).st = .live then s.unreachable c r else s) else
  if (s.peer c r).unreachable ∧ m.typ ≠ 4 then s else
  match s.spray m.tc none with
  | none => s
  | some (sub, s) =>
    let p := s.packet c r m
    let p := match ack with
      | some x => { p with hdr := x.ackFields p.hdr }
      | none => p
    s.transmit c r sub p

/-- The payload of JOIN and JOIN_ACK (R332). -/
def joinPayload (chosen reason gen bitmap : Nat) : List Byte :=
  [2, 2, BitVec.ofNat 8 chosen, BitVec.ofNat 8 reason, BitVec.ofNat 8 gen] ++ List.replicate 11 0 ++ toLE 32 bitmap

/-- A JOIN sent to a rank (R332). -/
def State.sendJoin (s : State) (c r : Nat) : State :=
  s.sendLoose c r { typ := 3, tc := 0, payload := joinPayload 0 0 (s.ctx c).gen.toNat s.bitmap }

/-- A stream sends what it may of its queue, under the generation learned at join (R322, R326, R330, R332). Fuel bounds the packets. -/
def State.flush (s : State) (c r tc : Nat) : Nat → State
  | 0 => s
  | f + 1 =>
    let x := s.stream c r tc
    let p := s.peer c r
    match x.txq with
    | [] => s
    | k :: rest =>
      if !p.joined ∨ p.held ∨ p.unreachable ∨ 4096 ≤ x.unacked.length then s else
      match s.spray tc none with
      | none => s
      | some (sub, s) =>
        let h := BV.put (BV.put k.hdr 389 32 x.nextSeq) 489 8 p.gen
        let h := if 0 < x.sinceAck then x.ackFields h else h
        let k := { k with hdr := h }
        let y := { x with txq := rest, unacked := x.unacked ++ [(x.nextSeq, sub, k)], nextSeq := (x.nextSeq + 1) % 2 ^ 32
                          sinceAck := 0, ce := if 0 < x.sinceAck then false else x.ce }
        ((s.setStream y).transmit c r sub k).flush c r tc f

/-- A DATA message to a rank: queued on its stream, joined first where needed (R332, R333). -/
def State.lsSend (s : State) (c r : Nat) (m : Msg) : State :=
  if !entryValid ((s.ctx c).entry r) then s.unreachable c r else
  let p := s.peer c r
  if p.unreachable then s else
  let x := s.stream c r m.tc
  let s := s.setStream { x with txq := x.txq ++ [s.packet c r m] }
  if p.joined then s.flush c r m.tc 4097
  else if p.joining then s
  else (s.setPeer { p with joining := true, tries := 1 }).sendJoin c r

/-- Several DATA messages to a rank. -/
def State.lsSendAll (s : State) (c r : Nat) (l : List Msg) : State := l.foldl (fun s m => s.lsSend c r m) s

/-- A lost packet goes out again with `F_RETX` on another sub-port (R328), but not to an unreachable rank (R329). -/
def State.resend (s : State) (c r tc seq : Nat) : State :=
  let x := s.stream c r tc
  if (s.peer c r).unreachable then s else
  match x.unacked.find? (·.1 = seq) with
  | none => s
  | some (_, sub, p) =>
    match s.spray tc (some sub) with
    | none => s
    | some (sub', s) =>
      let p := { p with hdr := BV.put p.hdr 138 1 1 }
      (s.setStream { x with unacked := x.unacked.map fun u => if u.1 = seq then (seq, sub', p) else u }).transmit c r sub' p

/-- An acknowledgement of a stream, as an ACK packet of its class (R327). -/
def State.sendAck (s : State) (c r tc : Nat) : State :=
  let x := s.stream c r tc
  (s.sendLoose c r { typ := 2, tc := tc } (some x)).setStream { x with sinceAck := 0, ce := false }

/-! ### Congestion (R331), in units of 2^−32 of capacity (log 26) -/

/-- `F_ECE` received: α rises; the rate falls unless a decrease happened within the last 4 µs, which a free bit tells. -/
def Rate.ece (x : Rate) (k : Cong) (allow : Bool) : Rate :=
  let a := x.alpha + (2 ^ 32 - x.alpha) / k.gainDen
  { x with alpha := a, r := if allow then max (2 ^ 32 / k.floorDen) (x.r * (2 ^ 33 - a) / 2 ^ 33) else x.r }
/-- 4 µs without `F_ECE`. -/
def Rate.decay (x : Rate) (k : Cong) : Rate := { x with alpha := x.alpha * k.decayNum / k.decayDen }
/-- 8 µs without `F_ECE`. -/
def Rate.increase (x : Rate) (k : Cong) : Rate := { x with r := min (2 ^ 32) (x.r + 2 ^ 32 / k.incDen) }
/-- The classes that are rate-controlled. -/
def rated (tc : Nat) : Bool := [2, 3, 5, 6].contains tc

/-! ### Receiving -/

/-- Is sequence number a before b (modulo 2^32)? -/
def seqBefore (a b : Nat) : Bool := decide (a ≠ b ∧ (b + 2 ^ 32 - a) % 2 ^ 32 < 2 ^ 31)

/-- An acknowledgement for a stream (R328, R331): acknowledged packets leave, losses are sent again, the rate adjusts, the
timeout returns to its measured (free) value when the acknowledgement advances. -/
def State.onAck (s : State) (c r : Nat) (h : BitVec 512) : State :=
  let tc := LS.tc h
  let x := s.stream c r tc
  let a := LS.ack h
  let base := (a + 1 + 64 * LS.sackofs h) % 2 ^ 32
  let sacked (q : Nat) : Bool := (List.range 64).any fun b => bitOf (LS.sack h) b && (base + b) % 2 ^ 32 = q
  let done (q : Nat) : Bool := seqBefore q a || sacked q
  let left := x.unacked.filter fun u => !done u.1
  let adv := x.unacked.any fun u => seqBefore u.1 a
  let top := (List.range 64).foldl (fun t b => if bitOf (LS.sack h) b then (base + b) % 2 ^ 32 else t) ((a + 2 ^ 32 - 1) % 2 ^ 32)
  let (k, s) := s.draw
  let s := s.setStream { x with unacked := left, expiries := if adv then 0 else x.expiries, rto := if adv then max 20000 (k % 10000000) else x.rto }
  let s := if LS.ece h ∧ rated tc then s.setRate ((s.rate c r tc).ece s.fab.cong (k % 2 = 1)) else s
  let lost := (left.map (·.1)).filter fun q => !seqBefore top ((q + 64) % 2 ^ 32)
  let s := lost.foldl (fun s q => s.resend c r tc q) s
  s.flush c r tc 4097

/-- Formats a class carries (R321, R324). -/
def fmtInClass (tc pfmt : Nat) : Bool :=
  match tc with
  | 1 => pfmt = 8
  | 2 => pfmt = 1 || pfmt = 2 || pfmt = 3 || pfmt = 5
  | 3 => pfmt = 1
  | 4 => pfmt = 4 || pfmt = 9
  | 5 => pfmt = 6
  | 6 => pfmt = 7
  | _ => false

/-- The first check of R325 a received packet fails, if any. Checks 4 and 5 do not apply to JOIN and JOIN_ACK, whose answers
name those mismatches (R332, log 13). -/
def State.rxCheck (s : State) (p : Packet) : Option Nat :=
  let h := p.hdr
  let t := LS.typ h
  let x := s.ctx (LS.ctx h)
  let join := t = 3 || t = 4
  if LS.crc h ≠ p.crc then some 1
  else if LS.ver h ≠ 2 ∧ !join then some 2
  else if 65535 < LS.src h ∨ 65535 < LS.dst h then some 3
  else if !join ∧ (x.st ≠ .live ∨ x.cfg.job.toNat ≠ LS.job h ∨ x.cfg.rank.toNat ≠ LS.dst h) then some 4
  else if !join ∧ LS.gen h ≠ x.gen.toNat then some 5
  else if t = 0 ∨ 6 < t ∨ LS.tc h = 7 ∨ 9 < LS.pfmt h ∨ (t = 1 ∧ !fmtInClass (LS.tc h) (LS.pfmt h)) ∨ (2 < t ∧ LS.tc h ≠ 0) then some 6
  else none

/-- RESETTING sent to a rank with the bound of a level in ms (R330, R399). -/
def State.sendResetting (s : State) (c r ms : Nat) : State := s.sendLoose c r { typ := 5, tc := 0, payload := toLE 4 ms }

/-- The bound in ms that RESETTING states for DATA of a context that resets, or of any context while a partition resets, whose streams are
lost (R330, R423, log 85). -/
def State.resettingFor (s : State) (c : Nat) : Option Nat :=
  if s.esc.active = 4 then some 400 else if (s.ctx c).resetting then some 5 else none

/-- A packet of this module's streams arrives (R325 to R327): nothing answers without Headland power (R485); checks, the acknowledgement it carries, the window, delivery by
its handler, and the acknowledgement due. The handler tells whether the packet is taken; one that is not stays unacknowledged. -/
def State.acceptIf (s : State) (f : Frame) (handle : State → Packet → State × Bool) : State :=
  let p := f.pkt
  let h := p.hdr
  if !s.pwr.rails then s else
  match s.rxCheck p with
  | some k => s.drop k
  | none =>
    let c := LS.ctx h
    let r := LS.src h
    let tc := LS.tc h
    let s := if LS.ackv h then s.onAck c r h else s
    if LS.typ h ≠ 1 then (handle s p).1 else
    match s.resettingFor c with
    | some ms => s.sendResetting c r ms
    | none =>
    let x := s.stream c r tc
    let q := LS.seq h
    let d := (q + 2 ^ 32 - x.cum) % 2 ^ 32
    if 4096 ≤ d ∨ x.got.contains q then (s.drop 7).sendAck c r tc else
    let (s, took) := handle s p
    if !took then s else
      let x := s.stream c r tc
      let got := x.got ++ [q]
      let adv := (List.range 4097).foldl (fun a _ => if got.contains a then (a + 1) % 2 ^ 32 else a) x.cum
      let x := { x with cum := adv, got := got.filter fun g => !seqBefore g adv, badSeq := x.badSeq.filter (· ≠ q)
                        sinceAck := x.sinceAck + 1, ce := x.ce || f.ecn = 3, tsLast := LS.tstamp h }
      let s := s.setStream x
      if 16 ≤ x.sinceAck ∨ LS.ackreq h then s.sendAck c r tc else s

/-- The same with a handler that answers a state, or none to leave the packet unacknowledged. -/
def State.accept (s : State) (f : Frame) (handle : State → Packet → Option State) : State :=
  s.acceptIf f fun s p => match handle s p with
    | some t => (t, true)
    | none => (s, false)

/-! ### Joins, holds and probes -/

/-- All classes. -/
def allTc : List Nat := [0, 1, 2, 3, 4, 5, 6]

/-- The streams with a rank restart at 0 and drop what they held (R330, R332). Was there a stream to restart? -/
def State.restart (s : State) (c r : Nat) : State × Bool :=
  let had := s.fab.streams.any fun x => x.ctx = c ∧ x.peer = r ∧ (x.nextSeq ≠ 0 ∨ x.cum ≠ 0 ∨ !x.unacked.isEmpty)
  ({ s with fab := { s.fab with streams := s.fab.streams.map fun x =>
      if x.ctx = c ∧ x.peer = r then { x with nextSeq := 0, unacked := [], expiries := 0, cum := 0, got := [], badSeq := [], sinceAck := 0, rto := 50000 } else x } }, had)

/-- A stream restart fails the attempts of the context's RUNNING training graphs (R403). -/
def State.failRunning (s : State) (c : Nat) : State :=
  (s.liveSlots c).foldl (fun s n => if (s.slot n).st = .running ∧ (s.slot n).graph.training then s.failAttempt n false else s) s

/-- Everything a joined rank's streams may send. -/
def State.flushAll (s : State) (c r : Nat) : State := allTc.foldl (fun s tc => s.flush c r tc 4097) s

/-- A lender that sees an owner under a newer generation releases its pages (R308). -/
def State.releaseLent (s : State) (c r gen : Nat) : State :=
  { s with pager := { s.pager with lent := s.pager.lent.filter fun l => !(l.ctx = c && l.rank = r && l.gen ≠ gen) } }

/-- JOIN_RX: a JOIN is answered with a JOIN_ACK; one that ends a hold is followed by the module's own JOIN, repeated until its answer
(R330, R332). -/
def State.onJoin (s : State) (p : Packet) : State :=
  let h := p.hdr
  let c := LS.ctx h
  let r := LS.src h
  let x := s.ctx c
  let lo := (nth 0 p.payload 0).toNat
  let hi := (nth 0 p.payload 1).toNat
  let why := if ¬(lo ≤ 2 ∧ 2 ≤ hi) then 1 else if x.st ≠ .live then 3 else if x.cfg.job.toNat ≠ LS.job h then 2
    else if x.cfg.rank.toNat ≠ LS.dst h then 4 else 0
  let gen := (nth 0 p.payload 4).toNat
  let bm := BitVec.ofNat 256 (ofLE ((p.payload.drop 16).take 32))
  if why ≠ 0 then
    (s.sendLoose c r { typ := 4, tc := 0, payload := joinPayload 0 why x.gen.toNat s.bitmap })
  else
    let q := s.peer c r
    let (s, had) := (s.releaseLent c r gen).restart c r
    let s := s.setPeer { q with joined := !q.held, joining := q.held, tries := if q.held then 1 else q.tries, unreachable := false, gen := gen, bitmap := bm, held := false }
    let s := s.sendLoose c r { typ := 4, tc := 0, payload := joinPayload 2 0 x.gen.toNat s.bitmap }
    let s := if had ∨ q.held then s.failRunning c else s
    if q.held then s.sendJoin c r else s.flushAll c r

/-- JOIN_ACK_RX (R332). -/
def State.onJoinAck (s : State) (p : Packet) : State :=
  let h := p.hdr
  let c := LS.ctx h
  let r := LS.src h
  let q := s.peer c r
  if !q.joining ∧ q.joined then s else
  if (nth 0 p.payload 2).toNat = 2 ∧ (nth 0 p.payload 3).toNat = 0 then
    let (s, had) := (s.releaseLent c r (nth 0 p.payload 4).toNat).restart c r
    let s := s.setPeer { q with joined := true, joining := false, gen := (nth 0 p.payload 4).toNat, bitmap := BitVec.ofNat 256 (ofLE ((p.payload.drop 16).take 32)) }
    let s := if had then s.failRunning c else s
    s.flushAll c r
  else
    (s.log { code := 0x0605, sev := 3, ctx := c, data := r }).unreachable c r

/-- Pages with a far copy, as page numbers. -/
def FarPage.num (f : FarPage) : Nat := (f.ctx * 2 ^ 40 / 2 ^ 21) + f.page

/-- A far page is lost: every block poisoned (R308). A resident page only loses its far copy. -/
def State.losePage (s : State) (f : FarPage) : State :=
  let s := { s with pager := { s.pager with far := s.pager.far.filter (fun g => g.num ≠ f.num) } }
  if f.resident then s else
  (s.poisonRange (f.num * 2 ^ 21) (2 ^ 21)).log { code := 0x0304, sev := 3, ctx := f.ctx, data := f.tid + f.page * 2 ^ 32 }

/-- Every page a context holds far at a lender, or in the host region, is lost. -/
def State.loseFar (s : State) (c : Nat) (lender : Option Nat) : State :=
  (s.pager.far.filter fun f => f.ctx = c && f.lender = lender).foldl (fun s f => s.losePage f) s

/-- A probe, or its answer, with the module's bitmap. -/
def State.sendProbe (s : State) (c r : Nat) : State := s.sendLoose c r { typ := 6, tc := 0, payload := toLE 32 s.bitmap }

/-- PROBE sent to every joined rank when the bitmap has changed (R332). -/
def State.probeIfChanged (s : State) (before : Nat) : State :=
  if s.bitmap = before then s else
  (s.fab.peers.filter fun p => p.joined).foldl (fun s p => s.sendProbe p.ctx p.rank) s

/-- RESETTING to every rank with an open stream of the contexts given (R330). -/
def State.announceReset (s : State) (cs : List Nat) (ms : Nat) : State :=
  (s.fab.peers.filter fun p => p.joined && cs.contains p.ctx).foldl (fun s p => s.sendResetting p.ctx p.rank ms) s

/-! ### Meanings -/

/-- ACK_RX (R328): a held stream whose probe is acknowledged resumes (R330). -/
def execAckRx (frame : Frame) (s : State) : Host.Outcome State Fault Refusal :=
  .next (if LS.typ frame.pkt.hdr ≠ 2 then s else
    s.accept frame fun s p =>
      let q := s.peer (LS.ctx p.hdr) (LS.src p.hdr)
      if q.held then some ((s.setPeer { q with held := false }).flushAll (LS.ctx p.hdr) (LS.src p.hdr)) else some s)

/-- JOIN_RX (R332). -/
def execJoinRx (frame : Frame) (s : State) : Host.Outcome State Fault Refusal :=
  .next (if LS.typ frame.pkt.hdr ≠ 3 then s else s.accept frame fun s p => some (s.onJoin p))

/-- JOIN_ACK_RX (R332). -/
def execJoinAckRx (frame : Frame) (s : State) : Host.Outcome State Fault Refusal :=
  .next (if LS.typ frame.pkt.hdr ≠ 4 then s else s.accept frame fun s p => some (s.onJoinAck p))

/-- RESETTING_RX (R330, R308): the streams toward the sender are held; a stated time of a partition or module reset (400 ms or
more, R399) tells that the pages it lent are lost. -/
def execResettingRx (frame : Frame) (s : State) : Host.Outcome State Fault Refusal :=
  .next (if LS.typ frame.pkt.hdr ≠ 5 then s else s.accept frame fun s p =>
    let s := s.setPeer { s.peer (LS.ctx p.hdr) (LS.src p.hdr) with held := true }
    some (if 400 ≤ ofLE (p.payload.take 4) then s.loseFar (LS.ctx p.hdr) (some (LS.src p.hdr)) else s))

/-- PROBE_RX (R330): the sender's bitmap is kept and the probe acknowledged. -/
def execProbeRx (frame : Frame) (s : State) : Host.Outcome State Fault Refusal :=
  .next (if LS.typ frame.pkt.hdr ≠ 6 then s else s.accept frame fun s p =>
    let c := LS.ctx p.hdr
    let r := LS.src p.hdr
    let s := s.setPeer { s.peer c r with bitmap := BitVec.ofNat 256 (ofLE (p.payload.take 32)) }
    some (s.sendAck c r 0))

/-- RETRANSMIT_TIMER_EXPIRY (R328, R329): the packet is sent again, the timeout doubles up to 10 ms; 16 expiries without an
advance make the rank unreachable. Timers of held streams are suspended, and all of them while no sub-port serves (R316). -/
def execRetransmitTimerExpiry (ctx rank tc seq : Nat) (s : State) : Host.Outcome State Fault Refusal :=
  let x := s.stream ctx rank tc
  .next (if !(x.unacked.any (·.1 = seq)) ∨ (s.peer ctx rank).held ∨ s.bitmap = 0 then s else
    let s := s.setStream { x with expiries := x.expiries + 1, rto := min 10000000 (2 * x.rto) }
    if 16 ≤ x.expiries + 1 then s.unreachable ctx rank else s.resend ctx rank tc seq)

/-- ACK_DELAY_EXPIRY (R327). -/
def execAckDelayExpiry (ctx rank tc : Nat) (s : State) : Host.Outcome State Fault Refusal :=
  .next (if 0 < (s.stream ctx rank tc).sinceAck then s.sendAck ctx rank tc else s)

/-- JOIN_RETRY (R332): the JOIN repeats; after 100 tries the rank is unreachable. -/
def execJoinRetry (ctx rank : Nat) (s : State) : Host.Outcome State Fault Refusal :=
  let p := s.peer ctx rank
  .next (if !p.joining then s else if 100 ≤ p.tries then s.unreachable ctx rank
    else (s.setPeer { p with tries := p.tries + 1 }).sendJoin ctx rank)

/-- PROBE_TIMER (R330). -/
def execProbeTimer (ctx rank : Nat) (s : State) : Host.Outcome State Fault Refusal :=
  .next (if (s.peer ctx rank).held then s.sendProbe ctx rank else s)

/-- HOLD_EXPIRY (R330). -/
def execHoldExpiry (ctx rank : Nat) (s : State) : Host.Outcome State Fault Refusal :=
  .next (if (s.peer ctx rank).held then s.unreachable ctx rank else s)

/-- NO_SERVICE_TIMEOUT (R316): with no sub-port in service every stream is held as by a reset. -/
def execNoServiceTimeout (s : State) : Host.Outcome State Fault Refusal :=
  .next (if s.bitmap = 0 then
    { s with fab := { s.fab with noService := true, peers := s.fab.peers.map fun p => if p.joined then { p with held := true } else p } } else s)

/-- CONGESTION_DECAY (R331). -/
def execCongestionDecay (ctx rank tc : Nat) (s : State) : Host.Outcome State Fault Refusal :=
  .next (if rated tc then s.setRate ((s.rate ctx rank tc).decay s.fab.cong) else s)

/-- CONGESTION_INCREASE (R331). -/
def execCongestionIncrease (ctx rank tc : Nat) (s : State) : Host.Outcome State Fault Refusal :=
  .next (if rated tc then s.setRate ((s.rate ctx rank tc).increase s.fab.cong) else s)

end Sys2Proof.Machine
end

