-- ==== Sys2Proof/Machine/Coll.lean ====
section
/-! DEFINITION. Reductions, gathers and transfers (spec/13 R339 to R365, spec/14 R380 to R386). -/
namespace Sys2Proof.Machine

/-! ### Ledgers (R380, R381) -/

/-- 2^61 − 1. -/
def ledM : Nat := 2 ^ 61 - 1
/-- The weight of element i of a tensor in a step. -/
def ledWeight (seed step tid i : Nat) : Nat :=
  let (a, b, _, _) := philox (Nat.xor (seed % 2 ^ 32) 0x4C454447) (seed / 2 ^ 32 % 2 ^ 32) (i % 2 ^ 32) (i / 2 ^ 32 % 256) (step % 2 ^ 32) (tid % 2 ^ 32)
  (b * 2 ^ 32 + a) % (ledM - 1) + 1
/-- An integer reduced modulo 2^61 − 1. -/
def ledX (x : Int) : Nat := (x % (ledM : Int)).toNat
/-- A ledger over (index, value) pairs. -/
def ledger (seed step tid : Nat) (l : List (Nat × Int)) : Nat := (l.foldl (fun a p => a + ledWeight seed step tid p.1 * ledX p.2) 0) % ledM
/-- The 8-byte words of a run of bytes with their index. -/
def bytes8 (base : Nat) (l : List Byte) : List (Nat × Int) :=
  (List.range (cdiv l.length 8)).map fun k => (base + k, (ofLE ((l.drop (8 * k)).take 8) : Int))

/-! ### Looking things up -/

/-- The checking view of a slot's task. -/
def State.taskEnv (s : State) (n i : Nat) : TaskEnv := (s.admEnv n).task (s.slot n).graph ((s.slot n).desc i)
/-- A reduction of a context. -/
def State.red (s : State) (c r : Nat) : Option Red := s.fab.reds.find? fun x => x.ctx = c ∧ x.redid = r ∧ !x.isGather
/-- A reduction replaced. -/
def State.setRed (s : State) (x : Red) : State :=
  { s with fab := { s.fab with reds := s.fab.reds.map fun y => if y.slot = x.slot ∧ y.task = x.task then x else y } }
/-- Key of a chunk's piece. -/
def pkey (c p : Nat) : Nat := c * 65536 + p
/-- The piece of a chunk that this member accumulates at a stage. -/
def Red.piece (r : Red) (c p k : Nat) : Option Piece := r.pieces.find? fun x => x.chunk = c ∧ x.idx = p ∧ x.stage = k
/-- A piece replaced. -/
def Red.setPiece (r : Red) (x : Piece) : Red :=
  { r with pieces := r.pieces.map fun y => if y.chunk = x.chunk ∧ y.idx = x.idx ∧ y.stage = x.stage then x else y }
/-- Members of the group. -/
def Red.P (r : Red) : Nat := r.ranks.length
/-- Chunk-relative indices of a piece: first and count. -/
def Red.span (r : Red) (p c : Nat) : Nat × Nat := (p * r.pieceN, min r.pieceN (r.chunkLen c - p * r.pieceN))
/-- The number of stages. -/
def Red.stages (r : Red) : Nat := if r.P ≤ 1 then 1 else (grpSt r.grp).length
/-- The members that feed a piece at a stage. -/
def Red.feeds (r : Red) (k : Nat) : List Nat := if r.P ≤ 1 then [0] else grpFeeds r.grp k r.self
/-- Where stage k's contribution of this member for a home goes. -/
def Red.holder (r : Red) (k home : Nat) : Nat := if r.P ≤ 1 then 0 else grpHolder r.grp k r.self home
/-- The stage at which this member's own contributions enter. -/
def Red.enter (r : Red) (c : Nat) : Nat :=
  if r.P ≤ 1 then 0 else ((List.range r.stages).find? fun k => r.holder k (r.home c) ≠ r.self).getD (r.stages - 1)
/-- The members whose reports of a chunk come to this one, over the stages it gathers (R353); agreed words and gathered chunks go back to
them. -/
def Red.down (r : Red) (c : Nat) : List Nat :=
  if r.P ≤ 1 then [] else (List.range r.stages).flatMap fun k =>
    if grpHolds r.grp k r.self (r.home c) then (grpFeeds r.grp k r.self).filter (· ≠ r.self) else []
/-- The member to which this one reports of a chunk (R353). -/
def Red.up (r : Red) (c : Nat) : Nat := r.holder (r.enter c) (r.home c)
/-- Elements of a row of padded numbering (R342). -/
def TRec.padRow (t : TRec) : Nat := alignUp t.e0 t.unit
/-- Row and column of a padded index. -/
def TRec.unpad (t : TRec) (i : Nat) : Nat × Nat := (i / t.padRow, i % t.padRow)
/-- Padded index of a linear index. -/
def TRec.pad (t : TRec) (i : Nat) : Nat := i / t.e0 * t.padRow + i % t.e0
/-- A mask's bit for a row (R229). -/
def maskBit (m : Tbl Byte) (t : TRec) (mode row : Nat) : Bool :=
  let b := if mode = 2 then row / 32 else row
  mode = 0 || t.e0 = 0 || t.code m t.base (b / t.e0) (b % t.e0) = 1
/-- Does the home's own mask keep a row of the reduction (R229, R350)? -/
def State.redKeeps (s : State) (r : Red) (row : Nat) : Bool :=
  let d := (s.slot r.slot).desc r.task
  match s.tensor r.ctx (TD.tref d 2) with
  | some t => maskBit s.mem t (CB.maskMode (TD.spec d <<< 768)) row
  | none => true
/-- The output tensor of a reduction. -/
def State.redOut (s : State) (r : Red) : TRec := (s.tensor r.ctx (TD.tref ((s.slot r.slot).desc r.task) 0)).getD {}
/-- Row of the output that an accumulator belongs to; for attention, query rows with padding (R345). -/
def Red.rowOf (r : Red) (out : TRec) (i : Nat) : Nat := if r.attn then i / r.rowAcc else (out.unpad i).1
/-- Is an accumulator padding, never written (R342, R345)? -/
def Red.padding (r : Red) (out : TRec) (i : Nat) : Bool :=
  if r.attn then decide (out.e1 ≤ i / r.rowAcc % alignUp out.e1 32) else decide (out.e0 ≤ (out.unpad i).2 ∨ out.rows ≤ (out.unpad i).1)
/-- The ledger index of an accumulator (R345, R380). -/
def Red.ledIx (r : Red) (out : TRec) (i : Nat) : Nat := if r.attn then i else let (a, b) := out.unpad i; out.lin a b
/-- The ledger of accumulators of a reduction. -/
def State.redLedger (s : State) (r : Red) (l : List (Nat × SkeinW)) : Nat :=
  let out := s.redOut r
  ledger (s.ctx r.ctx).cfg.seed.toNat (s.slot r.slot).step.toNat out.tid (l.map fun p => (r.ledIx out p.1, (Sk.of p.2).acc))

/-- The mask digest of a piece (R348): over the mask bits of the rows that hold its elements, packed as B1 codes. -/
def State.maskDigest (s : State) (r : Red) (mask : Option TRec) (mode c p : Nat) : Nat :=
  match mask with
  | none => 0
  | some t =>
    if mode = 0 then 0 else
    let out := s.redOut r
    let (a, n) := r.span p c
    let lo := r.rowOf out (c * r.chunkN + a)
    let hi := r.rowOf out (c * r.chunkN + a + n - 1)
    let rows := (List.range (hi + 1 - lo)).map fun k => lo + k
    let bits := if mode = 2 then (rows.map (· / 32)).eraseDups else rows
    let v := sumN ((List.range bits.length).map fun k => if maskBit s.mem t 1 (nth 0 bits k) then 2 ^ k else 0)
    crc64 (toLE (cdiv bits.length 8) v)

/-- The digest of a home's own mask. -/
def State.homeDigest (s : State) (r : Red) (c p : Nat) : Nat :=
  let d := (s.slot r.slot).desc r.task
  s.maskDigest r (s.tensor r.ctx (TD.tref d 2)) (CB.maskMode (TD.spec d <<< 768)) c p

/-! ### Opening (R346, R357) -/

/-- Ranks of a group record, or of a group of one where none is named. -/
def State.groupOf (s : State) (c g : Nat) : BitVec 512 × List Nat :=
  let r := tget 0 s.fab.groups g
  if grpValid r then (r, grpRanks (s.ctx c).cfg.grid r) else (r, [(s.ctx c).cfg.rank.toNat])

/-- The reduction of a REDUCE task, or the gather of a GATHER task, as it opens (R341 to R346). Each replay starts at the
epoch after the highest used before (R364). -/
def State.newRed (s : State) (n i : Nat) : Red :=
  let x := s.slot n
  let c := x.ctx.toNat
  let d := x.desc i
  let gather := TD.variant d = 1
  let (g, ranks) := s.groupOf c (if gather then CB.cgroup (TD.spec d <<< 768) else TD.group d)
  let out := (s.tensor c (TD.tref d 0)).getD {}
  let con := (List.range x.graph.tasks.length).filter fun j => TD.typ (x.desc j) ≤ 1 && TD.redid (x.desc j) = TD.redid d
  let attn := !gather && con.any fun j => TD.typ (x.desc j) = 1 && TD.variant (x.desc j) = 0
  let cmp := !gather && con.any fun j => TD.typ (x.desc j) = 0 && TD.variant (x.desc j) = 2
  let decl := con.any (fun j => declaredTask (s.taskEnv n j))
    || (!gather && !attn && TD.premem d = 0xFFFFF && ((s.tensor c (TD.tref d 1)).map TRec.untagged).getD false)
  let acc := if attn then out.e0 + 32 else 1
  { ctx := c, slot := n, task := i, redid := TD.redid d, isGather := gather, attn := attn, cmp := cmp, ranks := ranks, grp := g
    self := (ranks.findIdx? (· = (s.ctx c).cfg.rank.toNat)).getD 0
    cls := TD.cls d, chunkLg := CB.chunkLg (TD.spec d <<< 768)
    elems := if attn then alignUp out.e1 32 * out.e2 * acc else out.padded, rowAcc := acc
    declared := if decl then some (TD.danchor d) else none
    epoch := tget 0 (s.ctx c).epochs (TD.redid d) }

/-- The pieces this member gathers, with pieces 0 and 1 of each chunk due (R344, R353). -/
def Red.withPieces (r : Red) : Red :=
  { r with pieces := (List.range r.chunks).flatMap fun c => (List.range r.stages).flatMap fun k =>
      if (r.P ≤ 1 ∧ k = 0) ∨ (1 < r.P ∧ grpHolds r.grp k r.self (r.home c)) then
        (List.range (r.npieces c)).map fun p => { chunk := c, idx := p, stage := k, due := decide (p < 2) }
      else [] }

/-- A chunk signal to a member of a reduction (R363), or the same effect on this member itself. -/
def signalMsg (kind redid chunk piece count digest : Nat) (epoch ledger : Nat := 0) : Msg :=
  { tc := 4, pfmt := 9, redid := redid, chunk := chunk, epoch := epoch, ledger := ledger, last := kind = 3, climb := kind = 2
    payload := signalPayload kind piece count digest }

/-- Every rank of a reduction but this one. -/
def Red.others (r : Red) : List Nat := (List.range r.P).filterMap fun m => if m = r.self then none else some (nth 0 r.ranks m)

/-- A signal to every other member. -/
def State.toOthers (s : State) (r : Red) (m : Msg) : State := r.others.foldl (fun s q => s.lsSend r.ctx q m) s

/-- A reduction opens when its slot enters RUNNING (R346): anchor GRANTs for the chunks this member homes. A task of zero
elements completes at dispatch with no traffic (R288, R342). -/
def State.openRed (s : State) (n i : Nat) : State :=
  let r := (s.newRed n i).withPieces
  let s := { s with fab := { s.fab with reds := s.fab.reds ++ [r] } }
  let own := (List.range r.chunks).filter fun c => r.elems ≠ 0 ∧ r.home c = r.self
  let s := own.foldl (fun s c => s.toOthers r (signalMsg 4 r.redid c 0xFFFF 0 0 r.epoch)) s
  s.setRed { r with grantA := own }

/-- Tidepool slots and HBM accumulation units taken in a partition (R354, R357): slot numbers by context, unit numbers. -/
def State.areas (s : State) (part : Nat) (spilled : Bool) : List (Nat × Nat) :=
  s.fab.reds.flatMap fun r => r.pieces.flatMap fun p =>
    if p.claimed && !p.drained && p.spilled = spilled && (p.chunk + p.idx) % 2 = part then p.area.map fun a => (r.ctx, a) else []
/-- Slots a context's pieces hold (`USED`). -/
def State.usedSlots (s : State) (part c : Nat) : Nat := ((s.areas part false).filter (·.1 = c)).length
/-- A context's Tidepool quota. -/
def State.quotaOf (s : State) (part c : Nat) : Nat := (((s.tdp[part]?).getD {}).quota[c]?.getD 0).toNat
/-- Free-pool slots not held (`TDP_POOL.FREE`, R356). -/
def State.poolFree (s : State) (part : Nat) : Nat :=
  let live := (List.range 16).filter fun c => s.live c
  let cap := 128 - sumN (live.map fun c => s.quotaOf part c)
  cap - sumN ((List.range 16).map fun c => s.usedSlots part c - (if s.live c then s.quotaOf part c else 0))

/-- The lowest k numbers below n that are not in a list. -/
def lowest (n k : Nat) (used : List Nat) : List Nat := ((List.range n).filter fun i => !used.contains i).take k

/-- A piece's accumulator words with one contribution added (R355). -/
def accAdd (cmp : Nat) (t : Tbl SkeinW) (i : Nat) (w : SkeinW) : Tbl SkeinW :=
  if cmp = 0 then tset 0 t i ((Sk.of (tget 0 t i)).add (Sk.of w)).toW
  else tset 0 t i (Cmp.comb (cmp = 2) (Cmp.of (tget 0 t i)) (Cmp.of w)).toW

/-- 2 for max, 3 for min in a compare reduction, 0 otherwise: from the program of a contributor task. -/
def State.redCmp (s : State) (r : Red) : Nat :=
  if !r.cmp then 0 else
  let x := s.slot r.slot
  match (List.range x.graph.tasks.length).find? (fun j => TD.typ (x.desc j) = 0 && TD.redid (x.desc j) = r.redid) with
  | some j => (s.taskEnv r.slot j).prog.cmp
  | none => 2

/-- The anchor of a block in force: the agreed or declared one, raised once per climb (R82, R91). -/
def Red.anchor (r : Red) (blk : Nat) : Int :=
  let base := match r.declared with
    | some t => t
    | none => anchorOf ((r.agreed.find? (·.1 = blk)).map (·.2))
  min 32767 (base + 16 * tget 0 r.rises blk)
/-- The anchor of an accumulator's block (attention: the Σp block has anchor 0, R345). -/
def Red.anchorAt (r : Red) (i : Nat) : Int := if r.attn ∧ r.rowAcc ≤ i % r.rowAcc + 32 then 0 else r.anchor (i / 32)

/-- A reserved code was read through a reference (R34, R49, log 47). -/
def State.noteFmt (s : State) (n i ref : Nat) (on : Bool) : State :=
  if !on then s else
  let x := s.slot n
  s.setSlot n (x.setTask i { x.task i with flags := joinFlags (x.task i).flags ((List.range 8).map fun r => if r = ref then 2 else 0) })

/-- The preload tensor that a reduction's home applies: reference 1 of its REDUCE task where `PREMEM` names no rank (R88, R350). -/
def State.homePre (s : State) (r : Red) : Option TRec :=
  let d := (s.slot r.slot).desc r.task
  if TD.premem d ≠ 0xFFFFF then none else s.tensor r.ctx (TD.tref d 1)

/-- The row and column of a home preload that an accumulator takes, broadcast along the axes of extent 1; none at padding and in masked rows
(R87, R230). -/
def State.preAt (s : State) (r : Red) (t : TRec) (i : Nat) : Option (Nat × Nat) :=
  let out := s.redOut r
  let (row, col) := out.unpad i
  if r.padding out i ∨ !s.redKeeps r row then none else
  some (t.rowOf (if t.e1 = 1 then 0 else out.rowIdx row 1) (if t.e2 = 1 then 0 else out.rowIdx row 2) (if t.e3 = 1 then 0 else out.rowIdx row 3),
    if t.e0 = 1 then 0 else col)

/-- Does the preload of a piece read a reserved code (R49)? -/
def State.preFmt (s : State) (r : Red) (p : Piece) : Bool :=
  match s.homePre r with
  | none => false
  | some t =>
    let (a, n) := r.span p.idx p.chunk
    (t.f = .t2 || decide (0 < t.bobs)) && (List.range n).any fun k => match s.preAt r t (p.chunk * r.chunkN + a + k) with
      | some (row, col) => t.fmtFlag s.mem t.base row col
      | none => false

/-- The home's preload added into a claimed piece (R350): one contribution per element of reference 1, none in masked rows (R230). One that
reaches 2^T is not added, and its block climbs (R85). -/
def State.addPreload (s : State) (r : Red) (p : Piece) : Piece × List Nat :=
  match s.homePre r with
  | none => (p, [])
  | some t =>
    let (a, n) := r.span p.idx p.chunk
    (List.range n).foldl (fun (x : Piece × List Nat) k =>
      let (p, cl) := x
      let i := p.chunk * r.chunkN + a + k
      match s.preAt r t i with
      | none => x
      | some (row, col) =>
        let v := t.val s.mem t.base row col
        let (sk, up) := (Contrib.ofVal v).round { T := r.anchor (i / 32), cls := r.cls, epoch := r.epoch % 16, climb := false, valid := true }
        if up then (p, sins cl (i / 32)) else ({ p with acc := accAdd 0 p.acc (a + k) sk.toW }, cl)) (p, [])

/-- The preload with its ledger, and the blocks it climbs (R350, R383). -/
def State.withPreload (s : State) (r : Red) (p : Piece) : Piece × List Nat :=
  let (q, cl) := s.addPreload r p
  ({ q with pre := if r.cmp then 0 else s.redLedger r (q.acc.map fun x => (p.chunk * r.chunkN + x.1, x.2)) }, cl)

/-- Does a piece's preload wait for the agreed anchors of its blocks (R83)? -/
def State.preWaits (s : State) (r : Red) (p : Piece) : Bool :=
  let d := (s.slot r.slot).desc r.task
  let (a, n) := r.span p.idx p.chunk
  decide (p.stage + 1 = r.stages) && TD.premem d = 0xFFFFF && TD.tref d 1 ≠ 0 && !r.attn && !r.cmp && r.declared.isNone
    && (List.range (cdiv n 32)).any fun k => !(r.agreed.any fun x => x.1 = (p.chunk * r.chunkN + a) / 32 + k)

/-- Does a chunk hold a block that climbs in this epoch (R93)? -/
def Red.chunkClimbs (r : Red) (c : Nat) : Bool := r.climbed.any fun b => b * 32 / r.chunkN = c

/-- A block climbs in the current epoch, once (R92). -/
def Red.climb (r : Red) (blk : Nat) : Red := if r.climbed.contains blk then r else { r with climbed := r.climbed ++ [blk] }

/-- A block of a reduction climbs: every other member hears of it (R92). -/
def State.climbRed (s : State) (r : Red) (b : Nat) : State :=
  if r.climbed.contains b then s else
  let ch := b * 32 / r.chunkN
  (s.setRed (r.climb b)).toOthers r (signalMsg 2 r.redid ch 0 (b - ch * r.chunkN / 32) 0 r.epoch)

/-- Blocks of a reduction climb. -/
def State.climbsRed (s : State) (c rid : Nat) (bs : List Nat) : State :=
  bs.foldl (fun s b => match s.red c rid with
    | some r => s.climbRed r b
    | none => s) s

/-- One due piece claims its area at a tick (R357): slots of its context's unused quota, then of the free pool, else HBM
accumulation units (counted as a spill), else it waits, as it does while its preload has no agreed anchor (R83). The piece GRANT follows
its claim. -/
def State.claim (s : State) (r : Red) (p : Piece) : State :=
  let part := (p.chunk + p.idx) % 2
  let (_, n) := r.span p.idx p.chunk
  let k := cdiv n 16384 * (if r.cmp then 2 else 1)
  let free := (s.quotaOf part r.ctx - s.usedSlots part r.ctx) + s.poolFree part
  let units := (s.areas part true).map (·.2)
  let grant (s : State) (q : Piece) : State :=
    let last := decide (p.stage + 1 = r.stages)
    let (q, cl) := if last then s.withPreload r q else (q, [])
    let s := s.noteFmt r.slot r.task 1 (last && s.preFmt r p)
    let s := (s.setRed (r.setPiece q)).climbsRed r.ctx r.redid cl
    let m := signalMsg 4 r.redid p.chunk p.idx 0 0 r.epoch
    (r.feeds p.stage).foldl (fun s j => if j = r.self then s else s.lsSend r.ctx (nth 0 r.ranks j) m) s
  let q := { p with claimed := true, granted := true, acc := [] }
  if s.preWaits r p then s else
  if k ≤ free then grant s { q with area := lowest 128 k ((s.areas part false).map (·.2)) }
  else if units.length + k ≤ 1024 then
    let t := (s.tdp[part]?).getD {}
    grant { s with tdp := s.tdp.setIfInBounds part { t with spill := bump t.spill } } { q with spilled := true, area := lowest 1024 k units }
  else s

/-- Every due piece that holds no area claims, in ascending order of (context, `REDID`, chunk, piece) (R357). -/
def State.claimAll (s : State) : State :=
  let l := s.fab.reds.flatMap fun r => if r.isGather then [] else
    (r.pieces.filter fun p => p.due && !p.claimed && !p.drained && !(r.done.contains p.chunk)).map fun p => (r.ctx, r.redid, p.chunk, p.idx, p.stage)
  let key (x : Nat × Nat × Nat × Nat × Nat) : Nat := ((x.1 * 2 ^ 20 + x.2.1) * 2 ^ 20 + x.2.2.1) * 2 ^ 20 + x.2.2.2.1 * 16 + x.2.2.2.2
  (l.mergeSort fun a b => key a ≤ key b).foldl (fun s (c, rid, ch, p, k) =>
    match s.red c rid with
    | none => s
    | some r => match r.piece ch p k with
      | some q => s.claim r q
      | none => s) s

/-! ### Contributions of this member (R347, R348) -/

/-- A contribution added into a piece this member gathers, or into its outbound area. -/
def State.contribute (s : State) (r : Red) (k i : Nat) (w : SkeinW) : State × Red :=
  let c := i / r.chunkN
  let rel := i % r.chunkN
  let p := rel / r.pieceN
  let out := s.redOut r
  let h := r.holder k (r.home c)
  if r.done.contains c ∨ r.padding out i then (s, r) else
  if h = r.self then
    if k + 1 = r.stages ∧ !s.redKeeps r (r.rowOf out i) then
      let part := (c + p) % 2
      let t := (s.tdp[part]?).getD {}
      ({ s with tdp := s.tdp.setIfInBounds part { t with maskdrop := bump t.maskdrop } }, r)
    else match r.piece c p k with
      | none => (s, r)
      | some q =>
        let m := s.redCmp r
        let key := pkey c p
        if q.claimed then
          (s, { r.setPiece { q with acc := accAdd m q.acc rel w } with
                sentL := tset 0 r.sentL key ((tget 0 r.sentL key + s.redLedger r [(i, w)]) % ledM) })
        else (s, { r with outb := accAdd m r.outb i w })
  else (s, { r with outb := accAdd (s.redCmp r) r.outb i w })

/-- The partial words of an outbound piece, in index order. -/
def Red.outOf (r : Red) (c p : Nat) : List (Nat × SkeinW) :=
  let (a, n) := r.span p c
  let lo := c * r.chunkN + a
  r.outb.filter fun x => decide (lo ≤ x.1 ∧ x.1 < lo + n)

/-- Blocks of 32 accumulators packed into payloads of at most `lim` bytes (R320, R359): (first block, blocks, bytes). -/
def packRuns (lim : Nat) : List (Nat × List Byte) → List (Nat × List Nat × List Byte)
  | [] => []
  | (b, l) :: t =>
    match packRuns lim t with
    | (b', bs, l') :: u => if b' = b + 1 ∧ l.length + l'.length ≤ lim then (b, b :: bs, l ++ l') :: u else (b, [b], l) :: (b', bs, l') :: u
    | [] => [(b, [b], l)]

/-- The outbound partials of a piece leave for the member that gathers them, packed exactly (R347, R359, R361). -/
def State.flushPiece (s : State) (r : Red) (k c p : Nat) : State × Red :=
  let l := r.outOf c p
  if l.isEmpty then (s, r) else
  let h := r.holder k (r.home c)
  let key := pkey c p
  let base := c * r.chunkN
  let r0 := { r with outb := r.outb.filter fun x => !(l.any fun y => y.1 = x.1) }
  if h = r.self then
    l.foldl (fun (sr : State × Red) x => sr.1.contribute sr.2 k x.1 x.2) (s, r0)
  else
    let rank := nth 0 r.ranks h
    let msgs : List (Msg × Nat) :=
      if r.cmp then l.map fun (i, w) => ({ tc := 2, pfmt := 5, redid := r.redid, chunk := c, offset := 32 * (i - base), epoch := r.epoch
                                           payload := toLE 32 w.toNat }, 0)
      else
        let blks := ((l.map fun x => x.1 / 32).eraseDups)
        let recs := blks.map fun b => (b, packBlock ((List.range 32).map fun j => Sk.of (tget 0 r.outb (32 * b + j))))
        (packRuns s.fab.largest.toNat recs).map fun (b, bs, bytes) =>
          let led := s.redLedger r (l.filter fun x => bs.contains (x.1 / 32))
          ({ tc := 2, pfmt := if r.cls = 2 then 3 else 2, redid := r.redid, chunk := c, offset := 16 * (32 * b - base), epoch := r.epoch
             ledger := led, payload := bytes }, led)
    let s := s.lsSendAll r.ctx rank (msgs.map (·.1))
    (s, { r0 with sentN := tset 0 r0.sentN key (tget 0 r0.sentN key + msgs.length)
                  sentL := tset 0 r0.sentL key ((tget 0 r0.sentL key + sumN (msgs.map (·.2))) % ledM) })

/-- Skeins handed to the network interface by wide drains of a segment (R347). -/
def State.takeEmits (s : State) (g : Seg) (es : List Emit) : State :=
  match s.red g.ctx g.redid with
  | none => s
  | some r =>
    let out := s.redOut r
    let (s, r) := es.foldl (fun (sr : State × Red) e =>
      match e.el with
      | 0 => sr
      | i + 1 => if (Anc.of e.anc).climb then sr else sr.1.contribute sr.2 (sr.2.enter (out.pad i / sr.2.chunkN)) (out.pad i) e.w) (s, r)
    let due := (es.filterMap fun e => (if e.el = 0 then none else some (e.el - 1)).map fun i => pkey (out.pad i / r.chunkN) (out.pad i % r.chunkN / r.pieceN)).eraseDups
    let (s, r) := (due.filter fun k => r.grantP.contains k).foldl (fun (sr : State × Red) k => sr.1.flushPiece sr.2 (sr.2.enter (k / 65536)) (k / 65536) (k % 65536)) (s, r)
    s.setRed r

/-- Have all of a reduction's contributor tasks drained every segment (R348)? -/
def State.contribDone (s : State) (r : Red) : Bool :=
  let x := s.slot r.slot
  (List.range x.graph.tasks.length).all fun j =>
    !(TD.typ (x.desc j) ≤ 1 && TD.redid (x.desc j) = r.redid) || decide (max 1 (TD.segments (x.desc j)) ≤ (x.task j).segdone) || TD.segments (x.desc j) = 0

/-- A SHARE_END taken at the gathering member, of a packet or of its own contributions (R348, R349): recorded; a digest that
differs from the home's is counted on the partition's page and logged with the member index, and the step cannot seal: in a training graph
its attempt fails (R232, log 71); in another the piece stays incomplete (R349). -/
def State.takeEnd (s : State) (r : Red) (q : Piece) (e : ShEnd) : State :=
  let same := decide (e.digest = s.homeDigest r q.chunk q.idx)
  let s := s.setRed (r.setPiece { q with ends := q.ends.filter (fun x => x.member ≠ e.member) ++ [e]
                                         mismatch := if same then q.mismatch else sins q.mismatch e.member })
  if same then s else
  let part := (q.chunk + q.idx) % 2
  let t := (s.tdp[part]?).getD {}
  let s := ({ s with tdp := s.tdp.setIfInBounds part { t with digestmm := bump t.digestmm } }).log
    { code := 0x0502, sev := 3, ctx := r.ctx, unit := 8, num := part, data := e.member }
  if (s.slot r.slot).graph.training then s.failAttempt r.slot false else s

/-- This member's SHARE_END for a piece (R348, R383, R385): recorded here where it gathers the piece, else sent. A chunk that holds a
climbing block was not delivered whole (R93). -/
def State.sendEnd (s : State) (c rid ch p : Nat) : State :=
  match s.red c rid with
  | none => s
  | some r =>
    let key := pkey ch p
    if !s.contribDone r ∨ r.chunkClimbs ch ∨ r.ended.contains key ∨ r.done.contains ch ∨ r.chunks ≤ ch ∨ r.npieces ch ≤ p then s else
    let k := r.enter ch
    let h := r.holder k (r.home ch)
    if h ≠ r.self ∧ !r.grantP.contains key then s else
    let (s, r) := s.flushPiece r k ch p
    let n := tget 0 r.sentN key
    let led := tget 0 r.sentL key
    let x := s.slot r.slot
    let dig := match x.graph.tasks.find? fun d => TD.typ d = 0 ∧ TD.redid d = rid with
      | some cd => s.maskDigest r (s.tensor c (TD.tref cd 4)) (TD.maskMode cd) ch p
      | none => s.homeDigest r ch p
    let s := s.setSlot r.slot { x with att := { x.att with ledA := (x.att.ledA + led) % ledM } }
    let r := { r with ended := r.ended ++ [key] }
    if h = r.self then
      match r.piece ch p k with
      | none => s.setRed r
      | some q => s.takeEnd r { q with led := tset 0 q.led r.self led } { member := r.self, count := 0, digest := dig, ledger := led }
    else (s.setRed r).lsSend c (nth 0 r.ranks h) (signalMsg 3 rid ch p n dig r.epoch led)

/-! ### Gathers -/

/-- The bytes of a chunk of drained elements (R351): for each 32-element block in order its codes, its scale bytes or header,
its tag byte and its bobble slots. The spec gives the parts, the order is the model's (log 14). -/
def TRec.blockBytes (t : TRec) (m : Tbl Byte) (base row b : Nat) : List Byte :=
  let k := t.key base
  rdBs m (k + row * t.pitch + b * 4 * t.width) (4 * t.width)
  ++ (if t.scaled then rdBs m (k + t.scaleOfs + row * t.rowScales + b * 32 / t.blk) (max 1 (32 / t.blk))
      else if t.selv then rdBs m (k + t.scaleOfs + (row * t.rowBlocks + b) * 8) 8 else [])
  ++ (if t.hasTags then rdBs m (k + t.tagOfs + row * t.rowBlocks + b) 1 else [])
  ++ rdBs m (k + t.bobOfs + (row * t.rowBlocks + b) * t.bobs * 2) (t.bobs * 2)
/-- Bytes of one such block. -/
def TRec.blockLen (t : TRec) : Nat :=
  4 * t.width + (if t.scaled then max 1 (32 / t.blk) else if t.selv then 8 else 0) + (if t.hasTags then 1 else 0) + t.bobs * 2
/-- A block written from such bytes. -/
def TRec.putBlock (t : TRec) (m : Tbl Byte) (base row b : Nat) (l : List Byte) : Tbl Byte :=
  let k := t.key base
  let n1 := 4 * t.width
  let n2 := if t.scaled then max 1 (32 / t.blk) else if t.selv then 8 else 0
  let n3 := if t.hasTags then 1 else 0
  let m := wrBs m (k + row * t.pitch + b * 4 * t.width) (l.take n1)
  let m := if t.scaled then wrBs m (k + t.scaleOfs + row * t.rowScales + b * 32 / t.blk) ((l.drop n1).take n2)
    else wrBs m (k + t.scaleOfs + (row * t.rowBlocks + b) * 8) ((l.drop n1).take n2)
  let m := wrBs m (k + t.tagOfs + row * t.rowBlocks + b) ((l.drop (n1 + n2)).take n3)
  wrBs m (k + t.bobOfs + (row * t.rowBlocks + b) * t.bobs * 2) ((l.drop (n1 + n2 + n3)).take (t.bobs * 2))

/-- Blocks of a chunk of padded numbering: (row, block). -/
def Red.blocksOf (r : Red) (t : TRec) (c : Nat) : List (Nat × Nat) :=
  (List.range (cdiv (r.chunkLen c) 32)).filterMap fun k =>
    let (row, col) := t.unpad (c * r.chunkN + 32 * k)
    if row < t.rows ∧ col < t.e0 then some (row, col / 32) else none

/-- Bytes cut into payloads of at most n bytes, with their offset. Fuel bounds the payloads. -/
def cutBytes (n : Nat) : Nat → Nat → List Byte → List (Nat × List Byte)
  | 0, _, _ => []
  | f + 1, o, l => if l.isEmpty then [] else (o, l.take n) :: cutBytes n f (o + min n l.length) (l.drop n)

/-- A run of bytes as format 0x1 messages with their ledgers (R380, R384). -/
def State.byteMsgs (s : State) (c step tid tc redid chunk : Nat) (l : List Byte) : List Msg :=
  (cutBytes (s.fab.largest.toNat / 8 * 8) (l.length + 1) 0 l).map fun (o, b) =>
    { tc := tc, pfmt := 1, redid := redid, chunk := chunk, offset := o
      ledger := ledger (s.ctx c).cfg.seed.toNat step tid (bytes8 (o / 8) b), payload := b }

/-- A chunk's flag index (R342). -/
def State.chunkFlag (s : State) (r : Red) (c : Nat) : Nat := CB.cflag0 (TD.spec ((s.slot r.slot).desc r.task) <<< 768) + c

/-- Blocks of a tensor as messages; one that carries a byte of a poisoned block says so (R321, R384). -/
def State.blockMsgs (s : State) (c step : Nat) (t : TRec) (tc redid chunk : Nat) (blocks : List (Nat × Nat)) : List Msg :=
  let bad := blocks.map fun (row, b) => s.poisoned (t.key t.base + row * t.pitch + b * 4 * t.width) (4 * t.width)
  (s.byteMsgs c step t.tid tc redid chunk (blocks.flatMap fun (row, b) => t.blockBytes s.mem t.base row b)).map fun m =>
    let lo := m.offset / t.blockLen
    let hi := (m.offset + m.payload.length - 1) / t.blockLen
    { m with poison := (List.range (hi + 1 - lo)).any fun k => nth false bad (lo + k) }

/-- A member sends a chunk it holds to those that gather it from this one: a home to every other member in a group of one stage (R351, R353).
A chunk of a GATHER task, which has no reduction ID, goes under its chunk flag (log 68). -/
def State.sendChunk (s : State) (r : Red) (c : Nat) : State :=
  let t := s.redOut r
  let ms := (s.blockMsgs r.ctx (s.slot r.slot).step.toNat t 2 r.redid (if r.redid = 0 then s.chunkFlag r c else c) (r.blocksOf t c)).map fun m =>
    { m with epoch := r.epoch }
  (r.down c).foldl (fun s q => s.lsSendAll r.ctx (nth 0 r.ranks q) ms) s

/-- A gather opens when its slot enters RUNNING (R351): the chunks held here leave for every other member. -/
def State.openGather (s : State) (n i : Nat) : State :=
  let r := s.newRed n i
  let own := (List.range r.chunks).filter fun c => r.home c = r.self
  let s := { s with fab := { s.fab with reds := s.fab.reds ++ [{ r with done := own }] } }
  own.foldl (fun s c => s.sendChunk r c) s

/-- The gather of a task. -/
def State.gatherOf (s : State) (n i : Nat) : Option Red := s.fab.reds.find? fun r => r.isGather && decide (r.slot = n ∧ r.task = i)

/-- At dispatch of a GATHER task the flags of the chunks held here rise (R351). -/
def State.flagGather (s : State) (n i : Nat) : State :=
  match s.gatherOf n i with
  | none => s
  | some r => ((List.range r.chunks).filter fun c => r.home c = r.self).foldl (fun s c => s.raiseFlag r.ctx (s.chunkFlag r c)) s

/-- What is still held of reductions and gathers that an earlier graph of the slot ran, or that an ended graph of its context ran
under a number the new graph uses. -/
def State.staleRed (s : State) (n : Nat) (r : Red) : Bool :=
  let x := s.slot n
  let used := x.graph.tasks.any fun d => TD.redid d = r.redid
  decide (r.slot = n) || (decide (r.ctx = x.ctx.toNat) && decide ((s.slot r.slot).st ≠ .running) && used)

/-- The reductions and gathers of a slot's graph open (R346, R351); those of ended graphs that they replace are let go. -/
def State.openAll (s : State) (n : Nat) : State :=
  let x := s.slot n
  let s := { s with fab := { s.fab with reds := s.fab.reds.filter fun r => !s.staleRed n r } }
  (List.range x.tasks.length).foldl (fun s i =>
    if TD.typ (x.desc i) = 5 ∧ TD.variant (x.desc i) = 0 then s.openRed n i
    else if TD.typ (x.desc i) = 5 ∧ TD.variant (x.desc i) = 1 then s.openGather n i else s) s

/-! ### What a task's packets are -/

/-- The kind of a chunk signal; none for another packet. -/
def sigKind (p : Packet) : Option Nat :=
  if LS.typ p.hdr = 1 ∧ LS.tc p.hdr = 4 ∧ LS.pfmt p.hdr = 9 then some (nth 0 p.payload 0).toNat else none
/-- Is a packet one that a REDUCE or GATHER task sent (R352): under its reduction, or under a chunk flag of its own (R351, R363)? -/
def State.redPacket (s : State) (r : Red) (p : Packet) : Bool :=
  let h := p.hdr
  if LS.redid h ≠ 0 then LS.redid h = r.redid && (LS.tc h = 2 || LS.tc h = 4)
  else decide (s.chunkFlag r 0 ≤ LS.chunk h ∧ LS.chunk h < s.chunkFlag r 0 + r.chunks) && ((LS.tc h = 2 && LS.pfmt h = 1) || sigKind p = some 1)

/-- Is a packet one that a sending P2P task sent (R365): its data or its SHARE_END? -/
def P2P.sent (x : P2P) (p : Packet) : Bool :=
  let h := p.hdr
  LS.redid h = 0 && LS.chunk h = x.tag && LS.dst h = x.peer && (LS.tc h = 3 || sigKind p = some 3)

/-! ### Draining pieces (R349, R350, R383) -/

/-- A chunk is corrupt (R382, R383, R386): logged, the attempt fails as replayable. -/
def State.corruptChunk (s : State) (r : Red) (ch : Nat) : State :=
  let s := s.setRed { r with corrupt := true }
  (s.log { code := 0x0501, sev := 3, ctx := r.ctx, data := r.redid + ch * 2 ^ 20 }).failAttempt r.slot true

/-- The rounding choice of a drain (R98): stochastic or not, and the purpose code. -/
def drnChoice (code terms : Nat) : Bool × Nat :=
  match code with
  | 1 => (true, 1)
  | 2 => (decide (2 ^ 20 < terms), 2)
  | _ => (false, 1)

/-- How the REDUCE task's drain writes (R98, R340). -/
def State.redHow (s : State) (r : Red) : WrHow :=
  let x := s.slot r.slot
  let d := TD.spec (x.desc r.task) <<< 768
  let terms := ((x.graph.tasks.find? fun e => TD.typ e ≤ 1 ∧ TD.redid e = r.redid).map TD.ksum).getD 0
  { w := { inf := CB.dovf d, wrap := CB.dint d }, stoch := (drnChoice (CB.drnd d) terms).1, purpose := (drnChoice (CB.drnd d) terms).2
    seed := (s.ctx r.ctx).cfg.seed.toNat, step := x.step.toNat }

/-- What REDUCE adds to an attempt's overflow flag (R236) from a write into a gradient tensor. -/
def State.gradOvf (s : State) (n : Nat) (t : TRec) (o : WrOut) : State :=
  let x := s.slot n
  if t.grad ∧ (o.sat ∨ o.special) then s.setSlot n { x with att := { x.att with ovf := true } } else s

/-- QE sums, SAT and FMT of a write joined into a task's record (R49, R61). -/
def State.noteWrite (s : State) (n i ref : Nat) (o : WrOut) : State :=
  let x := s.slot n
  let t := x.task i
  s.setSlot n (x.setTask i { t with flags := joinFlags t.flags ((List.range 8).map fun r => if r = ref ∧ o.sat then 4 else 0)
                                    qS := t.qS.set ref (nth 0 t.qS ref + o.qS), qE := t.qE.set ref (nth 0 t.qE ref + o.qE) })

/-- Rotation rates of a tensor's table (R218): element codes of a Selvedge-64 table in units of 2^−64 turn. -/
def State.rates (s : State) (t : TRec) : Nat → Nat :=
  match s.tensor t.ctx (fld t.attn.toNat 32 32) with
  | some u => fun j => u.code s.mem u.base (j / (max 1 u.e0)) (j % (max 1 u.e0))
  | none => fun _ => 0

/-- Runs of values written into a tensor's copy, row by row, with the marks of the blocks they cover (R493) and frames (R298). -/
def State.writeRun (s : State) (t : TRec) (base row c0 : Nat) (h : WrHow) (xs : List Ex) (bad : Bool) : State × WrOut :=
  let (m, o) := t.writeRow s.mem base row c0 h (s.rates t) xs
  let k := t.key base + row * t.pitch + c0 * t.width / 8
  let n := cdiv (xs.length * t.width) 8
  (({ s with mem := m }.mark k n bad).attachRow t base row, o)

/-- The blocks of a piece with their output row and column. -/
def Red.rowsOf (r : Red) (out : TRec) (c p : Nat) : List (Nat × Nat × Nat) :=
  let (a, n) := r.span p c
  (List.range (cdiv n 32)).filterMap fun k =>
    let i := c * r.chunkN + a + 32 * k
    let (row, col) := out.unpad i
    if row < out.rows ∧ col < out.e0 then some (row, col, i) else none

/-- A complete piece of a product or sum reduction drained into reference 0, or of a compare into references 0 and 3. The
scale block of a block-scaled output is drained whole. -/
def State.drainPiece (s : State) (r : Red) (q : Piece) : State :=
  let d := (s.slot r.slot).desc r.task
  let out := s.redOut r
  let how := s.redHow r
  let ls : Int := if TD.lscale d then (s.slot r.slot).att.e else 0
  let u := max 32 out.unit
  let starts := (r.rowsOf out q.chunk q.idx).filter fun x => x.2.1 % u = 0
  let m := s.redCmp r
  starts.foldl (fun s (row, col, i) =>
    if !s.redKeeps r row then s else
    let n := min u (out.e0 - col)
    let wd (j : Nat) : SkeinW := tget 0 q.acc ((i + j) % r.chunkN)
    let bad := q.poison.any fun b => decide (i / 32 ≤ b ∧ b ≤ (i + n - 1) / 32)
    let xs := (List.range n).map fun j =>
      if m = 0 then (Sk.of (wd j)).drain r.cls (r.anchorAt (i + j)) ls else (Cmp.of (wd j)).drainVal
    let (s, o) := s.writeRun out out.base row col how xs bad
    let s := (s.gradOvf r.slot out o).noteWrite r.slot r.task 0 o
    if m = 0 then s else
    match s.tensor r.ctx (TD.tref d 3) with
    | none => s
    | some t => (s.writeRun t t.base row col {} ((List.range n).map fun j => (Cmp.of (wd j)).drainIdx) bad).1) s

/-- A chunk is complete (R351): its flag, NOTIFY and GATHER. -/
def State.chunkDone (s : State) (r : Red) (c : Nat) : State :=
  let d := TD.spec ((s.slot r.slot).desc r.task) <<< 768
  let s := s.raiseFlag r.ctx (s.chunkFlag r c)
  if CB.gather d then s.sendChunk r c
  else if CB.notify d then s.toOthers r (signalMsg 1 0 (s.chunkFlag r c) 0 0 0)
  else s

/-- Is a piece complete (R349)? None of a chunk that holds a climbing block is (R93). -/
def State.pieceComplete (s : State) (r : Red) (q : Piece) : Bool :=
  !r.chunkClimbs q.chunk && (r.feeds q.stage).all fun m => match q.ends.find? (·.member = m) with
    | none => false
    | some e => (m = r.self || tget 0 q.got m = e.count) && e.digest = s.homeDigest r q.chunk q.idx

/-- PIECE_DRAIN's effect: a complete piece is checked against its ledgers (R383); at the last stage it drains, before it the
exact sum goes on as one contribution (R353). Attention rows are drained by the caller's function. -/
def State.pieceOut (s : State) (c rid ch p : Nat) (attnDrain : State → Red → Piece → State) : State :=
  match s.red c rid with
  | none => s
  | some r =>
    match r.pieces.find? (fun q => q.chunk = ch && q.idx = p && q.claimed && !q.drained && s.pieceComplete r q) with
    | none => s
    | some q =>
      let words := q.acc.map fun x => (ch * r.chunkN + x.1, x.2)
      let accLed := s.redLedger r words
      let bad := r.cmp = false && (q.ends.any (fun e => tget 0 q.led e.member ≠ e.ledger)
        || (q.ends.foldl (fun a e => a + e.ledger) q.pre) % ledM ≠ accLed)
      if bad then s.corruptChunk r ch else
      let q' := { q with drained := true, area := [], acc := [], outLed := accLed }
      let r' := r.setPiece q'
      let r' := { r' with pieces := r'.pieces.map fun y => if y.chunk = ch ∧ y.idx = p + 2 ∧ y.stage = q.stage then { y with due := true } else y }
      if q.stage + 1 < r.stages then
        let (s, r') := words.foldl (fun (sr : State × Red) x => sr.1.contribute sr.2 (q.stage + 1) x.1 x.2) (s, r')
        let (s, r') := s.flushPiece r' (q.stage + 1) ch p
        let h := r.holder (q.stage + 1) (r.home ch)
        if h = r.self then
          match r'.piece ch p (q.stage + 1) with
          | none => s.setRed r'
          | some y => s.setRed (r'.setPiece { y with ends := y.ends ++ [{ member := r.self, count := 0, digest := s.homeDigest r ch p, ledger := accLed }]
                                                     led := tset 0 y.led r.self accLed })
        else (s.setRed r').lsSend c (nth 0 r.ranks h) (signalMsg 3 rid ch p (tget 0 r'.sentN (pkey ch p)) (s.homeDigest r ch p) r.epoch accLed)
      else
        let s := if r.attn then attnDrain s r q else s.drainPiece r q
        let x := s.slot r.slot
        let s := s.setSlot r.slot { x with att := { x.att with ledH := (x.att.ledH + accLed) % ledM, ledA := (x.att.ledA + q.pre) % ledM } }
        let all := r'.pieces.all fun y => y.chunk ≠ ch || y.stage + 1 < r.stages || y.drained
        let r' := if all then { r' with done := r'.done ++ [ch] } else r'
        let s := s.setRed r'
        if all then s.chunkDone r' ch else s

/-! ### Anchor agreement (R82, R83, R362) -/

/-- The anchor blocks of a chunk. -/
def Red.chunkBlocks (r : Red) (c : Nat) : List Nat := (List.range (cdiv (r.chunkLen c) 32)).map fun k => c * r.chunkN / 32 + k

/-- This member's local anchor of a block (R82): over its contributor tasks, of products, sums and dV (R225), and over the
preload of a chunk it homes (R88); without a
contributor here the preload's tile is taken along axis 1 (log 72). -/
def State.localAnchor (s : State) (r : Red) (blk : Nat) : Option Int :=
  let x := s.slot r.slot
  let out := s.redOut r
  let (row, col) := out.unpad (32 * blk)
  if out.rows ≤ row ∨ out.e0 ≤ col then none else
  let con := (List.range x.graph.tasks.length).filter fun j => TD.typ (x.desc j) = 0 && TD.redid (x.desc j) = r.redid
  let d := x.desc r.task
  let home := if TD.premem d ≠ 0xFFFFF ∨ r.home (32 * blk / r.chunkN) ≠ r.self then none else
    match s.tensor r.ctx (TD.tref d 1) with
    | some p => preloadTile s.mem p out (match con with | j :: _ => tileAxis (x.desc j) | [] => some 1) row col
    | none => none
  let dv := (List.range x.graph.tasks.length).filter fun j => TD.typ (x.desc j) = 1 && TD.variant (x.desc j) = 2 && TD.redid (x.desc j) = r.redid
  let a := con.foldl (fun a j => maxO a (taskAnchor s.mem x.graph (s.taskEnv r.slot j) out row col)) home
  dv.foldl (fun a j =>
    let e := s.taskEnv r.slot j
    match e.r 0, e.r 1, e.r 4 with
    | some q, some k, some dO => maxO a (dvAnchor s.mem e q k dO (out.rowIdx row 1) (out.rowIdx row 2) col)
    | _, _, _ => a) a

/-- Signed 16-bit words of a chunk's anchor blocks as format 0x4 (R361); none is 0x8000. -/
def State.anchorMsgs (s : State) (r : Red) (c : Nat) (l : List (Option Int)) : List Msg :=
  let bytes := l.flatMap fun x => toLE 2 (match x with | some g => toTwos 16 g | none => 0x8000)
  (cutBytes (s.fab.largest.toNat / 2 * 2) (bytes.length + 1) 0 bytes).map fun (o, b) =>
    { tc := 4, pfmt := 4, redid := r.redid, chunk := c, offset := o, epoch := r.epoch, payload := b }

/-- Messages to the members that report to this one of a chunk. -/
def State.toDown (s : State) (r : Red) (c : Nat) (ms : List Msg) : State := (r.down c).foldl (fun s q => s.lsSendAll r.ctx (nth 0 r.ranks q) ms) s

/-- A member takes the maximum of the reports of a chunk that come to it and of its own. Once all are in, the home sends the agreed
words to those members, and another member reports the maximum in its turn (R353, R362). -/
def State.takeReport (s : State) (r : Red) (m c : Nat) (l : List (Nat × Option Int)) (whole : Bool) : State :=
  let r := { r with repMax := l.foldl (fun t (b, v) => match v with
                      | some g => tset (-40000) t b (max (tget (-40000) t b) g)
                      | none => t) r.repMax
                    reports := if !whole ∨ r.reports.contains (m, c) then r.reports else r.reports ++ [(m, c)] }
  let best (b : Nat) : Option Int := if tget (-40000) r.repMax b = -40000 then none else some (tget (-40000) r.repMax b)
  if !((r.self :: r.down c).all fun q => r.reports.contains (q, c)) then s.setRed r
  else if r.home c = r.self then
    let ag := (r.chunkBlocks c).map fun b => (b, anchorOf (best b))
    let r := { r with agreed := r.agreed.filter (fun x => !(ag.any fun y => y.1 = x.1)) ++ ag }
    (s.setRed r).toDown r c (s.anchorMsgs r c (ag.map fun x => some x.2))
  else (s.setRed r).lsSendAll r.ctx (nth 0 r.ranks (r.up c)) (s.anchorMsgs r c ((r.chunkBlocks c).map best))

/-- A member's own reports of a chunk (R362). -/
def State.sendReports (s : State) (c rid ch : Nat) (attnRep : State → Red → Nat → Option Int) : State :=
  match s.red c rid with
  | none => s
  | some r =>
    if r.declared.isSome ∨ !r.grantA.contains ch then s else
    let l := (r.chunkBlocks ch).map fun b => (b, if r.attn then attnRep s r b else s.localAnchor r b)
    s.takeReport r r.self ch l true

/-! ### Epochs and climbs (R91 to R93, R364) -/

/-- Attempt state of a slot replaced. -/
def State.setAtt (s : State) (n : Nat) (a : Attempt) : State := s.setSlot n { s.slot n with att := a }

/-- The next epoch of a reduction (R91, R364): climbing blocks rise by 16, the pieces of every chunk whose flag has not risen
are cleared, GRANTs go out again, and the contributor tasks repeat. -/
def State.nextEpoch (s : State) (r : Red) : State :=
  if r.climbed.isEmpty then s else
  let keep (c : Nat) : Bool := r.done.contains c
  let e := r.epoch + 1
  let last := r.pieces.filter fun p => !(keep p.chunk) && p.drained && decide (p.stage + 1 = r.stages)
  let a := sumN ((r.ended.filter fun k => !(keep (k / 65536))).map fun k => tget 0 r.sentL k) + sumN (last.map (·.pre))
  let h := sumN (last.map (·.outLed))
  let r := { r with epoch := e, climbed := [], rises := r.climbed.foldl (fun t b => tset 0 t b (tget 0 t b + 1)) r.rises
                    outb := r.outb.filter fun x => keep (x.1 / r.chunkN), grantP := r.grantP.filter fun k => keep (k / 65536)
                    sentN := tkeep (fun k => keep (k / 65536)) r.sentN, sentL := tkeep (fun k => keep (k / 65536)) r.sentL
                    ended := r.ended.filter fun k => keep (k / 65536) }
  let fresh (p : Piece) : Piece × List Nat :=
    let q := { p with acc := [], ends := [], got := [], led := [], poison := [], mismatch := [], drained := false, granted := p.claimed, pre := 0, outLed := 0 }
    let q := if p.drained then { q with claimed := false, granted := false, due := true } else q
    if q.claimed ∧ p.stage + 1 = r.stages then s.withPreload r q else (q, [])
  let l := r.pieces.map fun p => if keep p.chunk then (p, []) else fresh p
  let r := { r with pieces := l.map (·.1) }
  let y := s.slot r.slot
  let s := s.setAtt r.slot { y.att with ledA := (y.att.ledA + (ledM - a % ledM)) % ledM, ledH := (y.att.ledH + (ledM - h % ledM)) % ledM }
  let s := (s.setRed r).climbsRed r.ctx r.redid (l.flatMap (·.2))
  let s := s.setCtx r.ctx { s.ctx r.ctx with epochs := tset 0 (s.ctx r.ctx).epochs r.redid e }
  let s := (r.pieces.filter fun p => p.claimed && !(keep p.chunk)).foldl (fun s p =>
    (r.feeds p.stage).foldl (fun s j => if j = r.self then s else s.lsSend r.ctx (nth 0 r.ranks j) (signalMsg 4 r.redid p.chunk p.idx 0 0 e)) s) s
  let x := s.slot r.slot
  let again (j : Nat) : TaskSt :=
    let t := x.task j
    if TD.typ (x.desc j) ≤ 1 ∧ TD.redid (x.desc j) = r.redid then
      { t with next := 0, segdone := 0, running := [], wb := 0, finished := false, status := 0, ends := none }
    else t
  let ts := (List.range x.tasks.length).map again
  s.setSlot r.slot { x with tasks := ts, doneCnt := BitVec.ofNat 21 (ts.filter fun t => t.status = 1).length }

end Sys2Proof.Machine
end

