-- ==== Sys2Proof/Machine/Operands.lean ====
section
/-! DEFINITION. The operands of a segment: readiness (R283), program store (R141), staging of windows (R300, R301), anchor
records (R82, R118), and the writeback of output windows (R302, R124, R52). -/
namespace Sys2Proof.Machine

/-! ### Readiness -/

/-- Does a task read a tensor with `FIN_EN` (R247)? -/
def State.readsFin (s : State) (n i : Nat) : Bool :=
  let x := s.slot n
  let e := s.taskEnv n i
  (List.range 8).any fun r => TD.tref (x.desc i) r ≠ 0 && !e.writes.contains r && (match e.r r with
    | some t => t.finEn
    | none => false)

/-- May the tasks of a step that read updatable tensors run (R247, R397)? Its predecessor has sealed or was abandoned, and the
receipt leaf it needed is advanced. -/
def State.stepOpen (s : State) (n : Nat) : Bool :=
  let x := s.slot n
  let c := x.ctx.toNat
  let k := s.ctx c
  decide (x.step.toNat ≤ k.cfg.sealed.toNat + 1) || k.aband.contains (x.step - 1).toNat

/-- A task is ready (R283): its producers done, its implicit orderings met (R303), its flags raised, its step open. SEAL is
ready when every other task has completed (R279). -/
def State.ready (s : State) (n i : Nat) : Bool :=
  let x := s.slot n
  let k := s.ctx x.ctx.toNat
  let d := x.desc i
  x.st = .running && !x.stopped && decide (i < x.tasks.length) && !(x.task i).finished && k.st = .live
  && x.graph.edges.all (fun e => e.dst ≠ i || (if e.kind = 0 then (x.task e.src).status = 1 else k.flags.contains e.src))
  && x.order.all (fun p => p.1 ≠ i || (x.task p.2).status = 1)
  && (TD.typ d ≠ 7 || (List.range x.tasks.length).all fun j => j = i || (x.task j).finished)
  && (!x.graph.training || !(s.readsFin n i) || s.stepOpen n)
  && (TD.typ d ≠ 6 || (s.stepOpen n && k.leafWait.isNone))

/-! ### Panels that may take work -/

/-- Does a pending fault or a reset of level and domain cover a logical panel (R404, R409, R410)? -/
def State.covers (s : State) (l d p : Nat) : Bool :=
  match l with
  | 2 => s.remap.panel p = d / 17
  | 3 => d = p
  | 4 => d = p / 16
  | 5 | 6 => true
  | _ => false

/-- A panel that is present, in no reset, charged with no queued fault, and fields sixteen engines (R409 to R412). -/
def State.panelUp (s : State) (p : Nat) : Bool :=
  decide (p < 32) && s.remap.present p && !(s.esc.active ≠ 2 && s.covers s.esc.active s.esc.domain p)
  && !(s.esc.queue.any fun q => s.covers q.1 q.2.1 p)
  && (List.range 16).all fun e => !(s.remap.fencedEng.contains (s.remap.eng p e)) && !(s.remap.resetting.contains (s.remap.eng p e))

/-! ### Program store (R141) -/

/-- The segments a panel holds: running, staged, or waiting for writeback. -/
def Panel.segs (p : Panel) : List Seg := p.seg.toList ++ p.staged ++ p.wbq.map (·.seg)

/-- A place for n words clear of the programs in use: the lowest, counting word 0 and the ends of those programs. -/
def Panel.findWords (p : Panel) (n : Nat) : Option Nat :=
  let used := p.segs.map fun g => (g.prog, g.words)
  let cand := (0 :: used.map fun u => u.1 + u.2).mergeSort (· ≤ ·)
  cand.find? fun b => decide (b + n ≤ 16384) && used.all fun u => decide (b + n ≤ u.1 ∨ u.1 + u.2 ≤ b)

/-- A program made resident: where it sits. One in use by a segment of the same context and image is shared. -/
def Panel.makeResident (p : Panel) (c tid ofs : Nat) (ws : List Nat) : Option (Nat × Panel) :=
  let live (r : Resident) : Bool := p.segs.any fun g => g.prog = r.base
  match p.resident.find? fun r => live r && r.ctx = c && r.tid = tid && r.ofs = ofs && r.words = ws.length with
  | some r => some (r.base, p)
  | none =>
    match p.findWords ws.length with
    | none => none
    | some b =>
      let covers (r : Resident) : Bool := decide (r.base < b + ws.length ∧ b < r.base + r.words)
      some (b, { p with store := tsetMany 0 p.store b (ws.map (BitVec.ofNat 1024))
                        resident := p.resident.filter (fun r => !covers r) ++ [{ ctx := c, tid := tid, ofs := ofs, base := b, words := ws.length }] })

/-! ### Grants (R300, R125) -/

/-- Physical granules for a grant of n logical granules: for each the lowest free one of its bank, none when a bank lacks room. -/
def Panel.grant (p : Panel) (n : Nat) : Option (List Nat) :=
  let used := p.segs.flatMap (·.map)
  (List.range n).foldl (fun (l : Option (List Nat)) g => match l with
    | none => none
    | some l => ((List.range 6).map fun k => g % 64 + 64 * k).find? (fun x => !used.contains x && !l.contains x) |>.map fun x => l ++ [x]) (some [])

/-! ### Lines of a window (R124, R301) -/

/-- Elements of a reference's row that a line holds: its first column and its count within the tensor's row. -/
def RefW.lineCols (r : RefW) (j : Nat) : Nat × Nat := (r.pcol j, min r.t.f.perLine (r.t.e0 - r.pcol j))

/-- HBM key and bytes of the elements of a line. -/
def RefW.lineKey (r : RefW) (row j : Nat) : Nat × Nat :=
  let fp6 := r.t.f = .e2m3 ∨ r.t.f = .e3m2
  (r.t.key r.t.base + r.trow row * r.t.pitch + j * (if fp6 then 96 else 128), if fp6 then min 96 (r.t.pitch - 96 * j) else 128)

/-- A line of a staged window as HBM holds it: data, scale sideband per word, bobble slots, header, poison. -/
def State.fetchLine (s : State) (r : RefW) (row j : Nat) : Line :=
  let t := r.t
  let m := s.mem
  let (k, n) := r.lineKey row j
  let (c0, _) := r.lineCols j
  let tr := r.trow row
  let f := t.f
  let words := if f = .e2m3 ∨ f = .e3m2 then 12 else 16
  let sc := if t.scaled then sumN ((List.range words).map fun w =>
      let c := c0 + w * 64 / f.width
      if c < t.e0 then t.scale m t.base tr c * 2 ^ (8 * w) else 0) else 0
  let bob := sumN ((List.range (cdiv f.perLine 32)).flatMap fun b =>
    if c0 + 32 * b < t.e0 then (List.range t.bobs).map fun i => nth 0 (t.bobWords m t.base tr (c0 + 32 * b)) i * 2 ^ ((b * t.bobs + i) * 16) else [])
  { data := BitVec.ofNat 1024 (ofLE (rdBs m k n)), sc := BitVec.ofNat 128 sc, bob := BitVec.ofNat 1024 bob
    hdr := if t.selv then BitVec.ofNat 64 (t.header m t.base tr c0) else 0, poison := s.poisoned k n }

/-- The lines of a reference that are staged: line of the grant, window row, piece. -/
def RefW.lines (r : RefW) : List (Nat × Nat × Nat) :=
  if !r.live ∨ r.n 0 = 0 then [] else
  let (lo, hi) := r.pieces
  (List.range r.wrows).flatMap fun row => (List.range (hi + 1 - lo)).map fun i => (r.place * 512 + r.toLine row (lo + i), row, lo + i)

/-- The HBM byte ranges a window covers, one per row: key and length. -/
def RefW.ranges (r : RefW) : List (Nat × Nat) :=
  if !r.live ∨ r.n 0 = 0 then [] else
  (List.range r.wrows).map fun row =>
    let a := r.s 0 * r.t.width / 8
    (r.t.key r.t.base + r.trow row * r.t.pitch + a, cdiv ((r.s 0 + r.n 0) * r.t.width) 8 - a)

/-- The ranges of the areas beside the elements that a window uses: scales or headers, tags, bobbles, shadows (R295). -/
def RefW.areas (r : RefW) : List (Nat × Nat) :=
  if !r.live ∨ r.n 0 = 0 then [] else
  let t := r.t
  let k := t.key t.base
  let span (u w : Nat) : Nat × Nat := (r.s 0 / u * w, (cdiv (r.s 0 + r.n 0) u - r.s 0 / u) * w)
  (List.range r.wrows).flatMap fun row =>
    let tr := r.trow row
    (if t.scaled then let (a, n) := span t.blk 1; [(k + t.scaleOfs + tr * t.rowScales + a, n)]
     else if t.selv then let (a, n) := span 32 8; [(k + t.scaleOfs + tr * t.rowScales * 8 + a, n)] else [])
    ++ (if t.hasTags then let (a, n) := span 32 1; [(k + t.tagOfs + tr * t.rowBlocks + a, n)] else [])
    ++ (if t.bobs = 0 then [] else let (a, n) := span 32 (2 * t.bobs); [(k + t.bobOfs + tr * t.rowBlocks * 2 * t.bobs + a, n)])
    ++ (if t.shEn then [(t.shKey t.base tr, t.shVec)] else [])

/-- Pages a list of byte ranges touches. -/
def rangePages (l : List (Nat × Nat)) : List Nat :=
  l.foldl (fun ps (k, n) => if n = 0 then ps else (List.range (pageOf (k + n - 1) + 1 - pageOf k)).foldl (fun ps i => sins ps (pageOf k + i)) ps) []

/-- Does a page lie far? -/
def State.isFar (s : State) (p : Nat) : Bool := s.pager.far.any fun f => f.num = p && !f.resident

/-- Pages touched now: their last use is this frame (R306). -/
def State.touch (s : State) (ps : List Nat) : State :=
  { s with pager := { s.pager with lru := ps.foldl (fun l p => tset 0 l p (s.frame.toNat + 1)) s.pager.lru } }

/-- Does software's tag understate a block that a window covers (R176)? -/
def State.understated (s : State) (r : RefW) : Bool :=
  r.live && !r.out && r.t.hasTags && FW.tags r.t.fmt && decide (0 < r.n 0) &&
  (List.range r.wrows).any fun row =>
    let tr := r.trow row
    let b0 := r.s 0 / 32
    (List.range ((r.s 0 + r.n 0 - 1) / 32 + 1 - b0)).any fun i =>
      let c := (b0 + i) * 32
      decide ((rdB s.mem (r.t.key r.t.base + r.t.tagOfs + tr * r.t.rowBlocks + c / 32)).toNat < r.t.tagNow s.mem r.t.base tr c)

/-- The bits of a mask tensor, bit r for row or block r (R229). -/
def State.maskBits (s : State) (c tid : Nat) : Nat :=
  match s.tensor c tid with
  | some t => sumN ((List.range t.elems).map fun b => t.code s.mem t.base (b / (max 1 t.e0)) (b % (max 1 t.e0)) % 2 * 2 ^ b)
  | none => 0

/-- Pages of a reference's window, with the areas beside its elements. -/
def RefW.pages (r : RefW) : List Nat := rangePages (r.ranges ++ r.areas)
/-- Pages of a segment's windows. -/
def Seg.pages (g : Seg) : List Nat := (g.refs.flatMap (·.pages)).eraseDups

/-- The declared number of contributions to an element of a task's output (R71), by which long-sum rounding judges (R98); a forerunner
reduction, which counts none, has `KSUM` and its preload (log 55). -/
def State.declaredOf (s : State) (x : Slot) (e : TaskEnv) : Nat :=
  if TD.cls e.d = 3 then TD.ksum e.d + (preloaded x.graph e.d).toNat
  else declaredN x.graph e (if TD.redid e.d = 0 then 1 else grpSize (tget 0 s.fab.groups (TD.group e.d)))

/-- Is a task's Skein-192 reduction split over tasks or panels of the module (R69)? -/
def combines (g : Graph) (e : TaskEnv) : Bool :=
  TD.typ e.d = 0 && TD.cls e.d = 0 && TD.variant e.d ≠ 2
    && ((TD.redid e.d ≠ 0 && decide (1 < TD.nctask e.d)) || (TD.panels e.d ≠ 1 && segsShareOut g e))

/-- The reduction that a task's parts belong to (R69). -/
def partKey (d i : Nat) : Nat := if TD.redid d = 0 then 2 ^ 20 + i else TD.redid d

/-- Segment σ of a task as the scheduler binds it, before its grant and its place in the store. -/
def State.buildSeg (s : State) (n i sg : Nat) : Seg :=
  let x := s.slot n
  let d := x.desc i
  let c := x.ctx.toNat
  let e := s.taskEnv n i
  let typ := TD.typ d
  let refs := (stageRefs x.graph e e.writes sg).map fun (r : RefW) =>
    if r.live ∧ r.t.rotEn then { r with rates := (List.range (r.t.e0 / 2)).map (s.rates r.t) } else r
  { slot := n, task := i, sigma := sg, ctx := c, typ := typ, variant := TD.variant d, desc := d, refs := refs
    granules := PE.granules e.pe, ags := e.prog.ags, words := PE.words e.pe, arr := e.prog.arr, cmp := e.prog.cmp
    cls := if typ ≤ 1 then TD.cls d else 0, redid := if typ ≤ 1 then TD.redid d else 0
    terms := if typ ≤ 1 then s.declaredOf x e else 0, ls := if TD.lscale d then x.att.e else 0
    step := TD.step d, seed := (s.ctx c).cfg.seed.toNat, idxBase := TD.idxBase d, cax := TD.aCax d
    maskMode := if typ = 0 then TD.maskMode d else 0, maskBits := if typ = 0 ∧ TD.maskMode d ≠ 0 then s.maskBits c (TD.tref d 4) else 0
    lc := (List.range 4).map fun l => TD.lc d l, comb := combines x.graph e }

/-- Does a panel hold a segment already? -/
def Panel.knows (p : Panel) (n i sg : Nat) : Bool := p.segs.any fun g => g.slot = n && g.task = i && g.sigma = sg

/-- The lines of a staged segment's windows that HBM holds otherwise: stale copies. -/
def State.stale (s : State) (p : Panel) (g : Seg) (r : RefW) : List (Nat × Line) :=
  r.lines.filterMap fun (ln, row, j) =>
    let l := s.fetchLine r row j
    if { tget ({} : Line) p.sram (g.phys ln) with ecc := 0 } = l then none else some (g.phys ln, l)

/-- A window that the panel holds already, staged for another segment from the same range and not written since: its lines are
reused (R300). -/
def State.reuses (s : State) (p : Panel) (r : RefW) : Bool :=
  !r.out && p.segs.any fun h => h.refs.any fun q =>
    q.live && !q.out && q.t = r.t && q.start = r.start && q.count = r.count && (s.stale p h q).isEmpty

/-- A segment that may be staged: of an unfinished task on panels of a RUNNING slot, not dispatched yet. -/
def State.mayStage (s : State) (slot task seg : Nat) : Bool :=
  let x := s.slot slot
  x.st = .running && !x.stopped && decide (task < x.tasks.length) && !(x.task task).finished && (s.ctx x.ctx.toNat).st = .live
    && TD.onPanels (x.desc task) && decide (seg < TD.segments (x.desc task) ∧ (x.task task).next ≤ seg)

/-- WINDOW_STAGE (R300, R301, R141): the windows of a segment are staged on a panel into granules reserved for it, and its program into the
store, ahead of dispatch; a segment may be staged on several panels (log 65). A window with a page held far that no staged copy serves,
pages without room for a frame (R298), a grant and a program that do not fit, wait. A tag that software understated is met when
the task is ready (R176). -/
def execWindowStage (panel slot task seg : Nat) (s : State) : Host.Outcome State Fault Refusal :=
  let p := s.panel panel
  if !(s.mayStage slot task seg) ∨ !(s.panelUp panel) ∨ p.knows slot task seg then .next s else
  let g := s.buildSeg slot task seg
  let pages := ((g.refs.filter fun r => !s.reuses p r).flatMap (·.pages)).eraseDups
  if pages.any s.isFar ∨ !s.roomFor g.ctx pages then .next s
  else if s.ready slot task && g.refs.any s.understated then .fault .tagUnderstated
  else
    match p.grant g.granules, p.makeResident g.ctx (PE.tid (s.taskEnv slot task).pe) (PE.ofs (s.taskEnv slot task).pe) (s.taskEnv slot task).prog.words with
    | some map, some (b, p) =>
      let g := { g with map := map, prog := b }
      let sram := g.refs.foldl (fun m (r : RefW) => r.lines.foldl (fun m (ln, row, j) => tset {} m (g.phys ln) (s.fetchLine r row j)) m) p.sram
      let s := pages.foldl (fun s k => s.attachPage k) s
      .next ((s.setPanel panel { p with sram := sram, staged := p.staged ++ [g] }).touch pages)
    | _, _ => .next s

/-! ### Anchor records (R80 to R83, R114, R118) -/

/-- The anchor record of the block of an output element, none while its agreed anchor is not present. A task of a reduction
that a REDUCE task gathers uses that reduction's anchors; any other uses the maximum over the tasks of its own reduction. -/
def State.anchorFor (s : State) (n i : Nat) (out : TRec) (el : Nat) : Option Anc :=
  let x := s.slot n
  let d := x.desc i
  let cls := TD.cls d
  let blk := out.pad el / 32
  let wide : Option Red := if TD.redid d ≠ 0 ∧ (cls = 1 ∨ cls = 2) then s.red x.ctx.toNat (TD.redid d) else none
  match wide with
  | some r =>
    if r.declared.isSome ∨ r.agreed.any (fun a => a.1 = blk) then
      some { T := r.anchor blk, cls := cls, epoch := r.epoch % 16, climb := false, valid := true }
    else none
  | none =>
    let tasks := if TD.redid d = 0 then [i] else (List.range x.tasks.length).filter fun j => TD.typ (x.desc j) ≤ 1 && TD.redid (x.desc j) = TD.redid d
    let t := x.task i
    let base : Int := if tasks.any (fun j => declaredTask (s.taskEnv n j)) then TD.danchor d
      else anchorOf (tasks.foldl (fun a j => maxO a (taskAnchor s.mem x.graph (s.taskEnv n j) out (el / out.e0) (el % out.e0 / 32 * 32))) none)
    some { T := min 32767 (base + 16 * (tget 0 t.rises blk : Nat)), cls := cls, epoch := t.epoch % 16, climb := false, valid := true }

/-- Are the anchors of every block of a segment's output window present (R114, R283)? -/
def State.anchorsReady (s : State) (g : Seg) : Bool :=
  if g.redid = 0 ∨ !(g.cls = 1 ∨ g.cls = 2) ∨ (g.typ = 0 ∧ g.variant = 2) ∨ (g.typ = 1 ∧ g.variant ≠ 2) ∨ 1 < g.typ then true else
  let r := if g.typ = 1 then nth ({} : RefW) g.refs 7 else g.outRef
  (List.range r.wrows).all fun row => (List.range (if r.n 0 = 0 then 0 else (r.s 0 + r.n 0 - 1) / 32 + 1 - r.s 0 / 32)).all fun b =>
    (s.anchorFor g.slot g.task r.t (r.t.lin (r.trow row) ((r.s 0 / 32 + b) * 32))).isSome

/-- The anchor record of a 32-column group of an engine's row, where the walk finds an element in it (R117, R118). -/
def State.groupAnchor (s : State) (g : Seg) (e k : Nat) : Option (BitVec 32) :=
  let els := tget [] (nth [] g.assoc e) (k / 4)
  if els.isEmpty then none else
  match (List.range 32).find? fun j => nth 0 els (k % 4 * 32 + j) ≠ 0 with
  | none => none
  | some j =>
    if g.variant = 2 then none
    else (s.anchorFor g.slot g.task g.outRef.t (nth 0 els (k % 4 * 32 + j) - 1)).map Anc.toW

/-! ### Skein-192 sums split over panels (R69) -/

/-- Partial sums that a segment's drain hands over are added exactly, with their special-state bits. -/
def State.takeParts (s : State) (g : Seg) (es : List Emit) : State :=
  let x := s.slot g.slot
  let k := partKey g.desc g.task
  s.setSlot g.slot { x with parts := es.foldl (fun (l : List Part) e =>
    match e.el with
    | 0 => l
    | i + 1 =>
      if l.any fun p => p.red = k ∧ p.el = i then l.map fun (p : Part) => if p.red = k ∧ p.el = i then { p with acc := ((Sk.of p.acc).add (Sk.of e.w)).toW } else p
      else l ++ [{ red := k, el := i, rnd := e.rnd, ovf := e.ovf, int := e.int, acc := e.w }]) x.parts }

/-- The tasks of a task's reduction on this module. -/
def State.mates (s : State) (n i : Nat) : List Nat :=
  let x := s.slot n
  let r := TD.redid (x.desc i)
  if r = 0 then [i] else (List.range x.tasks.length).filter fun j => TD.typ (x.desc j) ≤ 1 && TD.redid (x.desc j) = r

/-- Have all segments of a task ended, their windows written back, with no block climbing? -/
def State.drained (s : State) (n i : Nat) : Bool :=
  let x := s.slot n
  let t := x.task i
  t.segdone = TD.segments (x.desc i) && t.wb = 0 && t.running.isEmpty && t.climbs.isEmpty

/-- The sums of a split Skein-192 reduction, complete, are drained once into the task's output, a scale block at a time (R69, R95). An
element that no part reached keeps its value. -/
def State.drainParts (s : State) (n i : Nat) : State :=
  let x := s.slot n
  let d := x.desc i
  let k := partKey d i
  let e := s.taskEnv n i
  match e.r 2 with
  | none => s
  | some t =>
    let u := max 32 t.unit
    let mine := x.parts.filter fun p => p.red = k
    let ls : Int := if TD.lscale d then x.att.e else 0
    let runs := (mine.map fun p => (p.el / t.e0, p.el % t.e0 / u)).eraseDups
    let terms := s.declaredOf x e
    let s := runs.foldl (fun s (row, b) =>
      let cols := (List.range (min u (t.e0 - b * u))).map (b * u + ·)
      let at1 (c : Nat) : Option Part := mine.find? fun p => p.el = row * t.e0 + c
      match cols.findSome? at1 with
      | none => s
      | some p0 =>
        let how : WrHow := { w := { inf := p0.ovf, wrap := p0.int }, stoch := (drnChoice p0.rnd terms).1, purpose := (drnChoice p0.rnd terms).2
                             seed := (s.ctx x.ctx.toNat).cfg.seed.toNat, step := x.step.toNat }
        let xs := cols.map fun c => match at1 c, s.anchorFor n i t (row * t.e0 + c) with
          | some p, some a => (Sk.of p.acc).drain 0 a.T ls
          | _, _ => (t.val s.mem t.base row c).toEx
        let (s, o) := s.writeRun t t.base row (b * u) how xs false
        (s.gradOvf n t o).noteWrite n i 2 o) s
    let y := s.slot n
    s.setSlot n { y with parts := y.parts.filter fun p => p.red ≠ k }

/-! ### Writeback (R302, R124, R52, R206) -/

/-- Did the segment write a physical line? -/
def Done.wrote (d : Done) (ph : Nat) : Bool := d.written.contains ph

/-- One line returned to HBM: its element bytes up to the end of the last block, whose padding is code 0 (R40), its words' scales, its
bobble slots, its header, and its mark: poison, or an error found as it is read (R130). Of a Selvedge-64 block every element returns (R37). -/
def State.storeLine (s : State) (r : RefW) (row j : Nat) (l : Line) (bad : Bool) : State :=
  let t := r.t
  let (k, n) := r.lineKey row j
  let (c0, cn) := r.lineCols j
  let tr := r.trow row
  let f := t.f
  let lo := max c0 (r.s 0)
  let hi := min (c0 + cn) (r.s 0 + r.n 0)
  let (lo, hi) := if t.selv then (c0, c0 + cn) else (lo, hi)
  if hi ≤ lo then s else
  let pad := if hi = t.e0 then min (c0 + f.perLine) (alignUp t.e0 t.unit) else hi
  let b0 := (lo - c0) * f.width / 8
  let b1 := min n (cdiv ((pad - c0) * f.width) 8)
  let bytes := ((toLE n (fld l.data.toNat 0 (cn * f.width))).drop b0).take (b1 - b0)
  let m := wrBs s.mem (k + b0) bytes
  let m := if t.scaled then
      (List.range (cdiv (hi - lo) t.blk)).foldl (fun m i =>
        let c := lo / t.blk * t.blk + i * t.blk
        wrB m (t.key t.base + t.scaleOfs + tr * t.rowScales + c / t.blk) (BitVec.ofNat 8 (fld l.sc.toNat (8 * ((c - c0) * f.width / 64)) 8))) m
    else if t.selv then wrBs m (t.key t.base + t.scaleOfs + (tr * t.rowScales + lo / 32) * 8) (toLE 8 l.hdr.toNat)
    else m
  let m := if t.bobs = 0 then m else
    (List.range (cdiv (hi - lo) 32)).foldl (fun m i =>
      let b := lo / 32 + i
      (List.range t.bobs).foldl (fun m q =>
        wrBs m (t.key t.base + t.bobOfs + ((tr * t.rowBlocks + b) * t.bobs + q) * 2) (toLE 2 (fld l.bob.toNat (((b * 32 - c0) / 32 * t.bobs + q) * 16) 16))) m) m
  let m := t.retag m t.base tr lo (hi - lo)
  let m := t.reshadow m t.base tr
  let s := ({ s with mem := m }.mark (k + b0) (b1 - b0) (l.poison || l.ecc ≠ 0)).attachRow t t.base tr
  if bad then s.poisonRange (k + b0) (b1 - b0) else s

end Sys2Proof.Machine
end

