-- ==== Sys2Proof/Machine/PanelCmds.lean ====
section
/-! DEFINITION. Commands of a panel's clock: issue of a row word, arrivals, the residue check (spec/04 R123, R129, spec/05 R146,
R167, R171). -/
namespace Sys2Proof.Machine

/-- ROW_WORD_ISSUE (R140, R146): one issue of the word at the panel's program counter. Skeins of wide drains go to their
reduction (R347), those of a split Skein-192 sum to its combination (R69). -/
def execRowWordIssue (panel : Nat) (s : State) : Host.Outcome State Fault Refusal :=
  if !s.panelUp panel then .next s else
  let r := (s.panel panel).issue s.fresh
  match r.stop with
  | some .portClash => .fault .writePortClash
  | some .extentLeft => .fault .extentLeft
  | none =>
    let t := { s.setPanel panel r.p with fresh := s.fresh + 1 }
    match r.p.seg with
    | some g => .next (if r.emits.isEmpty then t else if g.comb then t.takeParts g r.emits else t.takeEmits g r.emits)
    | none => .next t

/-- The earliest operations of a kind land, once their cycle has come: the next word issues at or after it, or none issues. -/
def Panel.arrive (p : Panel) (k : Nat) : Panel :=
  match (p.fly.filter fun f => f.op.kind = k).map (·.due) with
  | [] => p
  | d :: t => if t.foldl min d ≤ p.cycle ∨ p.ended ∨ p.seg.isNone then p.landKind k else p

/-- An arrival of a kind on a panel. -/
def State.arrive (s : State) (panel k : Nat) : State := s.setPanel panel ((s.panel panel).arrive k)

/-- Corrected errors counted on the `STE` page (R130). -/
def Panel.correct (p : Panel) (n : Nat) : Panel := { p with counts := { p.counts with corrected := p.counts.corrected + n } }

/-- OPERAND_READ_ARRIVAL (R123, R130). -/
def execOperandReadArrival (read : ReadEvent) (s : State) : Host.Outcome State Fault Refusal :=
  .next (let t := s.arrive read.panel 0
    let t := t.setPanel read.panel ((t.panel read.panel).correct read.corrected)
    if read.corrected = 0 then t else t.err 2 read.panel 0)
/-- PRODUCT_VISIBLE (R113). -/
def execProductVisible (panel : Nat) (s : State) : Host.Outcome State Fault Refusal := .next (s.arrive panel 1)
/-- DRAIN_ENTRY_ARRIVAL (R123). -/
def execDrainEntryArrival (panel : Nat) (s : State) : Host.Outcome State Fault Refusal := .next (s.arrive panel 2)
/-- PRELOAD_VISIBLE (R123). -/
def execPreloadVisible (panel : Nat) (s : State) : Host.Outcome State Fault Refusal := .next (s.arrive panel 3)
/-- NEIGHBOUR_ADD_VISIBLE (R123). -/
def execNeighbourAddVisible (panel : Nat) (s : State) : Host.Outcome State Fault Refusal := .next (s.arrive panel 4)
/-- PARTIAL_SEND_ARRIVAL (R167). -/
def execPartialSendArrival (panel : Nat) (s : State) : Host.Outcome State Fault Refusal := .next (s.arrive panel 5)
/-- ELEMENT_RESULT_PUSH (R123). -/
def execElementResultPush (panel : Nat) (s : State) : Host.Outcome State Fault Refusal := .next (s.arrive panel 6)
/-- NORM_FINISH_SETTLE (R167). -/
def execNormFinishSettle (panel : Nat) (s : State) : Host.Outcome State Fault Refusal := .next (s.arrive panel 7)
/-- B_HALF_READY (R111). -/
def execBHalfReady (panel : Nat) (s : State) : Host.Outcome State Fault Refusal := .next (s.arrive panel 8)

/-- The write tags whose four cycles have passed are released (R129). -/
def Panel.turnaround (p : Panel) : Panel :=
  { p with wtags := p.wtags.filter fun t => !(decide (t.2 + 4 ≤ p.cycle) || p.ended || p.seg.isNone) }

/-- WRITE_TURNAROUND_END (R129). -/
def execWriteTurnaroundEnd (panel : Nat) (s : State) : Host.Outcome State Fault Refusal :=
  .next (s.setPanel panel (s.panel panel).turnaround)

/-- RESIDUE_CHECK (R171). -/
def execResidueCheck (panel : Nat) (s : State) : Host.Outcome State Fault Refusal := .next (s.setPanel panel (s.panel panel).residue)

end Sys2Proof.Machine
end

