-- ==== Sys2Proof/Machine/Swatch.lean ====
section
/-! DEFINITION. Shadow and cross swatches, suspect records, decision runs and fences (spec/14 R369 to R379, spec/15 R410 to
R413). -/
namespace Sys2Proof.Machine

/-- Physical panel of a physical engine. -/
def engPanel (x : Nat) : Nat := x / 17

/-- A swatch mismatch (R374, R375): counted and logged, a suspect record made (or both engines fenced when 64 are in use), the
attempt failed as replayable. A graph without SEAL has no replay, so its record closes at once (R379). -/
def State.mismatch (s : State) (shadow : Bool) (r : Suspect) : State :=
  let s := { s with swt := if shadow then { s.swt with mmShadow := bump s.swt.mmShadow } else { s.swt with mmCross := bump s.swt.mmCross } }
  let s := s.log { code := if shadow then 0x0401 else 0x0402, sev := 3, ctx := (s.slot r.slot).ctx.toNat, unit := 3
                   num := s.remap.engNum r.x, phys := r.x
                   data := r.slot + r.task * 2 ^ 6 + r.sigma * 2 ^ 26 + r.attempt * 2 ^ 58 + r.tile * 2 ^ 61 + r.x * 2 ^ 65 + r.y * 2 ^ 77 }
  let s := if 64 ≤ s.swt.suspects.length then (s.fence r.x).fence r.y
    else { s with swt := { s.swt with suspects := s.swt.suspects ++ [r] } }
  let s := s.failAttempt r.slot true
  if (s.slot r.slot).st = .running ∧ (s.slot r.slot).graph.training then s else s.closeSuspects r.slot

/-- The verdict on one suspect of a decision run (R377): odd when its original result differs from Z's; an odd engine is
permanent when its repeat differs too, transient otherwise; one that is not odd but differs now is a new mismatch. -/
def State.judge (s : State) (k : Check) (r : Suspect) (x : Nat) (orig again z : BitVec 384) : State :=
  if s.remap.fencedEng.contains x then s else
  let s := { s with swt := { s.swt with decided := if s.swt.decided = BitVec.allOnes 56 then s.swt.decided else s.swt.decided + 1 } }
  if orig ≠ z then
    if again ≠ z then s.fence x
    else (s.log { code := 0x0403, sev := 2, unit := 3, num := s.remap.engNum x, phys := x }).countTransient x
  else if again ≠ z then
    s.mismatch false { slot := k.slot, task := k.task, sigma := k.sigma, attempt := k.attempt, tile := r.tile
                       x := s.remap.eng k.primary r.tile, y := x, digX := z, digY := again }
  else s

/-- A decision run whose checking panels have all been compared closes its record. -/
def State.closeDecided (s : State) (r : Suspect) : State :=
  if (s.swt.due ++ s.swt.checking).any (fun k => k.susp = some r) then s
  else { s with swt := { s.swt with suspects := s.swt.suspects.filter (· ≠ r) } }

/-- Is Y the spare of X's panel: the two share a physical panel. -/
def Suspect.sharesPanel (r : Suspect) : Bool := engPanel r.x = engPanel r.y

/-- The suspect that a checking panel of a decision run carries. -/
def State.suspectOn (s : State) (r : Suspect) (panel : Nat) : Nat := if engPanel r.x = s.remap.panel panel then r.x else r.y

/-- The part of an engine's state that a shadow swatch compares and loads (R137): Skeins with in-flight counts, anchor records, B
halves, queues, norm accumulators and results. Marks of errors are no part of it. -/
def Engine.compared (n : Engine) : Engine :=
  { n with elems := [], cables := [], elemFree := 0, normFree := 0, normAt := [], badSk := [], badAnc := [], digest := 0
           half0 := { n.half0 with ecc := none }, half1 := { n.half1 with ecc := none } }

/-- Does a panel's spare differ from the engine it shadowed, once every operation in flight has completed (R137), or did an entry
it pushed or an outcome of its detectors (R136, R175)? -/
def Panel.spareDiffers (p : Panel) : Bool :=
  let q := p.landTo 31
  q.differ || q.spare.compared != (q.eng q.shadow).compared

/-- The spare loads the complete state of the engine it shadows in frame f (R137); an operation of that engine still in flight is
the spare's too. -/
def Panel.loadSpare (p : Panel) (f : Nat) : Panel :=
  let e := f % 16
  { p with spare := p.eng e, shadow := e, differ := false
           fly := (p.fly.filter fun y => y.e ≠ 16) ++ (p.fly.filter fun y => y.e = e).map fun y => { y with e := 16 } }

/-- The spare of a panel loads the engine of the frame that starts; a panel without an unassigned spare has no shadow (R136 to R138). -/
def State.reshade (s : State) (panel : Nat) : State :=
  s.setPanel panel (if (s.remap.spare panel).isSome then (s.panel panel).loadSpare s.frame.toNat
    else { s.panel panel with spare := {}, shadow := 16, differ := false })

/-- SHADOW_SWATCH (R136, R137, R369): the panel's spare compares its state, entries and detectors with the engine it shadowed in the
frame that ended, and loads the next one. `upset` says that one of the two engines was in error without its own knowledge, `digX`
and `digY` are the digests of the two (log 57). A frame with a dropped stitch is not compared (R175). In a decision run the spare is
the suspect Y. -/
def execShadowSwatch (panel : Nat) (upset : Bool) (digX digY : BitVec 384) (s0 : State) : Host.Outcome State Fault Refusal :=
  let s := s0.reshade panel
  match s.remap.spare panel with
  | none => .next s
  | some y =>
    let p := s0.panel panel
    if !(s.panelUp panel) ∨ p.ranFault then .next s else
    match s.swt.due.find? (fun k => k.panel = panel && k.susp.any (fun r => r.sharesPanel && r.y = y)) with
    | some k =>
      let rest := s.swt.due.filter (· ≠ k)
      (match k.susp, k.z with
       | some r, some z => .next (({ s with swt := { s.swt with due := rest } }.judge k r y r.digY digY z).closeDecided r)
       | _, _ => .next { s with swt := { s.swt with due := rest ++ [{ k with y := some digY }] } })
    | none =>
      let e := (s.frame.toNat + 15) % 16
      if !(upset || (decide (p.shadow = e) && p.spareDiffers)) then .next s else
      match p.ran with
      | some g => .next (s.mismatch true { slot := g.slot, task := g.task, sigma := g.sigma, attempt := (s.slot g.slot).attempt.toNat
                                           tile := e, x := s.remap.eng panel e, y := y, digX := digX, digY := digY })
      | none => .next { s with swt := { s.swt with mmShadow := bump s.swt.mmShadow } }

/-- CROSS_SWATCH (R373, R377): a checking panel has compared its engines with the primary's, which `SWT_CROSS` counts. The model's two panels run alike, so
they differ where `upset` says that one was in error; `engine` is the tile in question (log 57). In a decision run `digX` is Z's digest
and `digY` the suspect's. -/
def execCrossSwatch (panel : Nat) (upset : Bool) (engine : Nat) (digX digY : BitVec 384) (s : State) : Host.Outcome State Fault Refusal :=
  match s.swt.due.find? (fun k => k.panel = panel && k.z.isNone) with
  | none => .next s
  | some k =>
    let rest := s.swt.due.filter (· ≠ k)
    let s1 := { s with swt := { s.swt with due := rest } }
    if (s.panel k.primary).ranFault then .next (match k.susp with
      | some r => s1.closeDecided r
      | none => s1)
    else match k.susp with
    | none =>
      let e := engine % 16
      let s1 := { s1 with swt := { s1.swt with cross := bump s1.swt.cross } }
      .next (if !upset then s1 else
        s1.mismatch false { slot := k.slot, task := k.task, sigma := k.sigma, attempt := k.attempt, tile := e
                            x := s.remap.eng k.primary e, y := s.remap.eng panel ((e + 16 - k.rot) % 16), digX := digX, digY := digY })
    | some r =>
      let x := s.suspectOn r panel
      let both := r.sharesPanel && !(s.remap.fencedEng.contains r.y)
      let s2 : State := if both ∧ k.y.isNone then { s1 with swt := { s1.swt with due := rest ++ [{ k with z := some digX }] } } else s1
      let s3 := s2.judge k r x (if x = r.x then r.digX else r.digY) digY digX
      let s4 := match k.y with
        | some y => if both then s3.judge k r r.y r.digY y digX else s3
        | none => s3
      .next (s4.closeDecided r)

/-! ### Fences, spares, absent panels (R138, R139, R410 to R412) -/

/-- A segment is lost with its panel: its output windows are poisoned, its task gets status 0x03 and its attempt fails (R404). -/
def State.loseSeg (s : State) (g : Seg) : State :=
  let s := (g.refs.filter (·.out)).foldl (fun s (r : RefW) => r.ranges.foldl (fun s k => s.poisonRange k.1 k.2) s) s
  let x := s.slot g.slot
  if x.st = .running ∧ x.ctx.toNat = g.ctx ∧ x.desc g.task = g.desc then (s.finishTask g.slot g.task 3).failAttempt g.slot false else s

/-- A panel that cannot field sixteen engines is replaced by its die's spare panel, or marked absent (R411). Its running
segment is poisoned; segments that have ended keep their lines for the writeback. -/
def State.replacePanel (s : State) (p : Nat) : State :=
  let old := s.remap.panel p
  let x := s.panel p
  let s := { s with remap := { s.remap with fencedPan := sins s.remap.fencedPan old } }
  let s := x.seg.toList.foldl (fun s g => s.loseSeg g) (s.setPanel p { counts := x.counts, sram := x.sram, wbq := x.wbq, held := x.held })
  match s.remap.sparePanel (p / 16) with
  | some q =>
    ({ s with remap := { s.remap with panelOf := tset 0 s.remap.panelOf p (q + 1) } }).log { code := 0x0802, sev := 2, unit := 2, num := p, phys := q }
  | none =>
    ({ s with remap := { s.remap with absent := sins s.remap.absent p } }).log { code := 0x0803, sev := 2, unit := 2, num := p, phys := old }

/-- An engine that leaves service passes its logical number to the panel's unassigned spare, or the panel is replaced (R378,
R410). -/
def State.passOn (s : State) (x : Nat) : State :=
  match (List.range 32).find? (fun p => s.remap.panel p = engPanel x ∧ s.remap.present p) with
  | none => s
  | some p =>
    match s.remap.logical p x with
    | none => s
    | some e =>
      match s.remap.spare p with
      | some y => (({ s with remap := { s.remap with engOf := tset 0 s.remap.engOf (s.remap.panel p * 16 + e) (y + 1) } }).reshade p).log
          { code := 0x0801, sev := 2, unit := 3, num := p * 16 + e, phys := y }
      | none => if s.remap.fencedEng.contains x then s.replacePanel p else s

/-- At a frame boundary the engines marked are fenced and replaced, and the engines and panels that failed their reset (R410, R411). -/
def State.applyFences (s : State) : State :=
  let l := s.remap.atTick
  let s := { s with remap := { s.remap with atTick := [], fencedEng := l.foldl sins s.remap.fencedEng }
                    swt := { s.swt with fenced := l.foldl (fun n _ => bump n) s.swt.fenced } }
  let s := l.foldl (fun s x => s.passOn x) s
  let fe := s.remap.failedEng
  let fp := s.remap.failedPan
  let s := { s with remap := { s.remap with failedEng := [], failedPan := [] } }
  let s := fe.foldl (fun s x => if s.remap.fencedEng.contains x then s else
    ({ s with remap := { s.remap with fencedEng := sins s.remap.fencedEng x } }).passOn x) s
  fp.foldl (fun s p => s.replacePanel p) s

end Sys2Proof.Machine
end

