-- ==== Sys2Proof/Machine/Seal.lean ====
section
/-! DEFINITION. Swash operations, the gradient norm, the seal agreement, stop notices, commit, replay and twin deltas (spec/13
R366 to R368, spec/09 R257 to R263, spec/14 R388 to R397, spec/08 R237 to R239, spec/15 R414, R415). -/
namespace Sys2Proof.Machine

/-! ### Swash operations (R366 to R368) -/

/-- Members of a Swash group; 64 is the job group. -/
def State.swGroup (s : State) (c grp : Nat) : List Nat :=
  if 64 ≤ grp then List.range (s.ctx c).ranksN
  else if grpCtx (tget 0 s.fab.groups grp) = c ∧ grpValid (tget 0 s.fab.groups grp) then (s.groupOf c grp).2 else []
/-- The index of a rank in a group. -/
def memberOf (ranks : List Nat) (r : Nat) : Option Nat := ranks.findIdx? (· = r)
/-- A Swash operation in progress. -/
def State.swFind (s : State) (c grp seq : Nat) : Option SwOp := s.fab.sw.find? fun o => o.ctx = c ∧ o.grp = grp ∧ o.seq = seq
/-- An operation replaced or added. -/
def State.setSw (s : State) (o : SwOp) : State :=
  { s with fab := { s.fab with sw := s.fab.sw.filter (fun x => ¬(x.ctx = o.ctx ∧ x.grp = o.grp ∧ x.seq = o.seq)) ++ [o] } }
/-- An operation removed. -/
def State.dropSw (s : State) (o : SwOp) : State :=
  { s with fab := { s.fab with sw := s.fab.sw.filter fun x => ¬(x.ctx = o.ctx ∧ x.grp = o.grp ∧ x.seq = o.seq) } }

/-- Payload of lanes: 8 bytes each, 16 for an exact sum. -/
def swPayload (code : Nat) (l : List Int) : List Byte := l.flatMap fun v => if code = 5 then toLE 16 (toTwos 128 v) else toLE 8 (toTwos 64 v)
/-- Lanes of a payload. -/
def swLanes (code lanes : Nat) (l : List Byte) : List Int :=
  let w := if code = 5 then 16 else 8
  (List.range lanes).map fun k => sext (ofLE ((l.drop (w * k)).take w)) (8 * w)

/-- A Swash packet (R367); a failed operation travels with code 0. -/
def swMsg (grp seq code lanes : Nat) (l : List Int) : Msg :=
  { tc := 1, pfmt := 8, chunk := seq, offset := code * 2 ^ 28 + lanes * 2 ^ 24 + grp % 64 * 2 ^ 18 + (if 64 ≤ grp then 2 ^ 17 else 0)
    payload := swPayload code l }

/-- A final result goes down the tree from this member (R368). -/
def State.swDown (s : State) (o : SwOp) (fail : Bool) (res : List Int) : State :=
  let m := if fail then swMsg o.grp o.seq 0 0 [] else swMsg o.grp o.seq o.code o.lanes res
  (swKids o.ranks.length o.self).foldl (fun s k => s.lsSend o.ctx (nth 0 o.ranks k) m) s

/-- An operation with its result leaves: counted, a mismatch logged. -/
def State.swEnd (s : State) (o : SwOp) (fail : Bool) (res : List Int) : State × Option SwOp :=
  let s := (s.dropSw o).swDown o fail res
  let s := { s with fab := { s.fab with swOps := bump s.fab.swOps, swFails := if fail then bump s.fab.swFails else s.fab.swFails } }
  let s := if fail then s.log { code := 0x0507, sev := 3, ctx := o.ctx, data := o.grp % 128 + o.seq * 2 ^ 7 } else s
  (s, some { o with result := some res, failed := fail })

/-- An operation whose own operands and children's results are in is combined as a set and goes up, or at member 0 is final
(R368). A differing code or lane count fails it (R367). -/
def State.swTry (s : State) (o : SwOp) : State × Option SwOp :=
  match o.own with
  | none => (s, none)
  | some own =>
    let kids := swKids o.ranks.length o.self
    if o.sentUp ∨ !(kids.all fun k => o.kids.any fun x => x.1 = k) then (s, none) else
    let fail := o.kids.any fun x => x.2.1 ≠ o.code || x.2.2.1 ≠ o.lanes
    let res := o.kids.foldl (fun a x => swComb o.code a x.2.2.2) own
    if o.self = 0 then s.swEnd o fail res
    else
      let m := if fail then swMsg o.grp o.seq 0 0 [] else swMsg o.grp o.seq o.code o.lanes res
      ((s.setSw { o with sentUp := true }).lsSend o.ctx (nth 0 o.ranks ((o.self - 1) / 16)) m, none)

/-- This member enters its next operation on a group (R367): its operands, and what waits for the result. -/
def State.swStart (s : State) (c grp code : Nat) (own : List Int) (use slot task : Nat) : State × Option SwOp :=
  let x := s.ctx c
  let seq := tget 0 x.swSeq grp
  let ranks := s.swGroup c grp
  match memberOf ranks x.cfg.rank.toNat with
  | none => (s, none)
  | some self =>
    let s := s.setCtx c { x with swSeq := tset 0 x.swSeq grp ((seq + 1) % 2 ^ 20) }
    let o := (s.swFind c grp seq).getD { ctx := c, grp := grp, seq := seq, code := code, lanes := own.length, ranks := ranks, self := self }
    let o := { o with code := code, lanes := own.length, own := some own, use := use, slot := slot, task := task }
    (s.setSw o).swTry o

/-! ### The gradient norm (R257, R258) -/

/-- UPDATE tasks of a graph. -/
def Graph.updates (g : Graph) : List Nat := (List.range g.tasks.length).filter fun i => TD.typ (nth 0 g.tasks i) = 6
/-- `ORIGIN` of an update block (R242). -/
def UB.origin (d : Nat) : Nat := fld d 992 32
/-- `MASKMODE`. -/
def UB.maskMode (d : Nat) : Nat := fld d 990 2
/-- `NORM_IN`. -/
def UB.normIn (d : Nat) : Bool := bitOf d 989
/-- `UNSCALE`. -/
def UB.unscale (d : Nat) : Bool := bitOf d 988
/-- UPDATE tasks with `NORM_IN`. -/
def Graph.normTasks (g : Graph) : List Nat := g.updates.filter fun i => UB.normIn (nth 0 g.tasks i)
/-- Is a row of an UPDATE task unmasked (R229)? -/
def State.updRow (s : State) (e : TaskEnv) (row : Nat) : Bool :=
  match e.r 4 with
  | some m => maskBit s.mem m (UB.maskMode e.d) row
  | none => true

/-- The exact value of a gradient element as LOAD forms it before its rounding (R252). -/
def State.gradVal (s : State) (e : TaskEnv) (g : TRec) (ex : Int) (row col : Nat) : Val :=
  (g.val s.mem g.base row col).scale (if UB.unscale e.d then -ex else 0)

/-- The lowest-step RUNNING training slot of a context: its Swash operations come first (R367, R388). -/
def State.trainSlot (s : State) (c : Nat) : Option Nat :=
  ((s.liveSlots c).filter fun n => (s.slot n).st = .running && (s.slot n).graph.training).foldl (fun b n => match b with
    | some m => if (s.slot n).step.toNat < (s.slot m).step.toNat then some n else some m
    | none => some n) none

/-- Is every gradient of the norm complete (R257)? -/
def State.gradsDone (s : State) (n : Nat) : Bool :=
  let x := s.slot n
  x.graph.normTasks.all fun i => (List.range x.tasks.length).all fun j =>
    !((s.taskEnv n j).writes.any fun r => TD.tref (x.desc j) r = TD.tref (x.desc i) 1) || (x.task j).status = 1

/-- γ: the largest gauge tag, less e, over the unmasked tag blocks (R257). -/
def State.normGauge (s : State) (n : Nat) : Int :=
  let x := s.slot n
  (maxI (x.graph.normTasks.flatMap fun i =>
    let e := s.taskEnv n i
    match e.r 1 with
    | none => []
    | some g => (List.range g.rows).flatMap fun row => if !s.updRow e row then [] else
        (List.range g.rowBlocks).map fun b => g.tag s.mem g.base row (32 * b) - (if UB.unscale e.d then x.att.e else 0))).getD (-127)

/-- The sum of squares on the grid of Γ, and whether a NaN or infinity was met (R257). -/
def State.normSum (s : State) (n : Nat) (gam : Int) : Nat × Bool :=
  let x := s.slot n
  x.graph.normTasks.foldl (fun p i =>
    let e := s.taskEnv n i
    match e.r 1 with
    | none => p
    | some g => (List.range g.rows).foldl (fun p row => if !s.updRow e row then p else
        (List.range g.e0).foldl (fun (p : Nat × Bool) col => match s.gradVal e g x.att.e row col with
          | .fin _ m k => (p.1 + rneAt (magDy (m * m) (2 * k + 140 - 2 * gam)) 0, p.2)
          | _ => (p.1, true)) p) p) (0, false)

/-- The square of the norm, S × 2^(2Γ − 140), as a value. -/
def normSq (gam : Int) (S : Nat) : Val := .fin false S (2 * gam - 140)

/-- The result of the norm's SUM (R257). -/
def State.useSum (s : State) (o : SwOp) : State :=
  let x := s.slot o.slot
  if x.st ≠ .running ∨ x.attempt.toNat ≠ o.task ∨ x.att.voted then s else
  if o.failed then (s.setAtt o.slot { x.att with normPhase := 3 }).failAttempt o.slot true else
  let l := o.result.getD []
  let S := sumN ((List.range 4).map fun j => (nth 0 l j).toNat * 2 ^ (48 * j))
  let s := s.setAtt o.slot { x.att with normPhase := 3, norm := some S }
  s.setCtx o.ctx { s.ctx o.ctx with gnorm := BitVec.ofNat 32 (f32Code (exSqrt (normSq x.att.gauge S))) }

/-- The result of the norm's MAX: the sum of squares follows (R257). -/
def State.useMax (s : State) (o : SwOp) : State :=
  let x := s.slot o.slot
  if x.st ≠ .running ∨ x.attempt.toNat ≠ o.task ∨ x.att.normPhase ≠ 1 then s else
  if o.failed then
    let (s, r) := (s.setAtt o.slot { x.att with normPhase := 3 }).swStart o.ctx 64 5 [0, 0, 0, 0] 2 o.slot o.task
    (match r with
     | some p => s.useSum p
     | none => s).failAttempt o.slot true
  else
    let gam := nth 0 (o.result.getD []) 0
    let (sq, bad) := s.normSum o.slot gam
    let s := s.setAtt o.slot { x.att with normPhase := 2, gauge := gam, ovf := x.att.ovf || bad }
    let (s, r) := s.swStart o.ctx 64 5 ((List.range 4).map fun j => (fld sq (48 * j) 48 : Int)) 2 o.slot o.task
    match r with
    | some p => s.useSum p
    | none => s

/-! ### The vote (R388 to R391) -/

/-- The UPDATE tasks of a slot whose P has another `FIN_STEP` than S − 1 (R260): tensor ID and stored value. -/
def State.skews (s : State) (n : Nat) : List (Nat × Nat) :=
  let x := s.slot n
  x.graph.updates.filterMap fun i => match s.tensor x.ctx.toNat (TD.tref (x.desc i) 0) with
    | some p => if p.finStep = (x.step.toNat + 2 ^ 32 - 1) % 2 ^ 32 then none else some (p.tid, p.finStep)
    | none => none

/-- The step-skew comparison, once for an attempt (R260, R389). -/
def State.skewCheck (s : State) (n : Nat) : State :=
  let x := s.slot n
  if x.att.skewDone then s else
  let l := s.skews n
  let s := s.setAtt n { x.att with skewDone := true, skewBit := x.att.skewBit || !l.isEmpty }
  l.foldl (fun s p => s.log { code := 0x0504, sev := 5, ctx := x.ctx.toNat, unit := 9, data := p.1 + p.2 * 2 ^ 32 + x.step.toNat * 2 ^ 64 }) s

/-- Lane 2 of the SUM: the module's parameter checksum (R395, R263), of the values this seal commits: where the OR found an overflow, those of
the last commit (R261, log 70). A P never committed nor stored has a free one, the same at every attempt. -/
def State.paramSum (s : State) (n : Nat) (ovf : Bool) : Nat :=
  let x := s.slot n
  let c := x.ctx.toNat
  x.graph.updates.foldl (fun (p : Nat) i =>
    let tid := TD.tref (x.desc i) 0
    let v := if ovf ∨ tget 0 x.att.parNew tid = 0 then tget 0 (s.ctx c).parSums tid else tget 0 x.att.parNew tid
    (p + if v = 0 then Config.freeOf [395, c, (s.ctx c).gen.toNat, tid] else v - 1) % ledM) 0

/-- The status lane of a slot's vote: REPLAY, STOP, SKEW, OVERFLOW. -/
def Attempt.status (a : Attempt) : Nat := a.replayBit.toNat + a.stopBit.toNat * 2 + a.skewBit.toNat * 4 + a.ovf.toNat * 8

/-- The outcome of the combined vote in the order of R391: 1 sealed, 2 replay, 3 not replayable, 4 step skew, 5 sealed with
overflow. A vote whose operations failed is replayed. -/
def voteOutcome (fail : Bool) (v : List (Nat × List Int)) : Nat :=
  let lane (use k : Nat) : Int := nth 0 (((v.find? fun x => x.1 = use).map (·.2)).getD []) k
  let bits := toTwos 64 (lane 3 0)
  if fail then 2
  else if bitOf bits 1 ∨ lane 4 0 ≠ lane 5 0 ∨ lane 4 3 ≠ lane 5 3 then 3
  else if bitOf bits 2 ∨ lane 4 1 ≠ lane 5 1 then 4
  else if bitOf bits 0 ∨ ledX (lane 6 0) ≠ ledX (lane 6 1) then 2
  else if bitOf bits 3 then 5 else 1

/-- One operation of the vote has its result; with the fourth the outcome is known. -/
def State.noteVote (s : State) (o : SwOp) : State :=
  let x := s.slot o.slot
  if x.st ≠ .running ∨ x.attempt.toNat ≠ o.task then s else
  let v := x.att.vote ++ [(o.use, o.result.getD [])]
  let fail := x.att.voteFail || o.failed
  s.setAtt o.slot { x.att with vote := v, voteFail := fail, sealing := if v.length = 4 then voteOutcome fail v else 0 }

/-- Operands of the MAX and the MIN (R388). -/
def State.voteFour (s : State) (n : Nat) : List Int :=
  let x := s.slot n
  [x.att.e, x.step.toNat, x.attempt.toNat, sext ((s.ctx x.ctx.toNat).cfg.ident.toNat % 2 ^ 64) 64]

/-- The vote's operations are issued in order, each once the one before it has its result (R388, log 70): MAX after OR, then MIN, then
SUM. -/
def State.voteNext (s : State) (o : SwOp) : State × Option SwOp :=
  let x := s.slot o.slot
  if x.st ≠ .running ∨ x.attempt.toNat ≠ o.task then (s, none) else
  match o.use with
  | 3 => s.swStart o.ctx 64 3 (s.voteFour o.slot) 4 o.slot o.task
  | 4 => s.swStart o.ctx 64 4 (s.voteFour o.slot) 5 o.slot o.task
  | 5 =>
    let or := ((x.att.vote.find? fun v => v.1 = 3).map (·.2)).getD []
    s.swStart o.ctx 64 5 [(x.att.ledA : Int), (x.att.ledH : Int), (s.paramSum o.slot (bitOf (toTwos 64 (nth 0 or 0)) 3) : Int)] 6 o.slot o.task
  | _ => (s, none)

/-- A result of the vote used: it is noted and the next operation follows; the fuel bounds the four. -/
def State.voteRun : Nat → State → SwOp → State
  | 0, s, o => s.noteVote o
  | f + 1, s, o => match (s.noteVote o).voteNext o with
    | (s, some p) => State.voteRun f s p
    | (s, none) => s

/-- One operation of the vote has its result. -/
def State.useVote (s : State) (o : SwOp) : State := State.voteRun 3 s o

/-- A BARRIER task ends; it completes, and its flag rises, as the frame retires (R285, R339, R367). -/
def State.useBarrier (s : State) (o : SwOp) : State :=
  s.endsWith o.slot o.task (if o.failed then 3 else 1)

/-- What waits for an operation's result goes on. -/
def swUse (r : State × Option SwOp) : State :=
  match r.2 with
  | none => r.1
  | some o =>
    match o.use with
    | 1 => r.1.useMax o
    | 2 => r.1.useSum o
    | 7 => r.1.useBarrier o
    | 0 => r.1
    | _ => r.1.useVote o

/-- The vote begins with its OR (R388), after any norm operation not yet issued, with zero operands (R390). -/
def State.issueVote (s : State) (n : Nat) : State :=
  let x := s.slot n
  let c := x.ctx.toNat
  if x.st ≠ .running ∨ x.att.voted ∨ !x.graph.training then s else
  let a := x.attempt.toNat
  let norm := !x.graph.normTasks.isEmpty
  let s := s.setAtt n { x.att with voted := true, normPhase := if norm then 3 else x.att.normPhase }
  let s := if norm ∧ x.att.normPhase = 0 then (s.swStart c 64 3 [0] 1 n a).1 else s
  let s := if norm ∧ x.att.normPhase < 2 then (s.swStart c 64 5 [0, 0, 0, 0] 2 n a).1 else s
  swUse (s.swStart c 64 1 [((s.slot n).att.status : Int)] 3 n a)

/-- The SEAL task of a slot's graph. -/
def Slot.sealTask (x : Slot) : Nat := (x.graph.tasks.findIdx? fun d => TD.typ d = 7).getD x.graph.tasks.length

/-- Is the vote without failure bits due (R279, R389, R415)? The SEAL task has been dispatched and every check is done. -/
def State.voteClean (s : State) (n : Nat) : Bool :=
  let x := s.slot n
  x.allDone && !x.stopped && (x.task x.sealTask).dispatched && (x.graph.normTasks.isEmpty || x.att.normPhase = 3)
  && !(s.swt.suspects.any fun r => r.slot = n) && !((s.swt.due ++ s.swt.checking).any fun k => k.slot = n && k.susp.isNone)
  && (s.ctx x.ctx.toNat).twinWait.isNone

/-- A stop notice (R390). -/
def noticeMsg (bits step attempt : Nat) : Msg :=
  { tc := 1, pfmt := 8, poison := true, payload := toLE 8 bits ++ toLE 8 step ++ toLE 8 attempt }

/-- A stop notice leaves this member: up the tree, or down from member 0 (R390). -/
def State.sendNotice (s : State) (c : Nat) (m : Msg) : State :=
  let ranks := s.swGroup c 64
  match memberOf ranks (s.ctx c).cfg.rank.toNat with
  | none => s
  | some 0 => (swKids ranks.length 0).foldl (fun s k => s.lsSend c (nth 0 ranks k) m) s
  | some (k + 1) => s.lsSend c (nth 0 ranks (k / 16)) m

/-- The data and chunk signals of an attempt's reductions, gathers and transfers that have not left are dropped (R390). -/
def State.dropQueued (s : State) (n : Nat) : State :=
  let x := s.slot n
  let of_ (p : Packet) : Bool := (s.fab.reds.any fun r => r.slot = n && s.redPacket r p) || (s.fab.p2p.any fun y => y.slot = n && y.sent p)
  { s with fab := { s.fab with streams := s.fab.streams.map fun y =>
      if y.ctx = x.ctx.toNat then { y with txq := y.txq.filter fun p => !of_ p } else y } }

/-- A failing attempt's vote (R389, R390): the notice with the status lane first, then the comparison, then the vote. -/
def State.failVote (s : State) (n : Nat) : State :=
  let x := s.slot n
  let s := s.sendNotice x.ctx.toNat (noticeMsg x.att.status x.step.toNat x.attempt.toNat)
  ((s.dropQueued n).skewCheck n).issueVote n

/-- A stop notice arrives (R390): one for the current step and attempt of a RUNNING training slot stops it and forces its vote. -/
def State.onNotice (s : State) (c bits step attempt : Nat) : State :=
  match (s.liveSlots c).find? fun n => let x := s.slot n; x.st = .running && x.graph.training && decide (x.step.toNat = step ∧ x.attempt.toNat = attempt) with
  | none => s
  | some n =>
    let x := s.slot n
    if x.att.voted then s else
    let s := s.setSlot n { x with stopped := true, att := { x.att with replayBit := x.att.replayBit || bitOf bits 0, stopBit := x.att.stopBit || bitOf bits 1
                                                                       skewBit := x.att.skewBit || bitOf bits 2, ovf := x.att.ovf || bitOf bits 3 } }
    ((s.dropQueued n).skewCheck n).issueVote n

/-! ### Twin deltas (R414, R415) -/

/-- `TW_EN` of `FIN_TWIN`. -/
def CtxCfg.twEn (x : CtxCfg) : Bool := x.finTwin.getLsbD 63
/-- `TW_CTX`. -/
def CtxCfg.twCtx (x : CtxCfg) : Nat := BV.fld x.finTwin 59 4
/-- `TW_RANK`. -/
def CtxCfg.twRank (x : CtxCfg) : Nat := BV.fld x.finTwin 39 20

/-- Lines of the committed copy of a tensor that differ from the other copy: line number and bytes. -/
def State.deltaLines (s : State) (t : TRec) : List (Nat × List Byte) :=
  let a := t.key t.base
  let b := t.key t.shadowBase
  let n := t.pages * 2 ^ 21
  let ls := (s.mem.filterMap fun (k, _) => if a ≤ k ∧ k < a + n then some ((k - a) / 128) else if b ≤ k ∧ k < b + n then some ((k - b) / 128) else none).foldl sins []
  ls.filterMap fun l =>
    let x := rdBs s.mem (a + 128 * l) 128
    if x = rdBs s.mem (b + 128 * l) 128 then none else some (l, x)

/-- Every line of a tensor's committed copy, for an adoption (R416). -/
def State.copyLines (s : State) (t : TRec) : List (Nat × List Byte) :=
  (List.range (cdiv t.endOfs 128)).map fun l => (l, rdBs s.mem (t.key t.base + 128 * l) 128)

/-- Ledger of a run of lines of a tensor: word i of line l has index 16 l + i (log 15). -/
def lineLedger (seed step tid l : Nat) (b : List Byte) : Nat := ledger seed step tid (bytes8 (16 * l) b)

/-- The packets of a delta: runs of consecutive lines, then the closing packet with the step and the ledger of all of it. -/
def State.deltaMsgs (s : State) (c step rctx : Nat) (l : List (Nat × Nat × List Byte)) (refuse : Bool) : List Msg :=
  let seed := (s.ctx c).cfg.seed.toNat
  let ms : List Msg := l.map fun (tid, ln, b) =>
    { tc := 6, pfmt := 7, redid := tid / 2 ^ 20 % 4096, chunk := tid % 2 ^ 20, offset := ln, rctx := some rctx
      ledger := lineLedger seed step tid ln b, payload := b }
  ms ++ [{ tc := 6, pfmt := 7, offset := step, rctx := some rctx, ledger := sumN (ms.map (·.ledger)) % ledM, last := true, poison := refuse }]

/-- A committed step's delta leaves for the twin, which must echo it (R415). -/
def State.sendDelta (s : State) (c step : Nat) (tids : List Nat) : State :=
  let l := tids.flatMap fun tid => match s.tensor c tid with
    | some t => (s.deltaLines t).map fun (n, b) => (tid, n, b)
    | none => []
  let s := s.setCtx c { s.ctx c with twinWait := some step, twinTries := 0, twinLines := l }
  s.lsSendAll c (s.ctx c).cfg.twRank (s.deltaMsgs c step (s.ctx c).cfg.twCtx l false)

/-! ### The end of a step (R237, R239, R261, R396) -/

/-- Loss scale after a seal (R237, R239). -/
def CtxCfg.scaleStep (x : CtxCfg) (ovf : Bool) : CtxCfg :=
  let e := x.lsE.toInt
  if ovf then { x with lsE := BitVec.ofInt 8 (max (-126) (e - 1)), clean := 0 }
  else if x.interval.toNat ≤ x.clean.toNat + 1 then { x with lsE := BitVec.ofInt 8 (min 127 (e + 1)), clean := 0 }
  else { x with clean := x.clean + 1 }

/-- Targets a slot's UPDATE tasks store: tensor IDs. -/
def Slot.stored (x : Slot) : List Nat :=
  x.graph.updates.flatMap fun i => (UP.targets (nth 0 x.graph.uprogs (TD.prog (x.desc i)))).map fun k =>
    TD.tref (x.desc i) (match k with | 0 => 0 | 1 => 2 | _ => 3)

/-- A receipt's message (R396): body and annex, its leaf index still 0. -/
def State.receiptMsg (s : State) (n : Nat) (ovf : Bool) (old : CtxCfg) : List Byte :=
  let x := s.slot n
  let k := s.ctx x.ctx.toNat
  let sums := ((x.att.vote.find? fun v => v.1 = 6).map (·.2)).getD []
  toLE 2 2 ++ toLE 2 ovf.toNat ++ toLE 4 x.step.toNat ++ toLE 64 k.cfg.ident.toNat ++ toLE 8 (ledX (nth 0 sums 1)) ++ toLE 8 (ledX (nth 0 sums 2))
    ++ toLE 2 (toTwos 16 old.lsE.toInt) ++ toLE 2 (toTwos 16 k.cfg.lsE.toInt) ++ toLE 2 k.cfg.clean.toNat ++ toLE 2 0
    ++ toLE 4 (if x.graph.normTasks.isEmpty then 0 else k.gnorm.toNat) ++ List.replicate 28 0
    ++ toLE 4 k.cfg.rank.toNat ++ toLE 4 k.cfg.job.toNat ++ toLE 1 k.gen.toNat ++ toLE 1 x.attempt.toNat ++ toLE 2 0 ++ toLE 4 0
    ++ toLE 8 s.frame.toNat ++ toLE 64 x.hash.toNat ++ List.replicate 40 0

/-- A tensor's update word changed. -/
def State.setUpd (s : State) (c tid : Nat) (flip : Bool) (step : Option Nat) : State :=
  match s.tensor c tid with
  | none => s
  | some t =>
    let u := if flip then BV.put t.upd 31 1 (1 - t.finCopy) else t.upd
    let u := match step with
      | some k => BV.put u 32 32 k
      | none => u
    s.setCtx c ((s.ctx c).setTensor { t with upd := u })

/-- A running slot of the next step takes the loss scale in force after a seal (R235, log 69). -/
def State.renewScale (s : State) (c : Nat) (step : BitVec 32) (m : Nat) : State :=
  let x := s.slot m
  if x.st = .running ∧ x.graph.training ∧ x.ctx.toNat = c ∧ x.step = step then s.setAtt m { x.att with e := (s.ctx c).lsExp } else s

/-- A step seals on this module (R261): flips, step counters, checksums, loss scale, the SEAL task's record, the receipt, the
twin's delta. -/
def State.applySeal (s : State) (n : Nat) (ovf : Bool) : State :=
  let x := s.slot n
  let c := x.ctx.toNat
  let old := (s.ctx c).cfg
  let sd := ((x.graph.tasks.find? fun d => TD.typ d = 7).getD 0)
  let si := x.sealTask
  let flips := if ovf then [] else x.stored
  let s := flips.foldl (fun s tid => s.setUpd c tid true none) s
  let s := x.graph.updates.foldl (fun s i => s.setUpd c (TD.tref (x.desc i) 0) false (some x.step.toNat)) s
  let k := s.ctx c
  let sums := if ovf then k.parSums else x.att.parNew.foldl (fun t (p : Nat × Nat) => tset 0 t p.1 p.2) k.parSums
  let s := s.setCtx c { k with cfg := { k.cfg.scaleStep ovf with sealed := x.step, ovf := x.att.ovf }, parSums := sums }
  let s := (List.range 64).foldl (fun s m => s.renewScale c (x.step + 1) m) s
  let s := s.finishTask n si 1
  let s := if bitOf sd 1023 then s.wantReceipt c x.step.toNat (s.receiptMsg n ovf old) else s
  let s := if bitOf sd 1022 ∧ old.twEn then s.sendDelta c x.step.toNat flips else s
  ((s.closeSuspects n).dropWork n).leaveSlot n .done

/-- Does a segment of a slot wait for its writeback? -/
def State.writesWait (s : State) (n : Nat) : Bool := s.panels.toList.any fun p => p.wbq.any fun d => d.seg.slot = n

/-- The replay of a slot's attempt begins (R281, R392, R364). -/
def State.applyReplay (s : State) (n : Nat) : State :=
  let x := s.slot n
  let c := x.ctx.toNat
  let s := s.log { code := 0x0503, sev := 3, ctx := c, data := x.step.toNat + x.attempt.toNat * 2 ^ 32 }
  let eps := (s.fab.reds.filter fun r => r.slot = n).foldl (fun t r => tset 0 t r.redid (r.epoch + 1)) (s.ctx c).epochs
  let s := (s.dropWork n).setCtx c { (s.ctx c).clearFlags x.range with epochs := eps }
  let s := s.setSlot n { x with attempt := x.attempt + 1, stopped := false, att := { e := x.att.e } }
  (s.resetTasks n).openAll n

/-- The outcome of a vote takes effect at a tick (R391, R261, R260): a seal, a stop, a skew, or the abandonment of a step whose
attempt 3 failed. A replay of an earlier attempt waits for its own command. -/
def State.applyOutcome (s : State) (n : Nat) : State :=
  let x := s.slot n
  if x.st ≠ .running ∨ s.runningSegs n then s else
  match x.att.sealing with
  | 1 => s.applySeal n false
  | 5 => s.applySeal n true
  | 3 =>
    let s := (s.finishTask n x.sealTask 4).log { code := 0x0505, sev := 5, ctx := x.ctx.toNat, data := x.step.toNat + x.attempt.toNat * 2 ^ 32 }
    ((s.closeSuspects n).dropWork n).leaveSlot n .faulted
  | 4 => (((s.finishTask n x.sealTask 4).closeSuspects n).dropWork n).leaveSlot n .skew
  | 2 => if x.attempt.toNat = 3 then s.abandonStep n else s
  | _ => s

/-! ### Meanings -/

/-- GRADIENT_NORM_START (R257): the MAX of the lowest-step training slot of a context, once its gradients are complete. -/
def execGradientNormStart (ctx : Nat) (s : State) : Host.Outcome State Fault Refusal :=
  .next (match s.trainSlot ctx with
    | none => s
    | some n =>
      let x := s.slot n
      if x.graph.normTasks.isEmpty ∨ x.att.normPhase ≠ 0 ∨ x.att.voted ∨ x.stopped ∨ !s.gradsDone n then s else
      let g := s.normGauge n
      let s := s.setAtt n { x.att with normPhase := 1, normOn := true }
      swUse (s.swStart ctx 64 3 [g] 1 n x.attempt.toNat))

/-- SEAL_VOTE_ISSUE (R389, R390): the vote of the lowest-step training slot, clean once every check is done, or at once with
failure bits after the stop notice; during an engine, panel or partition reset those wait for its end (R402). -/
def execSealVoteIssue (ctx : Nat) (s : State) : Host.Outcome State Fault Refusal :=
  .next (match s.trainSlot ctx with
    | none => s
    | some n =>
      let x := s.slot n
      if x.att.voted then s
      else if x.att.replayBit ∨ x.att.stopBit then (if 2 ≤ s.esc.active ∧ s.esc.active ≤ 4 then s else s.failVote n)
      else if s.voteClean n then (s.skewCheck n).issueVote n
      else s)

/-- STOP_NOTICE (R390): a notice goes on through the tree and acts here. -/
def execStopNotice (frame : Frame) (s : State) : Host.Outcome State Fault Refusal :=
  let h := frame.pkt.hdr
  .next (if LS.typ h ≠ 1 ∨ LS.tc h ≠ 1 ∨ LS.pfmt h ≠ 8 ∨ !LS.poison h then s else
    s.accept frame fun s p =>
      let c := LS.ctx p.hdr
      let word (k : Nat) : Nat := ofLE ((p.payload.drop (8 * k)).take 8)
      let m := noticeMsg (word 0) (word 1) (word 2)
      let ranks := s.swGroup c 64
      match memberOf ranks (s.ctx c).cfg.rank.toNat, memberOf ranks (LS.src p.hdr) with
      | some me, some from_ =>
        let s := if (swKids ranks.length me).contains from_ then s.sendNotice c m
          else (swKids ranks.length me).foldl (fun s k => s.lsSend c (nth 0 ranks k) m) s
        some (s.onNotice c (word 0) (word 1) (word 2))
      | _, _ => some s)

/-- SWASH_PACKET (R367, R368): a child's combined operands, or the parent's final result. -/
def execSwashPacket (frame : Frame) (s : State) : Host.Outcome State Fault Refusal :=
  let h := frame.pkt.hdr
  .next (if LS.typ h ≠ 1 ∨ LS.tc h ≠ 1 ∨ LS.pfmt h ≠ 8 ∨ LS.poison h then s else
    s.accept frame fun s p =>
      let c := LS.ctx p.hdr
      let o := LS.offset p.hdr
      let grp := if bitOf o 17 then 64 else fld o 18 6
      let code := fld o 28 4
      let lanes := fld o 24 4
      let seq := LS.chunk p.hdr
      let ranks := s.swGroup c grp
      match memberOf ranks (s.ctx c).cfg.rank.toNat, memberOf ranks (LS.src p.hdr) with
      | some me, some from_ =>
        let vals := swLanes code lanes p.payload
        if (swKids ranks.length me).contains from_ then
          let op := (s.swFind c grp seq).getD { ctx := c, grp := grp, seq := seq, code := code, lanes := lanes, ranks := ranks, self := me }
          if op.kids.any (fun x => x.1 = from_) then some s else
          let op := { op with kids := op.kids ++ [(from_, code, lanes, vals)] }
          some (swUse ((s.setSw op).swTry op))
        else
          match s.swFind c grp seq with
          | none => some s
          | some op => some (swUse (s.swEnd op (decide (code = 0)) vals))
      | _, _ => some s)

/-- REPLAY_START (R392): an attempt 0 to 2 whose vote asked for a replay begins again. -/
def execReplayStart (slot : Nat) (s : State) : Host.Outcome State Fault Refusal :=
  let x := s.slot slot
  .next (if x.st = .running ∧ x.att.sealing = 2 ∧ x.attempt.toNat < 3 ∧ !s.runningSegs slot ∧ !s.writesWait slot then s.applyReplay slot else s)

end Sys2Proof.Machine
end

