-- ==== Sys2Proof/Machine/Finish.lean ====
section
/-! DEFINITION. The Finishing unit's update programs, and MOVE tasks (spec/09 R248 to R263, spec/10 R274, spec/02 R55, R62, spec/07
R208, spec/14 R395). -/
namespace Sys2Proof.Machine

/-! ### Completing a task that writes tensors (R49, R62, R309) -/

/-- FP32 codes of S and E of R62 (least significant bit 2^−288). -/
def qeCode (s : Nat) : Nat := f32Code (.num false (magDy s (-288)))

/-- The quantisation-error advisories of a task's writes (R62): the QE flags, one log entry each, and one event each on the panel of its
latest segment (log 77). -/
def State.qeEvents (s : State) (n i : Nat) : State :=
  (List.range 8).foldl (fun s r =>
    let x := s.slot n
    let t := x.task i
    match s.tensor x.ctx.toNat (TD.tref (x.desc i) r) with
    | none => s
    | some u =>
      if !FW.qeEn u.fmt ∨ !qeRaises (nth 0 t.qS r) (nth 0 t.qE r) (FW.qeThresh u.fmt) then s else
      let s := match t.lastPanel with
        | some p => s.setPanel p { s.panel p with counts := { (s.panel p).counts with qe := (s.panel p).counts.qe + 1 } }
        | none => s
      (s.setSlot n (x.setTask i { t with flags := joinFlags t.flags ((List.range 8).map fun q => if q = r then 1 else 0) })).log
        { code := 0x0101, sev := 1, ctx := x.ctx.toNat, data := u.tid + i * 2 ^ 32 + qeCode (nth 0 t.qS r) * 2 ^ 64 + qeCode (nth 0 t.qE r) * 2 ^ 96 }) s

/-- Do the windows of all segments of a task cover the whole tensor of a reference? -/
def coversWhole (g : Graph) (d r : Nat) (t : TRec) : Bool :=
  let box (sg : Nat) : List (Nat × Nat) := let (st, ct) := winSeg t (g.winRec d r) sg; (List.range 4).map fun a => (nth 0 st a, nth 0 st a + nth 0 ct a)
  let full := (List.range 4).map fun a => (0, t.ext a)
  ((List.range (max 1 (TD.segments d))).foldl (fun l sg => l.flatMap fun b => boxSub b (box sg)) [full]).isEmpty

/-- A tensor with shadows whose every vector a task has written has current shadows (R208). -/
def State.shadowsSet (s : State) (n i : Nat) : State :=
  let x := s.slot n
  let e := s.taskEnv n i
  e.writes.foldl (fun s r => match e.r r with
    | none => s
    | some t => if !t.shEn ∨ !coversWhole x.graph e.d r t then s else
        match s.tensor t.ctx t.tid with
        | none => s
        | some u => s.setCtx t.ctx ((s.ctx t.ctx).setTensor { u with attn := BV.put u.attn 30 1 1 })) s

/-- A task ends well: its advisories, its shadows, then its record. -/
def State.finishWell (s : State) (n i : Nat) : State := ((s.qeEvents n i).shadowsSet n i).finishTask n i 1

/-- Rows of a window, as index offsets along axes 1 to 3. -/
def moveRows (w : List Nat × List Nat) : List (Nat × Nat × Nat) :=
  (List.range (nth 0 w.2 3)).flatMap fun c => (List.range (nth 0 w.2 2)).flatMap fun b => (List.range (nth 0 w.2 1)).map fun a => (a, b, c)

/-- Row numbers of a window of a tensor. -/
def TRec.winRows (t : TRec) (w : List Nat × List Nat) : List Nat :=
  (moveRows w).map fun (i1, i2, i3) => t.rowOf (nth 0 w.1 1 + i1) (nth 0 w.1 2 + i2) (nth 0 w.1 3 + i3)

/-- The whole tensor as a window. -/
def TRec.whole (t : TRec) : List Nat × List Nat := winSeg t none 0

/-- Does some element of columns [c0, c0 + n) of rows of a tensor's committed copy read with FMT (R34, R60)? -/
def State.fmtRows (s : State) (t : TRec) (rows : List Nat) (c0 n : Nat) : Bool :=
  (t.f = .t2 || decide (0 < t.bobs)) && rows.any fun r => (List.range n).any fun c => t.fmtFlag s.mem t.base r (c0 + c)

/-- Does some element of a window of a tensor's committed copy read with FMT (R34, R49)? -/
def State.fmtIn (s : State) (t : TRec) (w : List Nat × List Nat) : Bool :=
  s.fmtRows t (t.winRows w) (nth 0 w.1 0) (nth 0 w.2 0)

/-- Does a window of a tensor's committed copy hold poison (R308)? -/
def State.poisonIn (s : State) (t : TRec) (w : List Nat × List Nat) : Bool :=
  let o := nth 0 w.1 0 * t.width / 8
  (t.winRows w).any fun r => s.poisoned (t.key t.base + r * t.pitch + o) (cdiv ((nth 0 w.1 0 + nth 0 w.2 0) * t.width) 8 - o)

/-! ### Update programs (R249 to R255) -/

/-- The lane of a selector: a work lane or a constant. -/
def upSel (u : Nat) (lanes : List Val) (a : Nat) : Val := if a < 16 then nth Val.zero lanes a else ofF32 (UP.const u (a - 16))

/-- What CLIP multiplies by (R255): 1 while the norm N is at most B, else B / N rounded once. -/
def clipK (gam : Int) (S : Nat) (b : Val) : Val :=
  match b with
  | .fin _ m e =>
    if S = 0 ∨ !(b.mul b).lt (normSq gam S) then .fin false 1 0
    else
      let q := 2 * gam - 140
      f32 (.num false (.sqrt (m * m * pow2num (2 * e) * pow2den q) (pow2den (2 * e) * S * pow2num q)))
  | _ => .fin false 1 0

/-- What the operations of one element read: the values LOAD brings for P, G, m and v, t, and the norm. -/
structure UpIn where
  src : List Val
  t : Nat
  gam : Int
  S : Nat
  deriving DecidableEq, Repr

/-- One operation (R250, R251): the lanes after it, and the values stored so far by target. -/
def upStep (u : Nat) (x : UpIn) (st : List Val × List (Nat × Val)) (w : Nat) : List Val × List (Nat × Val) :=
  let (l, out) := st
  let a := upSel u l (UO.a w)
  let b := upSel u l (UO.b w)
  let c := upSel u l (UO.c w)
  let put (v : Val) : List Val × List (Nat × Val) := (l.set (UO.d w) v, out)
  match UO.op w with
  | 1 => put (nth Val.zero x.src (fld w 6 2))
  | 2 => put (f32Add a b)
  | 3 => put (f32Sub a b)
  | 4 => put (f32Mul a b)
  | 5 => put (f32Fma a b c)
  | 6 => put (f32 (exSqrt a))
  | 7 => put (f32 (exRsqrt a))
  | 8 => put (f32 (exRecip a))
  | 9 => put (a.max b)
  | 10 => put (a.min b)
  | 11 => put (match a with
      | .fin false m _ => if m = 0 then c else b
      | .inf false => b
      | _ => c)
  | 12 => put (f32Pow a x.t)
  | 13 => put (f32Mul a (clipK x.gam x.S b))
  | 14 => (l, out ++ [(fld w 6 2, a)])
  | _ => st

/-- The operation words of a program. -/
def UP.ops (u : Nat) : List Nat := (List.range (UP.nops u)).map fun i => UP.op u i

/-- The program over one element: the values it stores, by target. -/
def upRun (u : Nat) (x : UpIn) : List (Nat × Val) := ((UP.ops u).foldl (upStep u x) (List.replicate 16 Val.zero, [])).2

/-- The reference of a STORE target. -/
def upRef (k : Nat) : Nat := match k with | 0 => 0 | 1 => 2 | _ => 3

/-- How a STORE writes (R254). -/
def upHow (w seed step : Nat) : WrHow :=
  { w := { inf := bitOf w 2, wrap := false }, stoch := fld w 4 2 = 1, purpose := 3 + fld w 6 2, seed := seed, step := step }

/-- One row's masked copy from the committed copy into the shadow (R259): every area of the row, bit for bit. -/
def TRec.copyRow (t : TRec) (m : Tbl Byte) (row : Nat) : Tbl Byte :=
  let cp (m : Tbl Byte) (o n : Nat) : Tbl Byte := wrBs m (t.key t.shadowBase + o) (rdBs m (t.key t.base + o) n)
  let sb := t.rowScales * (if t.selv then 8 else 1)
  let m := cp m (row * t.pitch) t.pitch
  let m := cp m (t.scaleOfs + row * sb) sb
  let m := if t.hasTags then cp m (t.tagOfs + row * t.rowBlocks) t.rowBlocks else m
  let m := cp m (t.bobOfs + row * t.rowBlocks * 2 * t.bobs) (t.rowBlocks * 2 * t.bobs)
  if t.shEn then cp m (t.shdOfs + row * t.shVec) t.shVec else m

/-- A masked row carried over (R259): its bytes, the poison marks of its elements (R493), and frames for what it reaches. -/
def State.copyRow (s : State) (t : TRec) (row : Nat) : State :=
  let a := t.key t.base + row * t.pitch
  let b := t.key t.shadowBase + row * t.pitch
  let bad := (List.range (t.pitch / 64)).map fun k => s.poisoned (a + 64 * k) 64
  let s := { s with mem := t.copyRow s.mem row }
  (bad.zipIdx.foldl (fun (s : State) x => s.mark (b + 64 * x.2) 64 x.1) s).attachRow t t.shadowBase row

/-! ### The parameter checksum (R395) -/

/-- m × 2^k with m odd: the odd part and its exponent. Fuel bounds the halvings. -/
def oddPart : Nat → Nat → Int → Nat × Int
  | 0, m, k => (m, k)
  | f + 1, m, k => if m = 0 ∨ m % 2 = 1 then (m, k) else oddPart f (m / 2) (k + 1)

/-- f(v) of R395. -/
def parF (seed : Nat) (v : Val) : Nat :=
  let (m, k, cls, neg) : Nat × Int × Nat × Bool := match v with
    | .nan => (0, 0, 4, false)
    | .inf n => (0, 0, if n then 3 else 2, n)
    | .fin n m e => if m = 0 then (0, 0, 0, n) else let (m, k) := oddPart 128 m e; (m, k, 1, n)
  let (a, b, _, _) := philox (Nat.xor (seed % 2 ^ 32) 0x5041524D) (seed / 2 ^ 32 % 2 ^ 32) (m % 2 ^ 32) (m / 2 ^ 32 % 2 ^ 32)
    (toTwos 32 k) (cls + neg.toNat * 16)
  (b * 2 ^ 32 + a) % ledM

/-- The checksum of a copy of a parameter. -/
def State.parSum (s : State) (t : TRec) (base seed : Nat) : Nat :=
  ((List.range t.rows).foldl (fun a r => (List.range t.e0).foldl (fun a c => a + parF seed (t.val s.mem base r c)) a) 0) % ledM

/-! ### Running an UPDATE task -/

/-- What LOAD brings for a source of an element (R252). -/
def State.upLoad (s : State) (e : TaskEnv) (ex : Int) (k row col : Nat) : Val :=
  match e.r k with
  | none => .zero
  | some t => f32 (if k = 1 then s.gradVal e t ex row col else t.val s.mem t.base row col).toEx

/-- One row of an UPDATE task (R251, R259): masked rows are copied, the others computed and written by each STORE. -/
def State.upRow (s : State) (n i : Nat) (e : TaskEnv) (u row : Nat) : State :=
  let x := s.slot n
  let seed := (s.ctx x.ctx.toNat).cfg.seed.toNat
  let stores := (UP.ops u).filter fun w => UO.op w = 14
  if !s.updRow e row then
    stores.foldl (fun s w => match e.r (upRef (fld w 6 2)) with
      | some t => s.copyRow t row
      | none => s) s
  else
    let p := (e.r 0).getD {}
    let loads := ((UP.ops u).filter fun w => UO.op w = 1).map fun w => fld w 6 2
    let res := (List.range p.e0).map fun col =>
      upRun u { src := (List.range 4).map fun k => if loads.contains k then s.upLoad e x.att.e k row col else .zero
                t := x.step.toNat + 1 - UB.origin e.d, gam := x.att.gauge, S := x.att.norm.getD 0 }
    stores.foldl (fun s w =>
      let k := fld w 6 2
      match e.r (upRef k) with
      | none => s
      | some t =>
        let xs := (List.range p.e0).map fun col =>
          let a := (((nth [] res col).find? fun v => v.1 = k).map (·.2)).getD .zero
          (if bitOf w 3 then (t.val s.mem t.base row col).add a else a).toEx
        let (s, o) := s.writeRun t t.shadowBase row 0 (upHow w seed x.step.toNat) xs false
        s.noteWrite n i (upRef k) o) s

/-- The references an UPDATE task's program reads: what its LOADs name, and the targets of accumulating STOREs (R250, R254). -/
def UP.reads (u : Nat) : List Nat :=
  (((UP.ops u).filter fun w => UO.op w = 1).map fun w => fld w 6 2)
    ++ ((UP.ops u).filter fun w => UO.op w = 14 && bitOf w 3).map fun w => upRef (fld w 6 2)

/-- An UPDATE task runs its program over every row and ends (R251, R263, R285). Reading a poisoned unmasked row gives status 0x03; a far
page is read where it is (log 74). -/
def State.runUpdate (s : State) (n i : Nat) : State :=
  let x := s.slot n
  let e := s.taskEnv n i
  let u := nth 0 x.graph.uprogs (TD.prog e.d)
  let p := (e.r 0).getD {}
  let srcs := (UP.reads u).filterMap fun k => e.r k
  if srcs.any fun t => (List.range t.rows).any fun row => s.updRow e row && s.poisoned (t.key t.base + row * t.pitch) t.pitch then s.endsWith n i 3 else
  let s := (UP.reads u).foldl (fun s k => match e.r k with
    | some t => s.noteFmt n i k (s.fmtRows t ((List.range t.rows).filter (s.updRow e)) 0 t.e0)
    | none => s) s
  let s := if (UP.ops u).isEmpty then s else (List.range p.rows).foldl (fun s row => s.upRow n i e u row) s
  let s := if (UP.targets u).contains 0 then
      let sum := s.parSum p p.shadowBase (s.ctx x.ctx.toNat).cfg.seed.toNat
      s.setAtt n { (s.slot n).att with parNew := tset 0 (s.slot n).att.parNew p.tid (sum + 1) }
    else s
  s.endsWith n i 1

/-- Does a program hold a CLIP (R258)? -/
def UP.clips (u : Nat) : Bool := (UP.ops u).any fun w => UO.op w = 13

/-! ### MOVE (R274, R55, R208) -/

/-- A tensor-to-tensor MOVE. Destination gradients feed the overflow flag (R236). -/
def State.moveCopy (s : State) (n i : Nat) : State :=
  let x := s.slot n
  let d := x.desc i
  let e := s.taskEnv n i
  match e.r 0, e.r 1 with
  | some a, some b =>
    let (sa, ca) := winSeg a (x.graph.winRec d 0) 0
    let (sb, _) := winSeg b (x.graph.winRec d 1) 0
    let how : WrHow := { w := { inf := bitOf d 1020, wrap := bitOf d 1019 }, stoch := FW.stoch b.fmt, purpose := 1
                         seed := (s.ctx x.ctx.toNat).cfg.seed.toNat, step := x.step.toNat }
    let s := s.noteFmt n i 0 (s.fmtIn a (sa, ca))
    let m0 := s.mem
    (moveRows (sa, ca)).foldl (fun s (i1, i2, i3) =>
      let ra := a.rowOf (nth 0 sa 1 + i1) (nth 0 sa 2 + i2) (nth 0 sa 3 + i3)
      let rb := b.rowOf (nth 0 sb 1 + i1) (nth 0 sb 2 + i2) (nth 0 sb 3 + i3)
      let xs := (List.range (nth 0 ca 0)).map fun k => (a.val m0 a.base ra (nth 0 sa 0 + k)).toEx
      let bad := s.poisonIn a ([nth 0 sa 0, nth 0 sa 1 + i1, nth 0 sa 2 + i2, nth 0 sa 3 + i3], [nth 0 ca 0, 1, 1, 1])
      let (s, o) := s.writeRun b b.base rb (nth 0 sb 0) how xs bad
      (s.gradOvf n b o).noteWrite n i 1 o) s
  | _, _ => s

/-- A RETAG (R55, R208): tags rewritten, `TAGS_PRESENT` set; a finite value of 2^128 or more leaves it 0 and sets SAT. It reads every
element (R34). -/
def State.moveRetag (s : State) (n i : Nat) (t : TRec) : State :=
  let s := s.noteFmt n i 1 (s.fmtIn t t.whole)
  let big := (List.range t.rows).any fun r => (List.range t.e0).any fun c => match (t.val s.mem t.base r c).gauge with
    | some g => decide (128 < g)
    | none => false
  let m := (List.range t.rows).foldl (fun m r => t.reshadow (t.retag m t.base r 0 t.e0) t.base r) s.mem
  let fmt := if big then BV.put t.fmt 19 1 0 else BV.put t.fmt 19 1 1
  let attn := if t.shEn then BV.put t.attn 30 1 1 else t.attn
  let k := t.key t.base
  let s := ({ s with mem := m }.attach (k + t.tagOfs) (t.rows * t.rowBlocks)).attach (k + t.shdOfs) (if t.shEn then t.rows * t.shVec else 0)
  let s := s.setCtx t.ctx ((s.ctx t.ctx).setTensor { t with fmt := fmt, attn := attn })
  if big then s.noteWrite n i 1 { sat := true } else s

/-- A MOVE to or from host memory (R274): bytes, no conversion. What host memory holds is the host's: a free value. The module rewrites
the tags and shadows of what it stored (R52, R206). -/
def State.moveHost (s : State) (n i : Nat) : State :=
  let x := s.slot n
  let d := x.desc i
  let e := s.taskEnv n i
  let a := fld d 952 64
  match e.r 0, e.r 1 with
  | some t, none =>
    let (st, ct) := winSeg t (x.graph.winRec d 0) 0
    let o := nth 0 st 0 * t.width / 8
    let k := cdiv ((nth 0 st 0 + nth 0 ct 0) * t.width) 8 - o
    let rows := t.winRows (st, ct)
    s.emit (.hostWrite a (rows.flatMap fun r => rdBs s.mem (t.key t.base + r * t.pitch + o) k))
  | none, some t =>
    let (st, ct) := winSeg t (x.graph.winRec d 1) 0
    let o := nth 0 st 0 * t.width / 8
    let k := cdiv ((nth 0 st 0 + nth 0 ct 0) * t.width) 8 - o
    let rows := t.winRows (st, ct)
    (rows.zip (List.range rows.length)).foldl (fun s (r, j) =>
      let (f, s) := s.draw
      let s := s.store t.ctx (t.base + r * t.pitch + o) ((List.range k).map fun b => BitVec.ofNat 8 (Config.freeNat (f + j * 2 ^ 16 + b))) false
      { s with mem := t.reshadow (t.retag s.mem t.base r (nth 0 st 0) (nth 0 ct 0)) t.base r }.attachRow t t.base r) s
  | _, _ => s

/-! ### Meanings -/

/-- May a dispatched task of the Finishing unit, the pager or the network end now? -/
def State.runs (s : State) (n i typ : Nat) : Bool :=
  let x := s.slot n
  x.st = .running && decide (i < x.tasks.length) && TD.typ (x.desc i) = typ && (x.task i).dispatched && !(x.task i).finished && (x.task i).ends.isNone

/-- UPDATE_PROGRAM_RUN (R251, R258): a dispatched UPDATE task whose norm, if its program clips, is known. -/
def execUpdateProgramRun (slot task : Nat) (s : State) : Host.Outcome State Fault Refusal :=
  let x := s.slot slot
  let u := nth 0 x.graph.uprogs (TD.prog (x.desc task))
  .next (if s.runs slot task 6 && (!UP.clips u || x.att.norm.isSome) then s.runUpdate slot task else s)

/-- Does a MOVE read poison (R308)? -/
def State.movePoison (s : State) (n i : Nat) : Bool :=
  let x := s.slot n
  let d := x.desc i
  let e := s.taskEnv n i
  let r := if (bitOf d 1023 || bitOf d 1022) && TD.tref d 0 = TD.tref d 1 then 1 else 0
  match e.r r with
  | some t => s.poisonIn t (winSeg t (x.graph.winRec d r) 0)
  | none => false

/-- MOVE_COMPLETE (R274): a dispatched MOVE has copied, converted or retagged. One that read poison takes status 0x03 (R308). -/
def execMoveComplete (slot task : Nat) (s : State) : Host.Outcome State Fault Refusal :=
  .next (if !s.runs slot task 4 then s else
    let d := (s.slot slot).desc task
    let e := s.taskEnv slot task
    let bad := s.movePoison slot task
    let s := if bitOf d 1021 then s.moveHost slot task
      else if (bitOf d 1023 || bitOf d 1022) && TD.tref d 0 = TD.tref d 1 then (match e.r 1 with
        | some t => s.moveRetag slot task t
        | none => s)
      else s.moveCopy slot task
    s.endsWith slot task (if bad then 3 else 1))

end Sys2Proof.Machine
end

