-- ==== Sys2Proof/Machine/Attn.lean ====
section
/-! DEFINITION. Attention: masks, the sounding pass, the main pass, the backward variants, attention reductions (spec/07 R201 to
R219, spec/08 R222 to R226, spec/13 R345). An ATTN task's outputs are what these rules give; its program sets only the time it
takes (log 16). -/
namespace Sys2Proof.Machine

/-! ### Exact dot products (R72 to R84, R212) -/

/-- An element of a tensor relative to its scale. -/
def TRec.sl (t : TRec) (m : Tbl Byte) (row col : Nat) : SlEl :=
  if t.scaled then
    let sc := t.scale m t.base row col
    if sc = 0xFF then { v := .nan, s := 0 } else
    { v := match bobbleOf (t.bobWords m t.base row col) (col % 32) with
        | some c => Fmt.decode .e4m3 c
        | none => t.f.decode (t.code m t.base row col)
      s := (sc : Int) - 127 }
  else { v := t.val m t.base row col, s := 0 }

/-- The common scale block of two operands along axis 0. -/
def pairBlk (a b : TRec) : Option Nat := if a.scaled ∧ b.scaled then some (min a.blk b.blk) else none

/-- The anchor of the tile that holds the dot product of row ra of a and row rb of b over axis 0 (R77). -/
def dotAnchor (m : Tbl Byte) (a b : TRec) (ia ib : List Nat) : Int :=
  let p : Int := match pairBlk a b with
    | some n => (lg n : Int)
    | none => 0
  anchorOf ((List.range (cdiv a.e0 32)).foldl (fun x k =>
    match tileGauge m a 0 1 k (nth 0 ia 1 / 32) ia, tileGauge m b 0 1 k (nth 0 ib 1 / 32) ib with
    | some g, some h => maxO x (some (g + h + p))
    | _, _ => x) none)

/-- The reduction at an anchor, repeated 16 higher while a contribution climbs (R85, R91); the fuel bounds the repeats up to the ceiling. -/
def sliceRise (cs : List Contrib) : Nat → Int → Sk × Int
  | 0, T => ((sliceSum { T := min 32767 T, cls := 0, epoch := 0, climb := false, valid := true } cs).1, min 32767 T)
  | f + 1, T =>
    let (k, up) := sliceSum { T := T, cls := 0, epoch := 0, climb := false, valid := true } cs
    if up then sliceRise cs f (T + 16) else (k, T)

/-- The Skein-192 reduction of two rows over axis 0 (R72 to R84) and its anchor. A dot product inside an ATTN task that runs at the
declared anchor, because an operand lacks tags (R90), climbs by itself (log 79). -/
def dotSk (m : Tbl Byte) (e : TaskEnv) (a b : TRec) (ia ib : List Nat) : Sk × Int :=
  let ra := a.rowOf (nth 0 ia 1) (nth 0 ia 2) (nth 0 ia 3)
  let rb := b.rowOf (nth 0 ib 1) (nth 0 ib 2) (nth 0 ib 3)
  let T := if a.untagged ∨ b.untagged then TD.danchor e.d else dotAnchor m a b ia ib
  sliceRise (sliceContribs (pairBlk a b) ((List.range a.e0).map fun j => a.sl m ra j) ((List.range a.e0).map fun j => b.sl m rb j)) (((32767 - T) / 16).toNat + 1) T

/-- A Skein's exact value, special bits first (R95). -/
def Sk.val (k : Sk) (cls : Nat) (T : Int) : Val :=
  if k.nan || (k.pinf && k.ninf) then .nan else if k.pinf then .inf false else if k.ninf then .inf true
  else .fin (decide (k.acc < 0)) k.acc.natAbs (gridL cls T)

/-! ### The sounding pass (R206 to R210) -/

/-- Shadow elements of a vector, its error byte and its largest scale exponent. -/
def TRec.shadow (t : TRec) (m : Tbl Byte) (row : Nat) : List Val × Nat × Int :=
  let k := t.shKey t.base row
  let sc (j : Nat) : Nat := (rdB m (k + t.shCodes + j / t.shBlk)).toNat
  let xs := (List.range t.e0).map fun j => scaledVal .e2m1 (sc j) (rdBits m k (4 * j) 4)
  let smax : Int := (maxI ((List.range t.shScales).map fun b => ((rdB m (k + t.shCodes + b)).toNat : Int) - 127)).getD (-127)
  (xs, (rdB m (k + t.shCodes + t.shScales)).toNat, smax)

/-- The exact dot product of value lists. -/
def dotVal (a b : List Val) : Val := (a.zip b).foldl (fun x p => x.add (p.1.mul p.2)) .zero

/-- UP4 of the square root of a value (spec/07, before R209). -/
def up4Root (s : Val) : Val :=
  match s with
  | .fin _ m k =>
    if m = 0 then .zero else
    let e := Int.fdiv ((lg m : Int) + k) 2 - 3
    let f := ((List.range 9).find? fun f => !(Val.lt (.fin false ((8 + f) * (8 + f)) (2 * e)) (.fin false m k))).getD 8
    .fin false (8 + f) e
  | v => v

/-- The bound B of a query row and a key, none where an error byte is 0xFF (R209). -/
def bound (m : Tbl Byte) (e : TaskEnv) (q k : TRec) (iq ik : List Nat) : Option Val :=
  let (xq, cq, sq) := q.shadow m (q.rowOf (nth 0 iq 1) (nth 0 iq 2) (nth 0 iq 3))
  let (xk, ck, sk) := k.shadow m (k.rowOf (nth 0 ik 1) (nth 0 ik 2) (nth 0 ik 3))
  if cq = 0xFF ∨ ck = 0xFF then none else
  let eq := errByteVal sq cq
  let ek := errByteVal sk ck
  let nq := up4Root (dotVal xq xq)
  let nk := up4Root (dotVal xk xk)
  let t := dotAnchor m q k iq ik
  some ((AB.sigma e.d).mul ((((dotVal xq xk).add (eq.mul (nk.add ek))).add (nq.mul ek)).add (.fin false 1 (t - 136))))

/-- Is a vector's shadow current (R217)? -/
def TRec.shadowOk (t : TRec) (m : Tbl Byte) (row : Nat) : Bool :=
  let k := t.shKey t.base row
  rdBs m k t.shVec = rdBs (t.reshadow m t.base row) k t.shVec

/-- A value in units of 2^−6, rounded up. -/
def ceil64 (v : Val) : Int :=
  match v with
  | .fin n m e => -(Int.fdiv (-(signed n (m * pow2num (e + 6)))) (pow2den (e + 6)))
  | _ => 0

/-- The local bound of a query row over a run of keys in units of 2^−6, none without one, and whether one is 2^40 or more
(R210, R211). -/
def rowBound (m : Tbl Byte) (e : TaskEnv) (q k : TRec) (h i : Nat) (keys : List Nat) : Option Int × Bool :=
  keys.foldl (fun p j =>
    if masked m e i j then p else
    match bound m e q k [0, i, h, 0] [0, j, kvHead e h, 0] with
    | none => p
    | some b => (maxO p.1 (some (ceil64 b)), p.2 || !(b.lt (.fin false 1 40)))) (none, false)

/-- m̂ in units of 2^−6 from the agreed maximum (R210). -/
def mhatOf (b : Option Int) : Int :=
  match b with
  | none => 0
  | some v => max (-(2 ^ 46 : Nat)) v

/-! ### The main pass (R212 to R217) -/

/-- One row's sums over a run of keys: the value sum by column, Σp, and whether the row breached. -/
structure RowSum where
  cols : List Sk
  sump : Sk
  breach : Bool := false
  deriving DecidableEq, Repr

/-- p of a score: an integer of units 2^−63, from x in exact form. -/
def expUnits (x : Val) : Nat :=
  match exExp2 x with
  | .num _ mg => rneAt mg (-63)
  | _ => 0

/-- The sums of query row (h, i) over keys under m̂ (units of 2^−6) and the anchors of the value columns. -/
def rowSums (m : Tbl Byte) (e : TaskEnv) (q k v : TRec) (h i : Nat) (keys : List Nat) (mh : Int) (anchor : Nat → Int) : RowSum :=
  let g := kvHead e h
  let iq := [0, i, h, 0]
  let mv : Val := .fin (decide (mh < 0)) mh.natAbs (-6)
  let qok := q.shadowOk m (q.rowOf i h 0)
  keys.foldl (fun (r : RowSum) j =>
    if masked m e i j then r else
    let ik := [0, j, g, 0]
    let (sk, T) := dotSk m e q k iq ik
    let stale := (bound m e q k iq ik).isSome && !(qok && k.shadowOk m (k.rowOf j g 0))
    let allNan (r : RowSum) : RowSum := { r with cols := r.cols.map fun c => { c with nan := true }, sump := { r.sump with nan := true } }
    let r := if stale then { r with breach := true } else r
    if sk.nan ∨ sk.pinf then allNan r
    else if sk.ninf then r
    else
      let sc := (AB.sigma e.d).mul (sk.val 0 T)
      if mv.lt sc then { r with breach := true } else
      let p := expUnits (sc.add mv.neg)
      let pv : Val := .fin false p (-63)
      { r with
        cols := (List.range r.cols.length).map fun c =>
          (nth Sk.zero r.cols c).add ((Contrib.ofVal (pv.mul (v.val m v.base (v.rowOf j g 0) c))).round
            { T := anchor c, cls := 1, epoch := 0, climb := false, valid := true }).1
        sump := r.sump.add { nan := false, pinf := false, ninf := false, sat := false, acc := p } })
    { cols := List.replicate v.e0 Sk.zero, sump := Sk.zero }

/-- An element of O from its value sum and Σp (R215), under a loss-scale factor. -/
def outEl (nanRow : Bool) (k p : Sk) (T ls : Int) : Ex :=
  if nanRow ∨ k.nan ∨ (k.pinf ∧ k.ninf) then .nan
  else if k.pinf then .inf false
  else if k.ninf then .inf true
  else if p.acc ≤ 0 then Ex.zero
  else
    let n := Mag.toRat (magDy k.acc.natAbs (gridL 1 T + ls))
    let d := Mag.toRat (magDy p.acc.natAbs (-63))
    .num (decide (k.acc < 0)) (.rat (n.1 * d.2) (n.2 * d.1))

/-- A row's LSE (R216). -/
def lseEl (nanRow : Bool) (p : Sk) (mh : Int) : Ex :=
  if nanRow ∨ p.nan then .nan
  else if p.acc ≤ 0 then .inf true
  else match f32 (.num false (magDy p.acc.natAbs (-63))) with
    | .fin _ m e =>
      let y := log2Fix m e
      ((Val.fin (decide (mh < 0)) mh.natAbs (-6)).add (.fin (decide (y < 0)) y.natAbs (-32))).toEx
    | _ => .nan

/-- The local anchor of a block of the value sum over a run of keys (R214): the query tile of row i, columns from c on. -/
def vAnchor (m : Tbl Byte) (e : TaskEnv) (q v : TRec) (h i c : Nat) (keys : List Nat) : Option Int :=
  valueAnchor m v c (kvHead e h) 0 fun kt => pairSeen m e (tileOf q.e1 (i / 32)) (keys.filter fun k => k / 32 = kt)

/-- How an ATTN task writes O or dS (R215, R224). -/
def State.attnHow (s : State) (n : Nat) (d : Nat) : WrHow :=
  let (st, pu) := drnChoice (AB.ornd d) (TD.ksum d)
  { w := { inf := AB.oovf d, wrap := false }, stoch := st, purpose := pu
    seed := (s.ctx (s.slot n).ctx.toNat).cfg.seed.toNat, step := (s.slot n).step.toNat }

/-- A breach of a row: counted, logged with the tensor IDs and the row; a forward one sets SAT on the task (R217, R222). -/
def State.breach (s : State) (panel n i : Nat) (back : Bool) (row : Nat) : State :=
  let d := (s.slot n).desc i
  let p := s.panel panel
  let s := s.setPanel panel { p with counts := { p.counts with breaches := p.counts.breaches + 1 } }
  let s := if back then s else s.noteWrite n i 3 { sat := true }
  s.log { code := if back then 0x0104 else 0x0103, sev := 1, ctx := (s.slot n).ctx.toNat, unit := 2, num := panel, phys := s.remap.panel panel
          data := TD.tref d 0 + TD.tref d 1 * 2 ^ 32 + row * 2 ^ 64 }

/-- A window's rows and columns: indices along axes 1 and 2, and the columns. -/
def RefW.rowIx (r : RefW) : List (Nat × Nat) :=
  (List.range (r.n 2)).flatMap fun h => (List.range (r.n 1)).map fun i => (r.s 1 + i, r.s 2 + h)

/-- Indices along axis 1 that a window covers. -/
def RefW.axis1 (r : RefW) : List Nat := (List.range (r.n 1)).map (r.s 1 + ·)

/-- Did rows that a segment reads hold poison (R308): its task then ends with status 0x03? -/
def State.readPoison (s : State) (g : Seg) (bad : Bool) : State := if bad then s.endsWith g.slot g.task 3 else s

/-- Is the row of a tensor at indices 1 and 2 poisoned? -/
def State.rowBad (s : State) (t : TRec) (i1 i2 : Nat) : Bool := s.poisoned (t.key t.base + t.rowOf i1 i2 0 * t.pitch) t.pitch

/-- Is the query row, or a key or value row that an unmasked pair of it reads, poisoned? -/
def State.attnBad (s : State) (e : TaskEnv) (q k v : TRec) (i h : Nat) (keys : List Nat) : Bool :=
  s.rowBad q i h || keys.any fun j => !masked s.mem e i j && (s.rowBad k j (kvHead e h) || s.rowBad v j (kvHead e h))

/-- A forward segment without a reduction: O and LSE of its output window, over the keys of its key window (R212 to R217, R269). Under
true tags no contribution climbs (log 80). -/
def State.attnForward (s : State) (panel : Nat) (g : Seg) : State :=
  let e := s.taskEnv g.slot g.task
  match e.r 0, e.r 1, e.r 2, e.r 3 with
  | some q, some k, some v, some o =>
    let how := s.attnHow g.slot g.desc
    let m := s.mem
    let keys := (nth ({} : RefW) g.refs 1).axis1
    let w := nth ({} : RefW) g.refs 3
    (w.rowIx).foldl (fun s (i, h) =>
      let (b, beyond) := rowBound m e q k h i keys
      let mh := mhatOf b
      let anc (c : Nat) : Int := anchorOf (vAnchor m e q v h i c keys)
      let r := rowSums m e q k v h i keys mh anc
      let bad := beyond || r.breach
      let row := o.rowOf i h 0
      let xs := (List.range (w.n 0)).map fun c => outEl bad (nth Sk.zero r.cols (w.s 0 + c)) r.sump (anc (w.s 0 + c)) g.ls
      let poison := s.attnBad e q k v i h keys
      let (s, out) := s.writeRun o o.base row (w.s 0) how xs poison
      let s := (s.gradOvf g.slot o out).noteWrite g.slot g.task 3 out
      let s := if r.breach then s.breach panel g.slot g.task false (h * q.e1 + i) else s
      let s := s.readPoison g poison
      match e.r 4 with
      | some l => if AB.lseEn g.desc then (s.writeRun l l.base h i { w := { inf := true, wrap := false } } [lseEl (bad || r.sump.nan) r.sump mh] poison).1 else s
      | none => s) s
  | _, _, _, _ => s

/-! ### The backward variants (R222 to R225) -/

/-- The row-delta variant: LSE copied and D written for the rows of its window (R223, R235, R272). -/
def State.attnDelta (s : State) (g : Seg) : State :=
  let e := s.taskEnv g.slot g.task
  match e.r 0, e.r 1, e.r 2, e.r 3 with
  | some dO, some o, some l, some rs =>
    let m := s.mem
    ((nth ({} : RefW) g.refs 3).rowIx).foldl (fun s (i, h) =>
      let ix := [0, i, h, 0]
      let (sk, T) := dotSk m e dO o ix ix
      let bad := s.rowBad dO i h || s.rowBad o i h || s.rowBad l h 0
      let (s, out) := s.writeRun rs rs.base (rs.rowOf i h 0) 0 { w := { inf := true, wrap := false } } [(l.val m l.base h i).toEx, sk.drain 0 T g.ls] bad
      ((s.gradOvf g.slot rs out).noteWrite g.slot g.task 3 out).readPoison g bad) s
  | _, _, _, _ => s

/-- P′ of a pair (R222): units of 2^−63; the flag tells a NaN (breach or NaN score), none that no product is issued. -/
def pPrime (m : Tbl Byte) (e : TaskEnv) (q k rs : TRec) (h i j : Nat) : Option (Nat × Bool × Bool) :=
  let iq := [0, i, h, 0]
  let ik := [0, j, kvHead e h, 0]
  let l := rs.val m rs.base (rs.rowOf i h 0) 0
  if masked m e i j then none else
  match l with
  | .inf true => none
  | .nan => some (0, true, true)
  | _ =>
    let (sk, T) := dotSk m e q k iq ik
    if sk.nan ∨ (sk.pinf ∧ sk.ninf) then some (0, true, false) else if sk.pinf then some (0, true, true) else if sk.ninf then none else
    let x := ((AB.sigma e.d).mul (sk.val 0 T)).add l.neg
    if !(x.lt (.fin false 1 0)) then some (0, true, true) else some (expUnits x, false, false)

/-- What the pairs of a query row do to all that the row feeds (R222): NaN, and whether the row is a breach. -/
def rowNan (m : Tbl Byte) (e : TaskEnv) (q k rs : TRec) (h i : Nat) (keys : List Nat) : Bool × Bool :=
  keys.foldl (fun p j => match pPrime m e q k rs h i j with
    | some (_, bad, br) => (p.1 || bad, p.2 || br)
    | none => p) (false, false)

/-- dS of the rows of a dS window (R224). A masked pair's dS is +0 (log 17); the loss scale does not enter, which dO carries (log 75). -/
def State.attnDS (s : State) (panel : Nat) (g : Seg) (e : TaskEnv) (q k v rs dO : TRec) (keys : List Nat) (t : TRec) : State :=
  let m := s.mem
  let how := s.attnHow g.slot g.desc
  let c := f32Mul (AB.sigma g.desc) (ofF32 0x3F317218)
  let w := nth ({} : RefW) g.refs 6
  (w.rowIx).foldl (fun s (i, h) =>
    let (nan, br) := rowNan m e q k rs h i keys
    let xs := (List.range (w.n 0)).map fun a =>
      let j := w.s 0 + a
      if masked m e i j then Ex.zero
      else if nan then .nan
      else match pPrime m e q k rs h i j with
      | none => Ex.zero
      | some (u, _, _) =>
        let (sk, T) := dotSk m e dO v [0, i, h, 0] [0, j, kvHead e h, 0]
        let D := rs.val m rs.base (rs.rowOf i h 0) 1
        ((c.mul (.fin false u (-63))).mul ((sk.val 0 T).add D.neg)).toEx
    let bad := s.attnBad e q k v i h keys || s.rowBad dO i h || s.rowBad rs i h
    let (s, out) := s.writeRun t t.base (t.rowOf i h 0) (w.s 0) how xs bad
    let s := ((s.gradOvf g.slot t out).noteWrite g.slot g.task 6 out).readPoison g bad
    if br then s.breach panel g.slot g.task true (h * q.e1 + i) else s) s

/-- One dV Skein under an anchor record over the queries of a window (R225), and whether a contribution climbs. -/
def dvSk (m : Tbl Byte) (e : TaskEnv) (q k rs dO : TRec) (rows : List (Nat × Nat)) (nans : List (Nat × Nat)) (j col : Nat) (an : Anc) : Sk × Bool :=
  rows.foldl (fun (p : Sk × Bool) (i, h) =>
    if masked m e i j then p
    else if nans.contains (i, h) then ({ p.1 with nan := true }, p.2)
    else match pPrime m e q k rs h i j with
    | none => p
    | some (u, _, _) =>
      let (x, up) := (Contrib.ofVal ((Val.fin false u (-63)).mul (dO.val m dO.base (dO.rowOf i h 0) col))).round an
      (if up then p.1 else p.1.add x, p.2 || up)) (Sk.zero, false)

/-- The anchor record of a block of dV: its reduction's (R82), else the declared one or R225's, raised once per climb (R90, R91). -/
def State.dvAnc (s : State) (g : Seg) (e : TaskEnv) (q k dO t : TRec) (r : Option Red) (j kv col : Nat) : Anc :=
  let blk := t.pad (t.lin (t.rowOf j kv 0) col) / 32
  match r with
  | some r => { T := r.anchor blk, cls := g.cls, epoch := r.epoch % 16, climb := false, valid := true }
  | none =>
    let x := (s.slot g.slot).task g.task
    let base := if dO.untagged then TD.danchor e.d else anchorOf (dvAnchor s.mem e q k dO j kv col)
    { T := min 32767 (base + 16 * (tget 0 x.rises blk : Nat)), cls := g.cls, epoch := x.epoch % 16, climb := false, valid := true }

/-- dV of a dV window over the queries of the segment's query window (R225): drained here, or contributed to the task's reduction; a
block with a contribution that climbs is neither (R93, R99). -/
def State.attnDV (s : State) (g : Seg) (e : TaskEnv) (q k v rs dO : TRec) (nans : List (Nat × Nat)) (t : TRec) : State :=
  let m := s.mem
  let how := s.attnHow g.slot g.desc
  let how' : WrHow := { stoch := FW.stoch t.fmt, purpose := 1, seed := how.seed, step := how.step }
  let w := nth ({} : RefW) g.refs 7
  let qs := (nth ({} : RefW) g.refs 0).rowIx
  let u := max 32 t.unit
  let runs := (List.range (if w.n 0 = 0 then 0 else (w.s 0 + w.n 0 - 1) / u + 1 - w.s 0 / u)).map fun b => (max (w.s 0) ((w.s 0 / u + b) * u), min (w.s 0 + w.n 0) ((w.s 0 / u + b + 1) * u))
  (w.rowIx).foldl (fun s (j, kv) =>
    let rows := qs.filter fun x => kvHead e x.2 = kv
    let bad := rows.any (fun x => !masked m e x.1 j && (s.rowBad q x.1 x.2 || s.rowBad dO x.1 x.2 || s.rowBad rs x.1 x.2)) || s.rowBad k j kv || s.rowBad v j kv
    let s := s.readPoison g bad
    runs.foldl (fun s (lo, hi) =>
      let r := if g.redid = 0 then none else s.red g.ctx g.redid
      let an (c : Nat) : Anc := s.dvAnc g e q k dO t r j kv c
      let sks := (List.range (hi - lo)).map fun a => (lo + a, dvSk m e q k rs dO rows nans j (lo + a) (an (lo + a)))
      let el (c : Nat) : Nat := t.pad (t.lin (t.rowOf j kv 0) c)
      let ups := ((sks.filter fun x => x.2.2).map fun x => el x.1 / 32).eraseDups
      match r with
      | some r =>
        let (s, r) := (sks.filter fun x => !ups.contains (el x.1 / 32)).foldl (fun (p : State × Red) x =>
          p.1.contribute p.2 (p.2.enter (el x.1 / p.2.chunkN)) (el x.1) x.2.1.toW) (s, r)
        (s.setRed r).climbsRed g.ctx g.redid ups
      | none =>
        if !ups.isEmpty then
          let x := s.slot g.slot
          s.setSlot g.slot (x.setTask g.task { x.task g.task with climbs := ups.foldl sins (x.task g.task).climbs })
        else
          let (s, out) := s.writeRun t t.base (t.rowOf j kv 0) lo how' (sks.map fun x => x.2.1.drain g.cls (an x.1).T g.ls) bad
          (s.gradOvf g.slot t out).noteWrite g.slot g.task 7 out) s) s

/-- The backward variant: dS of its dS window and dV of its dV window (R222 to R225). The keys of a row are those of the segment's key
window; a breach is counted with the row's dS, or with its dV where the task writes no dS. -/
def State.attnBackward (s : State) (panel : Nat) (g : Seg) : State :=
  let e := s.taskEnv g.slot g.task
  match e.r 0, e.r 1, e.r 2, e.r 3, e.r 4 with
  | some q, some k, some v, some rs, some dO =>
    let keys := (nth ({} : RefW) g.refs 1).axis1
    let found := ((nth ({} : RefW) g.refs 0).rowIx).map fun (i, h) => ((i, h), rowNan s.mem e q k rs h i keys)
    let s := match e.r 6 with
      | none => (found.filter fun x => x.2.2).foldl (fun s x => s.breach panel g.slot g.task true (x.1.2 * q.e1 + x.1.1)) s
      | some t => s.attnDS panel g e q k v rs dO keys t
    match e.r 7 with
    | none => s
    | some t => s.attnDV g e q k v rs dO ((found.filter fun x => x.2.1).map (·.1)) t
  | _, _, _, _, _ => s

/-! ### Attention reductions (R211, R219, R345) -/

/-- Head and query row of a padded row number. -/
def Red.attnRow (q : TRec) (r : Nat) : Nat × Nat := (r / alignUp q.e1 32, r % alignUp q.e1 32)

/-- The contributor tasks of an attention reduction. -/
def State.attnTasks (s : State) (r : Red) : List Nat :=
  let x := s.slot r.slot
  (List.range x.tasks.length).filter fun j => TD.typ (x.desc j) = 1 && TD.redid (x.desc j) = r.redid

/-- The keys that a task's segments pair with a query row: those of the key windows of the segments whose O window holds it (R269). -/
def State.rowKeys (s : State) (n : Nat) (e : TaskEnv) (k o : TRec) (h i : Nat) : List Nat :=
  let g := (s.slot n).graph
  ((List.range (max 1 (TD.segments e.d))).flatMap fun sg =>
    let (so, co) := winSeg o (g.winRec e.d 3) sg
    let (sk, ck) := winSeg k (g.winRec e.d 1) sg
    if nth 0 so 1 ≤ i ∧ i < nth 0 so 1 + nth 0 co 1 ∧ nth 0 so 2 ≤ h ∧ h < nth 0 so 2 + nth 0 co 2 then
      (List.range (nth 0 ck 1)).map (nth 0 sk 1 + ·) else []).eraseDups

/-- This member's anchor report for a block of an attention reduction (R214); the Σp block and padding rows have none. -/
def State.attnRep (s : State) (r : Red) (blk : Nat) : Option Int :=
  let row := 32 * blk / r.rowAcc
  let col := 32 * blk % r.rowAcc
  (s.attnTasks r).foldl (fun a j =>
    let e := s.taskEnv r.slot j
    match e.r 0, e.r 1, e.r 2, e.r 3 with
    | some q, some k, some v, some o =>
      let (h, i) := Red.attnRow q row
      if v.e0 ≤ col ∨ q.e1 ≤ i ∨ q.e2 ≤ h then a else maxO a (vAnchor s.mem e q v h i col (s.rowKeys r.slot e k o h i))
    | _, _, _, _ => a) none

/-- This member's sounding report for a row (R211). -/
def State.attnSound (s : State) (r : Red) (row : Nat) : Option Int :=
  (s.attnTasks r).foldl (fun a j =>
    let e := s.taskEnv r.slot j
    match e.r 0, e.r 1, e.r 3 with
    | some q, some k, some o =>
      let (h, i) := Red.attnRow q row
      if q.e1 ≤ i ∨ q.e2 ≤ h then a else maxO a (rowBound s.mem e q k h i (s.rowKeys r.slot e k o h i)).1
    | _, _, _ => a) none

/-- The rows of a chunk of an attention reduction. -/
def Red.attnRows (r : Red) (c : Nat) : List Nat := (List.range (r.chunkLen c / r.rowAcc)).map fun k => c * 2 ^ r.chunkLg + k

/-- The identity of the sounding combine. -/
def soundNone : Int := -(2 ^ 63 : Nat)

/-- A bound as it travels: within 64 bits, and not the identity. -/
def soundWord (v : Int) : Int := if v = soundNone then v else max (1 - 2 ^ 63) (min (2 ^ 63 - 1) v)

/-- Sounding words as packets (R361), each held within its 64 bits (log 78); `F_LAST` tells them from anchor words (log 18). -/
def State.soundMsgs (s : State) (r : Red) (c : Nat) (l : List Int) : List Msg :=
  (cutBytes (s.fab.largest.toNat / 8 * 8) (8 * l.length + 1) 0 (l.flatMap fun v => toLE 8 (toTwos 64 (soundWord v)))).map fun (o, b) =>
    { tc := 4, pfmt := 4, redid := r.redid, chunk := c, offset := o, epoch := r.epoch, last := true, payload := b }

/-- A member takes the sounding words that come to it and its own; the home then sends the agreed bounds, another member reports the
maximum in its turn (R211, R353). -/
def State.takeSound (s : State) (r : Red) (m c : Nat) (l : List (Nat × Int)) (whole : Bool) : State :=
  let r := { r with soundMax := l.foldl (fun t (b, v) => tset soundNone t b (max (tget soundNone t b) v)) r.soundMax
                    soundRep := if !whole ∨ r.soundRep.contains (m, c) then r.soundRep else r.soundRep ++ [(m, c)] }
  let ag := (r.attnRows c).map fun b => (b, tget soundNone r.soundMax b)
  if !((r.self :: r.down c).all fun q => r.soundRep.contains (q, c)) then s.setRed r
  else if r.home c = r.self then
    let r := { r with mhat := r.mhat.filter (fun x => !(ag.any fun y => y.1 = x.1)) ++ ag }
    (s.setRed r).toDown r c (s.soundMsgs r c (ag.map (·.2)))
  else (s.setRed r).lsSendAll r.ctx (nth 0 r.ranks (r.up c)) (s.soundMsgs r c (ag.map (·.2)))

/-- This member's sounding reports of a chunk (R211). -/
def State.sendSound (s : State) (c rid ch : Nat) : State :=
  match s.red c rid with
  | none => s
  | some r =>
    if !r.attn ∨ !r.grantA.contains ch then s else
    let l := (r.attnRows ch).map fun row => (row, (s.attnSound r row).getD soundNone)
    s.takeSound r r.self ch l true

/-- Are the anchors and bounds of a segment's rows agreed (R211)? -/
def State.attnAgreed (s : State) (g : Seg) : Bool :=
  match s.red g.ctx g.redid with
  | none => false
  | some r =>
    let e := s.taskEnv g.slot g.task
    match e.r 0 with
    | none => false
    | some q => ((nth ({} : RefW) g.refs 3).rowIx).all fun (i, h) =>
        let row := h * alignUp q.e1 32 + i
        r.mhat.any (fun x => x.1 = row) && (List.range (r.rowAcc / 32 - 1)).all fun b => r.agreed.any fun x => x.1 = row * r.rowAcc / 32 + b

/-- A forward segment of an attention reduction (R345): of its rows, the partial sums over its key window of the columns of its O window,
and Σp from the segment whose O window holds column 0 (log 81), are contributed. -/
def State.attnPartial (s : State) (panel : Nat) (g : Seg) : State :=
  let e := s.taskEnv g.slot g.task
  match s.red g.ctx g.redid, e.r 0, e.r 1, e.r 2 with
  | some r0, some q, some k, some v =>
    let keys := (nth ({} : RefW) g.refs 1).axis1
    let w := nth ({} : RefW) g.refs 3
    let m := s.mem
    let (s, r) := w.rowIx.foldl (fun (sr : State × Red) (i, h) =>
      let r := sr.2
      let row := h * alignUp q.e1 32 + i
      let mv := ((r.mhat.find? fun x => x.1 = row).map (·.2)).getD soundNone
      let mh := mhatOf (if mv = soundNone then none else some mv)
      let base := row * r.rowAcc
      let beyond := (rowBound m e q k h i keys).2
      let rs := rowSums m e q k v h i keys mh fun c => r.anchor ((base + c) / 32)
      let bad := beyond || rs.breach
      let fix (x : Sk) : Sk := if bad then { x with nan := true } else x
      let poison := sr.1.attnBad e q k v i h keys
      let s := (if rs.breach then sr.1.breach panel g.slot g.task false (h * q.e1 + i) else sr.1).readPoison g poison
      let cols := (List.range (w.n 0)).map fun a => (base + w.s 0 + a, (fix (nth Sk.zero rs.cols (w.s 0 + a))).toW)
      let words := cols ++ if w.s 0 = 0 then [(base + v.e0, (fix rs.sump).toW)] else []
      words.foldl (fun (sr : State × Red) x => sr.1.contribute sr.2 (sr.2.enter (x.1 / sr.2.chunkN)) x.1 x.2) (s, r)) (s, r0)
    s.setRed r
  | _, _, _, _ => s

/-- A complete piece of an attention reduction drained at its home: O and LSE of its rows (R345, R215, R216). A row that is overrange or
breached arrives marked NaN. -/
def State.attnDrain (s : State) (r : Red) (p : Piece) : State :=
  let d := (s.slot r.slot).desc r.task
  let o := s.redOut r
  let how := s.redHow r
  let ls : Int := if TD.lscale d then (s.slot r.slot).att.e else 0
  let (a, n) := r.span p.idx p.chunk
  let base := p.chunk * r.chunkN
  (List.range (n / r.rowAcc)).foldl (fun s t =>
    let row := (base + a) / r.rowAcc + t
    let h := row / alignUp o.e1 32
    let i := row % alignUp o.e1 32
    if o.e1 ≤ i ∨ o.e2 ≤ h then s else
    let k0 := a + t * r.rowAcc
    let wd (c : Nat) : Sk := Sk.of (tget 0 p.acc (k0 + c))
    let sp := wd o.e0
    let mv := ((r.mhat.find? fun x => x.1 = row).map (·.2)).getD soundNone
    let mh := mhatOf (if mv = soundNone then none else some mv)
    let nanRow := sp.nan
    let bad := p.poison.any fun b => decide ((base + k0) / 32 ≤ b ∧ b < (base + k0 + r.rowAcc) / 32)
    let xs := (List.range o.e0).map fun c => outEl nanRow (wd c) sp (r.anchor ((base + k0 + c) / 32)) ls
    let (s, out) := s.writeRun o o.base (o.rowOf i h 0) 0 how xs bad
    let s := (s.gradOvf r.slot o out).noteWrite r.slot r.task 0 out
    match s.tensor r.ctx (TD.tref d 1) with
    | some l => (s.writeRun l l.base h i { w := { inf := true, wrap := false } } [lseEl nanRow sp mh] bad).1
    | none => s) s

/-- What an ATTN segment computes (R271, R272). -/
def State.attnSeg (s : State) (panel : Nat) (g : Seg) : State :=
  let e := s.taskEnv g.slot g.task
  let ins := match g.variant with | 0 => [0, 1, 2, 5] | 1 => [0, 1, 2] | _ => [0, 1, 2, 3, 4, 5]
  let s := ins.foldl (fun s r => match e.r r with
    | some t => s.noteFmt g.slot g.task r (s.fmtIn t (winSeg t ((s.slot g.slot).graph.winRec e.d r) g.sigma))
    | none => s) s
  match g.variant with
  | 0 => if g.redid ≠ 0 then s.attnPartial panel g else s.attnForward panel g
  | 1 => s.attnDelta g
  | _ => s.attnBackward panel g

end Sys2Proof.Machine
end

