-- ==== Sys2Proof/Machine/KnownAnswer.lean ====
section
/-! DEFINITION. The known-answer run (spec/16 R433, R434): three exact products, the digests of what an engine drains, and the engines that
fail. -/
namespace Sys2Proof.Machine

/-- The format of a known-answer product: FP8 E4M3, FP4 E2M1, BF16 (R433). -/
def kaFmt (f : Nat) : Nat := match f with | 0 => 3 | 1 => 7 | _ => 1
/-- The operand of a product: A (side 0) or B (side 1), 64 rows of K = 4,096 elements, block size 32, no bobbles (R433). -/
def kaTensor (f side : Nat) : TRec :=
  { fmt := BitVec.ofNat 64 (kaFmt f * 2 ^ 20 + 2 * 2 ^ 25 + 2 ^ 19), e0 := 4096, e1 := 64, place := side * 2 ^ 30, ctx := 0 }
/-- An operand image as the firmware carries it, which the spec does not give (log 86), with the gauge tags of its contents. -/
def kaImage (f side : Nat) : Tbl Byte :=
  let t := kaTensor f side
  let m := wrBs [] (t.key t.base) ((List.range (t.scaleOfs + t.scaleBytes)).map fun k => Config.knownAnswerByte f side k)
  (List.range 64).foldl (fun m row => t.retag m t.base row 0 4096) m
/-- Output (i, j) of a product: the exact Skein-192 sum at its tile's anchor, drained to FP32 by round to nearest even and saturation. -/
def kaElem (f : Nat) (m : Tbl Byte) (i j : Nat) : Nat :=
  let a := kaTensor f 0
  let b := kaTensor f 1
  let T := dotAnchor m a b [0, i, 0, 0] [0, j, 0, 0]
  let (k, _) := sliceSum { T := T, cls := 0, epoch := 0, climb := false, valid := true }
    (sliceContribs (pairBlk a b) ((List.range 4096).map fun k => a.sl m i k) ((List.range 4096).map fun k => b.sl m j k))
  (Fmt.encElem .fp32 { inf := false, wrap := false } false 0 .rne (k.drain 0 T 0)).code
/-- What a sound engine drains in the two runs of a product, in row order (R433). -/
def kaBytes (f : Nat) : List Byte :=
  let m := kaImage f 0 ++ kaImage f 1
  let one := (List.range 64).flatMap fun i => (List.range 64).flatMap fun j => toLE 4 (kaElem f m i j)
  one ++ one
/-- The reference digest of a format (R434): results are exact, so it is that of the product's value (log 86). -/
def kaRef (f : Nat) : List Byte := shake256 (kaBytes f) 32

/-- What an engine drains when its hardware is in error as the flaws say. -/
def kaDrained (flaws : List Flaw) (x f : Nat) : List Byte :=
  (flaws.filter fun w => w.engine = x ∧ w.fmt = f).foldl (fun l w => l.set w.byte (nth 0 l w.byte ^^^ w.flip)) (kaBytes f)
/-- The formats whose digest differs from the reference on a physical engine (R434), as a bitmap; 0 where it passes. -/
def kaFails (flaws : List Flaw) (x : Nat) : Nat :=
  if flaws.any fun w => w.engine = x then
    sumN ((List.range 3).map fun f => if shake256 (kaDrained flaws x f) 32 = kaRef f then 0 else 2 ^ f)
  else 0
/-- The physical engines of a list that fail. -/
def kaBad (flaws : List Flaw) (xs : List Nat) : List Nat := xs.filter fun x => kaFails flaws x ≠ 0

end Sys2Proof.Machine
end

