-- ==== Sys2Proof/Machine/Ports.lean ====
section
/-! DEFINITION. Ports, sub-ports, lanes and lasers (spec/12 R310 to R318). -/
namespace Sys2Proof.Machine

/-- Lanes of one sub-port in a mode (R310). -/
def modeLanes (m : BitVec 2) : Nat := 8 / 2 ^ m.toNat
/-- Sub-ports of a mode. -/
def modeSubs (m : BitVec 2) : Nat := 2 ^ m.toNat
/-- The sub-port a lane belongs to. -/
def Port.subOf (p : Port) (lane : Nat) : Nat := lane / modeLanes p.mode
/-- A sub-port's state set, with the mask of its lanes in use. -/
def Port.setSub (p : Port) (k : Nat) (st : BitVec 4) (m : BitVec 8) : Port :=
  { p with subst := p.subst.setIfInBounds k st, lanes := p.lanes.setIfInBounds k m }
/-- Is a sub-port of the port's mode? -/
def Port.hasSub (p : Port) (k : Nat) : Bool := k < modeSubs p.mode
/-- The state of a sub-port. -/
def Port.sub (p : Port) (k : Nat) : BitVec 4 := (p.subst[k]?).getD 0

/-- The mask of `w` lanes from lane `lo`. -/
def laneMask (lo w : Nat) : BitVec 8 := BitVec.ofNat 8 ((2 ^ w - 1) * 2 ^ lo)

/-- The mask of the largest aligned lane group inside a sub-port whose lanes all work, the lowest of its width; none: 0 (R317). -/
def laneGroup (lo n : Nat) (good : Nat → Bool) : BitVec 8 :=
  let groups := [8, 4, 2, 1].flatMap fun w => (List.range (8 / w)).map fun k => (k * w, w)
  match groups.find? fun g => decide (lo ≤ g.1 ∧ g.1 + g.2 ≤ lo + n) && (List.range g.2).all fun i => good (g.1 + i) with
  | some g => laneMask g.1 g.2
  | none => 0

/-- The fibres on which a port's lane transmits and receives at its Strand engine's connector (R491). -/
def fibres (port lane : Nat) : Nat × Nat := (8 * (port % 4) + lane, 32 + 8 * (port % 4) + lane)

/-- A packet that waited at its port goes out on another sub-port (R315), which a stream keeps as the one that carried it. -/
def State.respray (s : State) (w : Waiting) : State :=
  let tc := LS.tc w.pkt.hdr
  match s.spray tc none with
  | none => s
  | some (sub, s) =>
    let x := s.stream w.ctx w.rank tc
    let s := if x.unacked.isEmpty then s else
      s.setStream { x with unacked := x.unacked.map fun u => if u.1 = LS.seq w.pkt.hdr ∧ u.2.2 = w.pkt then (u.1, sub, u.2.2) else u }
    s.transmit w.ctx w.rank sub w.pkt

/-- The packets that wait at a port for sub-ports out of service are sprayed again over the others (R315). -/
def State.resprayPort (s : State) (n : Nat) : State :=
  let p := s.port n
  let (stay, go) := p.waitq.partition fun w => s.inService w.sub
  go.foldl State.respray (s.setPort n { p with waitq := stay })

/-- The packets that wait at a port go, or wait on while their priority is paused (R312). -/
def State.resumePort (s : State) (n : Nat) : State :=
  let p := s.port n
  p.waitq.foldl (fun s w => s.transmit w.ctx w.rank w.sub w.pkt) (s.setPort n { p with waitq := [] })

/-- A live retrain of a sub-port starts (R315): weight 0; its queued packets go out on other sub-ports. -/
def State.startRetrain (s : State) (n k : Nat) : State :=
  let p := s.port n
  if !p.hasSub k ∨ !p.en then s else
  ((s.setPort n (p.setSub k 5 0)).resprayPort n).probeIfChanged s.bitmap

/-- A live retrain of every sub-port of a port (R312, R315); a disabled port's sub-ports are DISABLED. -/
def State.retrainPort (s : State) (n : Nat) : State :=
  let p := s.port n
  let q := (List.range 8).foldl (fun (q : Port) k =>
    if p.en ∧ p.hasSub k then q.setSub k 5 0 else q.setSub k 0 0) p
  ((s.setPort n q).resprayPort n).probeIfChanged s.bitmap

/-- Is some sub-port of the module retraining for another cause than a worn laser's switch (R318)? -/
def State.retraining (s : State) : Bool :=
  (List.range 256).any fun i => (s.port (i / 8)).sub (i % 8) = 5 && ((s.fab.strands[i / 32]?).getD {}).switching ≠ some i

/-- A spare laser of a Strand engine switched in, recorded, logged and counted as a wear event (R318, R459). -/
def State.switchLaser (s : State) (n lane : Nat) : State :=
  let e := n / 4
  let x := (s.fab.strands[e]?).getD {}
  let s := { s with fab := { s.fab with strands := s.fab.strands.setIfInBounds e { x with spares := x.spares - 1, spent := x.spent + 1 } }
                    wer := { s.wer with events := bump s.wer.events } }
  let s := { s with bru := { s.bru with saved := s.bru.saved.map fun t : Train => if t.unit = 16 + 8 * n + lane then { t with ok := false } else t } }
  s.log { code := 0x0602, sev := 2, unit := 5, num := e, phys := e, data := 8 * n + lane }

/-- A worn laser's switch through a live retrain (R318): at most one runs in each Strand engine, and none while a sub-port
retrains for another cause; otherwise it waits. -/
def State.wearSwitch (s : State) (n lane : Nat) : State :=
  let e := n / 4
  let x := (s.fab.strands[e]?).getD {}
  if x.spares = 0 then s
  else if x.switching.isSome ∨ s.retraining then
    if x.wearQ.contains (8 * n + lane) then s else
    { s with fab := { s.fab with strands := s.fab.strands.setIfInBounds e { x with wearQ := x.wearQ ++ [8 * n + lane] } } }
  else
    let s := s.switchLaser n lane
    let x := (s.fab.strands[e]?).getD {}
    let k := (s.port n).subOf lane
    ({ s with fab := { s.fab with strands := s.fab.strands.setIfInBounds e { x with switching := if (s.port n).en then some (8 * n + k) else none } } }).startRetrain n k

/-- Waiting worn lasers get their switch once nothing else retrains. -/
def State.wearNext (s : State) : State :=
  (List.range 8).foldl (fun s e =>
    let x := (s.fab.strands[e]?).getD {}
    match x.wearQ with
    | [] => s
    | l :: t =>
      if x.switching.isSome ∨ s.retraining then s else
      ({ s with fab := { s.fab with strands := s.fab.strands.setIfInBounds e { x with wearQ := t } } }).wearSwitch (l / 8) (l % 8)) s

/-- A sub-port ends its training (R315, R317): UP, DEGRADED on the largest working lane group, or EXCLUDED. -/
def State.endTraining (s : State) (n k : Nat) (good : BitVec 8) : State :=
  let p := s.port n
  let w := modeLanes p.mode
  let ok (l : Nat) : Bool := good.getLsbD l && p.laneEn.getLsbD l && !p.badLanes.getLsbD l
  let g := laneGroup (k * w) w ok
  let before := s.bitmap
  let again := p.retry.getLsbD k
  let q := { p with retry := p.retry &&& ~~~(BitVec.ofNat 8 (2 ^ k)) }
  let s := if g = laneMask (k * w) w then s.setPort n (q.setSub k 3 g)
    else if g = 0 then
      let s := s.setPort n (q.setSub k 6 0)
      if again then s else s.log { code := 0x0603, sev := 2, unit := 6, num := n, phys := n, data := k }
    else (s.setPort n (q.setSub k 4 g)).log { code := 0x0601, sev := 2, unit := 6, num := n, phys := n, data := k }
  let x := (s.fab.strands[n / 4]?).getD {}
  let s := { s with fab := { s.fab with strands := s.fab.strands.setIfInBounds (n / 4) { x with switching := if x.switching = some (8 * n + k) then none else x.switching } } }
  let s := s.probeIfChanged before
  let s := if before = 0 ∧ s.bitmap ≠ 0 then
      (s.fab.peers.filter fun q => q.joined).foldl (fun s q => s.flushAll q.ctx q.rank) { s with fab := { s.fab with noService := false } }
    else s
  s.wearNext

/-! ### Meanings -/

/-- LANE_SIGNAL_LOSS (R315). -/
def execLaneSignalLoss (port lane : Nat) (s : State) : Host.Outcome State Fault Refusal :=
  .next (s.startRetrain port ((s.port port).subOf lane))

/-- FEC_ERROR_BURST (R315). -/
def execFecErrorBurst (port sub : Nat) (s : State) : Host.Outcome State Fault Refusal := .next (s.startRetrain port sub)

/-- LASER_FAILURE (R318): a spare is switched in while one remains; otherwise the lane is lost. Its sub-port retrains. -/
def execLaserFailure (port lane : Nat) (s : State) : Host.Outcome State Fault Refusal :=
  let x := (s.fab.strands[port / 4]?).getD {}
  let p := s.port port
  let s := if x.spares ≠ 0 then s.switchLaser port lane else s.setPort port { p with badLanes := p.badLanes ||| BitVec.ofNat 8 (2 ^ lane) }
  .next (s.startRetrain port (p.subOf lane))

/-- LASER_WEAR (R318). -/
def execLaserWear (port lane : Nat) (s : State) : Host.Outcome State Fault Refusal := .next (s.wearSwitch port lane)

/-- RETRAIN_END (R315, R317) of a sub-port in TRAINING or RETRAINING. -/
def execRetrainEnd (port sub : Nat) (good : BitVec 8) (s : State) : Host.Outcome State Fault Refusal :=
  .next (if (s.port port).sub sub = 5 ∨ (s.port port).sub sub = 2 then s.endTraining port sub good else s)

/-- EXCLUDED_RETRY (R314): a live retrain whose failure logs nothing further. -/
def execExcludedRetry (port sub : Nat) (s : State) : Host.Outcome State Fault Refusal :=
  let p := s.port port
  .next (if p.sub sub = 6 then (s.setPort port { p with retry := p.retry ||| BitVec.ofNat 8 (2 ^ sub) }).startRetrain port sub else s)

/-- ARP_REQUEST (R311): answered for the sub-port's own IPv4 address, with its MAC address. -/
def execArpRequest (sub ip : Nat) (s : State) : Host.Outcome State Fault Refusal :=
  let a := tget 0 s.fab.addrs sub
  .next (if BV.fld a 48 32 = ip then s.emit (.arp sub ip (BV.fld a 0 48)) else s)

/-- NEIGHBOUR_SOLICITATION (R311): answered for the sub-port's own IPv6 address. -/
def execNeighbourSolicitation (sub ip : Nat) (s : State) : Host.Outcome State Fault Refusal :=
  let a := tget 0 s.fab.addrs sub
  .next (if BV.fld a 80 128 = ip then s.emit (.neighbour sub ip (BV.fld a 0 48)) else s)

/-- PFC_PAUSE_FRAME (R312): honoured when `PFC_EN` is 1: the priorities named pause, the others go on; an empty set resumes all. -/
def execPfcPauseFrame (port : Nat) (classes : BitVec 8) (s : State) : Host.Outcome State Fault Refusal :=
  let p := s.port port
  .next (if p.pfcEn then (s.setPort port { p with pfcPause := classes }).resumePort port else s)

/-- FOREIGN_FRAME_DROP (R319): dropped and counted. -/
def execForeignFrameDrop (_sub : Nat) (s : State) : Host.Outcome State Fault Refusal :=
  .next { s with fab := { s.fab with foreign := bump s.fab.foreign } }

end Sys2Proof.Machine
end

