-- ==== Sys2Proof/Machine/Pager.lean ====
section
/-! DEFINITION. The pager: writeback, eviction, recall, memory errors and retirement (spec/11 R302 to R309, R493, spec/04 R130). -/
namespace Sys2Proof.Machine

/-! ### Writeback (R302) -/

/-- Did a segment drain a part of a sum that is split over panels (R69)? What such a part drains is written when the sum is whole. -/
def State.splitSum (s : State) (d : Done) : Bool :=
  d.seg.comb && (s.slot d.seg.slot).parts.any fun p => p.red = partKey d.seg.desc d.seg.task

/-- What a segment's report adds to its task: flags, QE sums, and its step's overflow flag (R49, R61, R236, R280); of a part of a split
sum, what was read but not what was drained (R69). -/
def State.joinDone (s : State) (d : Done) : State :=
  let n := d.seg.slot
  let x := s.slot n
  let t := x.task d.seg.task
  let add (a b : List Nat) : List Nat := (List.range 8).map fun r => nth 0 a r + nth 0 b r
  let cut (l : List Nat) (v : Nat) : List Nat := if s.splitSum d then l.set 2 v else l
  let t := { t with flags := joinFlags t.flags (cut d.flags (nth 0 d.flags 2 % 4)), qS := add t.qS (cut d.qS 0), qE := add t.qE (cut d.qE 0) }
  s.setSlot n { x.setTask d.seg.task t with att := { x.att with ovf := x.att.ovf || (d.gradOvf && !s.splitSum d) } }

/-- The output windows of a segment written back from a panel: the lines it wrote, poisoned where it faulted or read poison. What it drained
as a part of a split sum is written when the sum is whole (R69). -/
def State.storeOut (s : State) (p : Panel) (d : Done) : State :=
  let split := s.splitSum d
  d.seg.refs.zipIdx.foldl (fun s ((r : RefW), q) =>
    if !r.out ∨ (split ∧ q = 2) then s else
    r.lines.foldl (fun s (ln, row, j) =>
      let ph := d.seg.phys ln
      if d.wrote ph then s.storeLine r row j (tget {} p.sram ph) (d.fault.isSome || d.tainted) else s) s) s

/-- Does the slot still run the attempt that a finished segment belongs to? -/
def State.current (s : State) (d : Done) : Bool :=
  let x := s.slot d.seg.slot
  x.st = .running && decide (x.attempt.toNat = d.attempt) && x.ctx.toNat = d.seg.ctx && x.desc d.seg.task = d.seg.desc

/-- What a segment that has ended reports. -/
def Panel.done (p : Panel) (g : Seg) (attempt : Nat) : Done :=
  { seg := g, attempt := attempt, fault := p.fault, tainted := p.tainted, written := p.written, flags := p.flags, qS := p.qS, qE := p.qE, gradOvf := p.gradOvf }

/-- The output windows of a segment go to HBM: of a faulted attention segment, poison. -/
def State.backOne (s : State) (panel : Nat) (d : Done) : State :=
  let here := s.current d
  let s := if d.seg.typ = 1 then
      if d.fault.isSome ∨ d.tainted then
        (d.seg.refs.filter (·.out)).foldl (fun s (r : RefW) => r.ranges.foldl (fun s k => s.poisonRange k.1 k.2) s) s
      else if here then s.attnSeg panel d.seg else s
    else s.storeOut (s.panel panel) d
  let s := s.touch ((d.seg.refs.filter (·.out)).flatMap (·.pages)).eraseDups
  if here ∧ d.seg.typ ≠ 1 then s.joinDone d else s

/-- WRITEBACK (R302): the oldest finished segment of a panel goes to HBM and its grant is free; with none waiting, the running
segment once it has ended, whose grant the tick frees. -/
def execWriteback (panel : Nat) (s : State) : Host.Outcome State Fault Refusal :=
  let p := s.panel panel
  .next (match p.wbq with
    | d :: rest =>
      let s := s.backOne panel d
      let s := s.setPanel panel { s.panel panel with wbq := rest }
      if !s.current d then s else
      let x := s.slot d.seg.slot
      let t := x.task d.seg.task
      if t.running.contains d.seg.sigma then s else s.setSlot d.seg.slot (x.setTask d.seg.task { t with wb := t.wb - 1 })
    | [] => match p.seg with
      | none => s
      | some g =>
        if !p.ended ∨ p.backed then s else
        let s := s.backOne panel (p.done g (s.slot g.slot).attempt.toNat)
        s.setPanel panel { s.panel panel with backed := true })

/-! ### Next use (R305) -/

/-- The key of a task in the scheduling order (R227): priority class, step, micro-batch, slot, task index. -/
def taskKey (d n i : Nat) : Nat := (((TD.prio d * 2 ^ 32 + TD.step d) * 2 ^ 16 + TD.mbid d) * 64 + n) * 2 ^ 20 + i

/-- Unfinished tasks of the slots that run, those of one context or of all, in key order (R227). -/
def State.taskOrder (s : State) (c : Option Nat) : List (Nat × Nat) :=
  let l := (List.range 64).flatMap fun n =>
    let x := s.slot n
    if x.st = .running ∧ (c.isNone ∨ c = some x.ctx.toNat) then
      ((List.range x.tasks.length).filter fun i => !(x.task i).finished).map fun i => (taskKey (x.desc i) n i, n, i)
    else []
  (l.mergeSort fun a b => a.1 ≤ b.1).map (·.2)

/-- Pending segments of a task: those from its next one on. -/
def State.pendingSegs (s : State) (n i : Nat) : List Nat :=
  let d := (s.slot n).desc i
  if !TD.onPanels d then [] else
  let k := ((s.slot n).task i).next
  (List.range (TD.segments d - k)).map (k + ·)

/-- Pages that the windows of a segment cover. -/
def State.segPages (s : State) (n i sg : Nat) : List Nat := (s.buildSeg n i sg).pages

/-- The position of a page's next use over the horizon of 4,096 tasks of its context; none: an infinite next use (R305). -/
def State.nextUse (s : State) (c page : Nat) : Option Nat :=
  (((s.taskOrder (some c)).take 4096).flatMap fun (n, i) => (s.pendingSegs n i).map fun sg => (n, i, sg)).findIdx? fun (n, i, sg) =>
    (s.segPages n i sg).contains page

/-! ### Eviction (R306, R307) -/

/-- Pages that a writeback still to come, a recall, a MOVE or a held BAR2 access touches (log 66). -/
def State.pinned (s : State) (p : Nat) : Bool :=
  s.panels.toList.any (fun q => q.segs.any fun g => (g.refs.filter (·.out)).any fun r => r.pages.contains p)
  || s.host.held.any (fun h => match tget 0 s.host.apt (h.fn * 2 ^ 20 + h.ofs / 2 ^ 21) with
      | e => (s.tensor h.fn (BV.fld e 0 32)).any fun t => pageOf (memKey h.fn (t.base + BV.fld e 32 24 * 2 ^ 21)) = p)
  || s.pager.far.any (fun f => f.num = p && f.recalling)
  || (s.taskOrder (some (p / 2 ^ 19))).any fun (n, i) => TD.typ ((s.slot n).desc i) = 4 && ((s.slot n).task i).dispatched
      && (s.pageTensor p).any fun t => [0, 1].any fun r => TD.tref ((s.slot n).desc i) r = t.tid

/-- Does a page leave before another: farther next use, then less recent use, then lower tensor, then lower page (R306)? -/
def evictBefore (a b : Option Nat × Nat × Nat × Nat) : Bool :=
  match a.1, b.1 with
  | none, some _ => true
  | some _, none => false
  | x, y =>
    let (u, v) := (x.getD 0, y.getD 0)
    if u ≠ v then decide (v < u) else
    if a.2.1 ≠ b.2.1 then decide (a.2.1 < b.2.1) else
    if a.2.2.1 ≠ b.2.2.1 then decide (a.2.2.1 < b.2.2.1) else decide (a.2.2.2 < b.2.2.2)

/-- The page to evict of a context (R306). -/
def State.victim (s : State) (c : Nat) : Option Nat :=
  let l := (s.residentPages c).filterMap fun p => match s.pageTensor p with
    | some t => if t.spill && !(s.pinned p) then some (s.nextUse c p, tget 0 s.pager.lru p, t.tid, p) else none
    | none => none
  (l.foldl (fun b x => match b with
    | none => some x
    | some y => if evictBefore x y then some x else some y) none).map (·.2.2.2)

/-- The listed bytes of a page, with their offsets: its contents. -/
def State.pageCells (s : State) (p : Nat) : Tbl Byte :=
  (tkeep (fun k => decide (pageOf k = p)) s.mem).map fun x => (x.1 % 2 ^ 21, x.2)
/-- The 2 MiB of a page. -/
def State.pageBytes (s : State) (p : Nat) : List Byte := rdBs s.mem (p * 2 ^ 21) (2 ^ 21)

/-- Page data as format 0x6 packets on TC5 (R324, R307): `LS_REDID` tells an eviction (0), a request (1) and its answer (2),
`LS_CHUNK` is the page number, and the last packet carries the checksum (log 19). -/
def State.pageMsgs (s : State) (kind page : Nat) (parts : List (Nat × List Byte)) (sum : BitVec 64) : List Msg :=
  (parts.flatMap fun (o, b) => (cutBytes s.fab.largest.toNat (b.length + 1) o b).map fun (o, b) =>
    ({ tc := 5, pfmt := 6, redid := kind, chunk := page, offset := o, payload := b } : Msg))
  ++ [{ tc := 5, pfmt := 6, redid := kind, chunk := page, last := true, payload := toLE 8 sum.toNat }]

/-- A far entry replaced. -/
def State.setFar (s : State) (f : FarPage) : State :=
  { s with pager := { s.pager with far := s.pager.far.map fun g => if g.num = f.num then f else g } }
/-- Pages a context holds far, at a lender or in the host region. -/
def State.farPages (s : State) (c : Nat) : List FarPage := s.pager.far.filter fun f => f.ctx = c && !f.resident

/-- One page leaves for a lender, or for the host region where none has room (R306, R307); an unchanged page whose copy is
good is dropped without transfer. -/
def State.evict (s : State) (c p : Nat) (lender : Option Nat) : State :=
  let cells := s.pageCells p
  let gone (s : State) : State := { s with pager := { s.pager with frames := tset 0 s.pager.frames p 0 } }
  match s.pager.far.find? (fun f => f.num = p && f.resident && decide (f.data = cells)) with
  | some f => gone (s.setFar { f with resident := false })
  | none =>
    let bytes := s.pageBytes p
    let f : FarPage := { ctx := c, tid := ((s.pageTensor p).map (·.tid)).getD 0, page := p % 2 ^ 19, lender := lender
                         sum := Config.pageSum bytes, data := cells }
    let s := gone { s with pager := { s.pager with far := s.pager.far.filter (fun g => g.num ≠ p) ++ [f] } }
    match lender with
    | some r => s.lsSendAll c r (s.pageMsgs 0 (p % 2 ^ 19) [(0, bytes)] f.sum)
    | none => s.emit (.spill c f.tid f.page bytes)

/-- PAGE_EVICT (R306, R307): a LIVE context with fewer than four pages left of its quota gives up a page. `lender` is the first
rank of its lender list with room; none names the host region. -/
def execPageEvict (ctx : Nat) (lender : Option Nat) (s : State) : Host.Outcome State Fault Refusal :=
  let x := s.ctx ctx
  let hostUsed := ((s.farPages ctx).filter fun f => f.lender.isNone).length
  let room := match lender with
    | some r => x.cfg.lenders.contains r
    | none => decide (hostUsed < x.cfg.hostPages.toNat)
  .next (if x.st ≠ .live ∨ x.cfg.hbmQ.toNat ≥ (s.residentPages ctx).length + 4 ∨ x.cfg.spillQ.toNat ≤ (s.farPages ctx).length ∨ !room then s else
    match s.victim ctx with
    | none => s
    | some p => s.evict ctx p lender)

/-! ### Recall and loss (R305, R307, R308) -/

/-- A far page returns with its bytes, or poisoned where its checksum differs. -/
def State.landPage (s : State) (f : FarPage) (bytes : List Byte) (sum : BitVec 64) : State :=
  let s := s.framePage f.num
  if sum = f.sum ∧ Config.pageSum bytes = f.sum then
    { s.setFar { f with resident := true, recalling := false, parts := [] } with mem := wrBs s.mem (f.num * 2 ^ 21) bytes }
  else
    let s := { s with pager := { s.pager with far := s.pager.far.filter (fun g => g.num ≠ f.num) } }
    (s.poisonRange (f.num * 2 ^ 21) (2 ^ 21)).log { code := 0x0304, sev := 3, ctx := f.ctx, data := f.tid + f.page * 2 ^ 32 }

/-- PAGE_RECALL (R305, R307): the far page of a context with the nearest next use comes back, once a frame is free for it. The
host region answers at once; whether its copy is intact is free (log 20). -/
def execPageRecall (ctx : Nat) (s : State) : Host.Outcome State Fault Refusal :=
  let x := s.ctx ctx
  let l := (s.farPages ctx).filterMap fun f => if f.recalling then none else (s.nextUse ctx f.num).map fun k => (k, f)
  .next (if x.st ≠ .live ∨ x.cfg.hbmQ.toNat ≤ (s.residentPages ctx).length then s else
    match l.foldl (fun (b : Option (Nat × FarPage)) y => match b with
        | none => some y
        | some z => if y.1 < z.1 then some y else some z) none with
    | none => s
    | some (_, f) =>
      match f.lender with
      | some r => (s.setFar { f with recalling := true }).lsSend ctx r { tc := 5, pfmt := 6, redid := 1, chunk := f.page }
      | none =>
        let (k, s) := s.draw
        s.landPage f (s.pageBytes f.num) (if k % 2 = 0 then f.sum else BitVec.ofNat 64 (k / 2)))

/-- HOST_SPILL_REGION_UNREACHABLE (R308). -/
def execHostSpillRegionUnreachable (ctx : Nat) (s : State) : Host.Outcome State Fault Refusal := .next (s.loseFar ctx none)

/-! ### Errors and retirement (R309, R130) -/

/-- A frame retired: its contents move to a spare frame; once those are used up the retirement is a wear event (R309). -/
def State.retire (s : State) (p : Nat) : State :=
  let spent := decide (Config.moduleConst 4 ≤ s.pager.sparesUsed)
  let s := { s with pager := { s.pager with retired := s.pager.retired ++ [p], corrected := tset 0 s.pager.corrected p 0
                                            sparesUsed := if spent then s.pager.sparesUsed else s.pager.sparesUsed + 1 }
                    wer := if spent then { s.wer with events := bump s.wer.events } else s.wer }
  let k := (s.frameOf p).getD 0
  s.log { code := 0x0303, sev := 2, ctx := p / 2 ^ 19 % 16, unit := 4, num := k, phys := k, data := p }

/-- An uncorrectable error in a 64-byte block: poisoned, logged, its frame retired. -/
def State.badBlock (s : State) (b : Nat) : State :=
  let c := b * 64 / 2 ^ 40 % 16
  let k := (s.frameOf (pageOf (b * 64))).getD 0
  (((s.poisonRange (b * 64) 64).err 8 c 1).log { code := 0x0302, sev := 3, ctx := c, unit := 4, num := k, phys := k, data := b * 64 % 2 ^ 40 }).retire (pageOf (b * 64))

/-- An entry with a parity error. -/
def hitEnt (l : List Ent) (k : Nat) : List Ent := l.mapIdx fun i x => if i = k then { x with ecc := true } else x

/-- A parity error in an entry of queue q (R130). -/
def Engine.hitQueue (n : Engine) (q k : Nat) : Engine :=
  match q with
  | 0 => { n with qa := hitEnt n.qa k } | 1 => { n with qb := hitEnt n.qb k } | 2 => { n with qp := hitEnt n.qp k } | 3 => { n with qd := hitEnt n.qd k }
  | 4 => { n with qe := hitEnt n.qe k } | 5 => { n with qf := hitEnt n.qf k } | 6 => { n with qn := hitEnt n.qn k }
  | _ => { n with qx := n.qx.mapIdx fun i x => if i = k then { x with ecc := true } else x }

/-- A parity error in a store of a half of the B buffer. -/
def Engine.hitHalf (n : Engine) (h k : Nat) : Engine :=
  if h = 0 then { n with half0 := { n.half0 with ecc := some k } } else { n with half1 := { n.half1 with ecc := some k } }

/-- An engine of a panel changed. -/
def State.onEng (s : State) (p e : Nat) (f : Engine → Engine) : State :=
  if 16 ≤ e then s else let q := s.panel p; s.setPanel p (q.setEng e (f (q.eng e)))

/-- UNCORRECTABLE_ERROR (R309, R130): a block of HBM or of Tidepool is poisoned; an error inside a panel stays where it is until an operation
reads the data, which is then a fault of the ECC kind, or until the data is written anew. -/
def execUncorrectableError (loc : MemLoc) (s : State) : Host.Outcome State Fault Refusal :=
  .next (match loc with
    | .hbm c a => if 16 ≤ c ∨ 2 ^ 40 ≤ a then s else s.badBlock (memKey c a / 64)
    | .sram p l w =>
      let q := s.panel p
      let o := tget ({} : Line) q.sram l
      s.setPanel p { q with sram := tset {} q.sram l { o with ecc := o.ecc ||| BitVec.ofNat 16 (2 ^ w) } }
    | .skein p e r k => s.onEng p e fun n => { n with badSk := sins n.badSk (r % 64 * 128 + k % 128) }
    | .queue p e q k => s.onEng p e fun n => n.hitQueue q k
    | .bHalf p e h k => s.onEng p e fun n => n.hitHalf h k
    | .anchor p e r g => s.onEng p e fun n => { n with badAnc := sins n.badAnc (r % 64 * 4 + g % 4) }
    | .tidepool c rid ch pc =>
      match s.red c rid with
      | none => s
      | some r =>
        let (k, s) := s.draw
        let (a, n) := r.span pc ch
        let blk := (ch * r.chunkN + a) / 32 + k % max 1 (cdiv n 32)
        let r := { r with pieces := r.pieces.map fun q => if q.chunk = ch ∧ q.idx = pc then { q with poison := sins q.poison blk } else q }
        (s.setRed r).log { code := 0x0302, sev := 3, ctx := c, unit := 8, num := (ch + pc) % 2, phys := (ch + pc) % 2, data := rid + ch * 2 ^ 20 + pc * 2 ^ 40 })

/-- PATROL_SCRUB (R309): corrected errors by page, and blocks found uncorrectable. -/
def execPatrolScrub (corrected : List (Nat × Nat)) (bad : List Nat) (s : State) : Host.Outcome State Fault Refusal :=
  let s := bad.foldl (fun s b => if 16 * 2 ^ 34 ≤ b then s else s.badBlock b) s
  .next (corrected.foldl (fun s (p, n) =>
    let s := if n = 0 then s else s.err 8 (p / 2 ^ 19 % 16) 0
    let k := tget 0 s.pager.corrected p + n
    if s.pager.threshold.toNat < k then
      let n := (s.frameOf p).getD 0
      (s.log { code := 0x0301, sev := 2, ctx := p / 2 ^ 19 % 16, unit := 4, num := n, phys := n, data := p + k * 2 ^ 32 }).retire p
    else { s with pager := { s.pager with corrected := tset 0 s.pager.corrected p k } }) s)

end Sys2Proof.Machine
end

