-- ==== Sys2Proof/Machine/Rx.lean ====
section
/-! DEFINITION. Arriving data and chunk signals, anchor agreement, transfers, pages and twin deltas (spec/12 R325 to R327, spec/13
R346 to R365, spec/14 R382 to R384, spec/11 R307, spec/15 R415, R416, spec/03 R91 to R93). -/
namespace Sys2Proof.Machine

/-! ### Checks on arrival -/

/-- A ledger that differs (R382): the first discards the packet, a second on the same sequence number marks its chunk corrupt. -/
def State.badLedger (s : State) (h : BitVec 512) (corrupt : State → State) : State × Bool :=
  let x := s.stream (LS.ctx h) (LS.src h) (LS.tc h)
  let q := LS.seq h
  let s := s.drop 8
  if x.badSeq.contains q then (corrupt s, false) else (s.setStream { x with badSeq := x.badSeq ++ [q] }, false)

/-- Epoch of a packet against the current one (R364): older ones are discarded, the current one is taken, later ones wait. -/
def epochAge (cur e : Nat) : Nat := (cur % 16 + 16 - e % 16) % 16

/-- A packet of a reduction: taken in the current epoch, discarded when older, left when the reduction is not open or is behind. -/
def State.inRed (s : State) (h : BitVec 512) (f : Red → State × Bool) : State × Bool :=
  match s.red (LS.ctx h) (LS.redid h) with
  | none => (s, false)
  | some r =>
    if (s.slot r.slot).st ≠ .running then (s, false) else
    let a := epochAge r.epoch (LS.epoch h)
    if a = 0 then f r else if a ≤ 8 then (s, true) else (s, false)

/-! ### Contributions (R349, R355, R360, R382) -/

/-- Accumulator words of a packet with their index in the chunk, or none for a malformed payload (R359, R360, R194). -/
def contribWords (p : Packet) : Option (List (Nat × SkeinW)) :=
  let o := LS.offset p.hdr
  if LS.pfmt p.hdr = 5 then
    if p.payload.length % 32 ≠ 0 then none else
    some ((List.range (p.payload.length / 32)).map fun k => (o / 32 + k, BitVec.ofNat _ (ofLE ((p.payload.drop (32 * k)).take 32))))
  else
    (unpackBlocks (if LS.pfmt p.hdr = 3 then 128 else 96) (p.payload.length + 1) p.payload).map fun bs =>
      ((List.range bs.length).zip bs).flatMap fun (k, b) => ((List.range 32).zip b).map fun (j, w) => (o / 16 + 32 * k + j, w.toW)

/-- Contributions added into a piece; those to rows the home's mask excludes are dropped and counted, padding is skipped. -/
def State.addWords (s : State) (r : Red) (q : Piece) (l : List (Nat × SkeinW)) : State × Piece :=
  let out := s.redOut r
  let m := s.redCmp r
  l.foldl (fun (sq : State × Piece) x =>
    let (s, q) := sq
    let i := q.chunk * r.chunkN + x.1
    if r.padding out i then (s, q)
    else if q.stage + 1 = r.stages ∧ !s.redKeeps r (r.rowOf out i) then
      let part := (q.chunk + q.idx) % 2
      let t := (s.tdp[part]?).getD {}
      ({ s with tdp := s.tdp.setIfInBounds part { t with maskdrop := bump t.maskdrop } }, q)
    else (s, { q with acc := accAdd m q.acc x.1 x.2 })) (s, q)

/-- A contribution packet at the member that gathers its piece. -/
def State.contribRx (s : State) (p : Packet) : State × Bool :=
  let h := p.hdr
  s.inRed h fun r =>
    let ch := LS.chunk h
    if r.done.contains ch then (s, true) else
    let words := contribWords p
    let i0 := LS.offset h / (if LS.pfmt h = 5 then 32 else 16)
    match memberOf r.ranks (LS.src h) with
    | none => (s, true)
    | some m =>
      match r.piece ch (i0 / r.pieceN) (grpStageOf r.grp m r.self) with
      | none => (s, false)
      | some q =>
        if !q.claimed ∨ q.drained then (s, false) else
        let count (q : Piece) (led : Nat) : Piece := { q with got := tset 0 q.got m (tget 0 q.got m + 1), led := tset 0 q.led m ((tget 0 q.led m + led) % ledM) }
        let blk (i : Nat) : Nat := (ch * r.chunkN + i) / 32
        match words with
        | none =>
          let (a, n) := r.span q.idx ch
          let bad := (List.range (blk (a + n - 1) + 1 - blk i0)).map fun k => blk i0 + k
          let s := { s with fab := { s.fab with poisonedPay := bump s.fab.poisonedPay } }
          (s.setRed (r.setPiece { count q (LS.ledger h) with poison := bad.foldl sins q.poison }), true)
        | some l =>
          let led := if LS.pfmt h = 5 then 0 else s.redLedger r (l.map fun x => (ch * r.chunkN + x.1, x.2))
          if led ≠ LS.ledger h then s.badLedger h fun s => s.corruptChunk r ch else
          let (s, q) := s.addWords r (count q led) l
          let q := if LS.poison h then { q with poison := l.foldl (fun t x => sins t (blk x.1)) q.poison } else q
          (s.setRed (r.setPiece q), true)

/-! ### Chunks and windows as bytes (R351, R365) -/

/-- Bytes at an offset of a byte stream made of a tensor's blocks, written into the blocks they touch; tags and shadows of the rows are
rewritten (R52, R206), poison marks follow the bytes written (R302, R493). -/
def State.putStream (s : State) (t : TRec) (blocks : List (Nat × Nat)) (keep : Nat × Nat) (o : Nat) (b : List Byte) (bad : Bool) : State :=
  let len := t.blockLen
  if len = 0 ∨ b.isEmpty then s else
  (List.range ((o + b.length - 1) / len + 1 - o / len)).foldl (fun s k =>
    match blocks[o / len + k]? with
    | none => s
    | some (row, blk) =>
      let at0 := (o / len + k) * len
      let cur := t.blockBytes s.mem t.base row blk
      let lo := (keep.1 - 32 * blk) * t.width / 8
      let hi := min (4 * t.width) (cdiv ((keep.2 - 32 * blk) * t.width) 8)
      let new := (List.range len).map fun i =>
        if (i < 4 * t.width ∧ (i < lo ∨ hi ≤ i)) ∨ at0 + i < o ∨ o + b.length ≤ at0 + i then nth 0 cur i else nth 0 b (at0 + i - o)
      let m := t.reshadow (t.retag (t.putBlock s.mem t.base row blk new) t.base row (32 * blk) 32) t.base row
      let a := max lo (o - at0)
      let n := min hi (o + b.length - at0) - a
      let key := t.key t.base + row * t.pitch + blk * 4 * t.width + a
      let s := ({ s with mem := m }.mark key n bad).attachRow t t.base row
      if bad then s.poisonRange key n else s) s

/-- Does an arrival of gradient data feed the overflow flag (R236): a NaN or an infinity among the elements of blocks of a gradient? -/
def State.arriveOvf (s : State) (n : Nat) (t : TRec) (blocks : List (Nat × Nat)) : State :=
  s.gradOvf n t { special := t.grad && blocks.any fun (row, b) => (List.range (min 32 (t.e0 - 32 * b))).any fun j => !(t.val s.mem t.base row (32 * b + j)).isFin }

/-- The reduction or gather whose chunk arrives as bytes, and the chunk: a GATHER task's is named by its flag (log 68). -/
def State.gatherRed (s : State) (c rid ch : Nat) : Option (Red × Nat) :=
  if rid = 0 then (s.fab.reds.find? fun r => r.ctx = c && r.isGather && (s.slot r.slot).st = .running
      && decide (s.chunkFlag r 0 ≤ ch ∧ ch < s.chunkFlag r 0 + r.chunks)).map fun r => (r, ch - s.chunkFlag r 0)
  else (s.fab.reds.find? fun r => r.ctx = c && r.redid = rid && !r.isGather && CB.gather (TD.spec ((s.slot r.slot).desc r.task) <<< 768)).map fun r => (r, ch)

/-- A part of a gathered chunk (R351, R384). A whole one goes on to the members that gather it from here (R353). -/
def State.gatherRx (s : State) (p : Packet) : State × Bool :=
  let h := p.hdr
  match s.gatherRed (LS.ctx h) (LS.redid h) (LS.chunk h) with
  | none => (s, false)
  | some (r, ch) =>
    if (s.slot r.slot).st ≠ .running then (s, false) else
    if r.done.contains ch ∨ r.chunks ≤ ch then (s, true) else
    let t := s.redOut r
    let o := LS.offset h
    let led := ledger (s.ctx r.ctx).cfg.seed.toNat (s.slot r.slot).step.toNat t.tid (bytes8 (o / 8) p.payload)
    if led ≠ LS.ledger h then s.badLedger h fun s => s.corruptChunk r ch else
    let blocks := r.blocksOf t ch
    let s := s.putStream t blocks (0, t.e0) o p.payload (LS.poison h)
    let n := tget 0 r.arrived ch + p.payload.length
    let whole := decide (blocks.length * t.blockLen ≤ n)
    let r := { r with arrived := tset 0 r.arrived ch n, done := if whole then r.done ++ [ch] else r.done }
    let s := s.setRed r
    (if whole then ((s.arriveOvf r.slot t blocks).raiseFlag r.ctx (s.chunkFlag r ch)).sendChunk r ch else s, true)

/-- Blocks of a P2P window in order, and its columns (log 14). -/
def State.p2pBlocks (s : State) (n i : Nat) : Option (TRec × List (Nat × Nat) × (Nat × Nat)) :=
  let x := s.slot n
  match (s.taskEnv n i).r 0 with
  | none => none
  | some t =>
    let (st, ct) := winSeg t (x.graph.winRec (x.desc i) 0) 0
    let c0 := nth 0 st 0
    let c1 := c0 + nth 0 ct 0
    let rows := (moveRows (st, ct)).map fun (a, b, c) => t.rowOf (nth 0 st 1 + a) (nth 0 st 2 + b) (nth 0 st 3 + c)
    some (t, if c1 = c0 then [] else rows.flatMap fun r => (List.range ((c1 - 1) / 32 + 1 - c0 / 32)).map fun k => (r, c0 / 32 + k), (c0, c1))

/-- A P2P record replaced. -/
def State.setP2P (s : State) (x : P2P) : State :=
  { s with fab := { s.fab with p2p := s.fab.p2p.map fun y => if y.slot = x.slot ∧ y.task = x.task ∧ y.peer = x.peer ∧ y.tag = x.tag ∧ y.recv = x.recv then x else y } }

/-- A Selvedge-64 block that a window covers in part, written by the values its whole stream bytes carry (R37). -/
def State.putPart (s : State) (t : TRec) (row blk : Nat) (cols : Nat × Nat) (l : List Byte) (bad : Bool) : State :=
  let n1 := 4 * t.width
  let hd := ofLE ((l.drop n1).take 8)
  let lo := max cols.1 (32 * blk)
  let hi := min (min cols.2 t.e0) (32 * blk + 32)
  let xs := (List.range (hi - lo)).map fun j => (selvVal (selvE hd) (ofLE ((l.drop ((lo + j - 32 * blk) * 8)).take 8))).toEx
  (s.writeRun t t.base row lo {} xs bad).1

/-- Bytes of a point-to-point window (R365): blocks it covers whole, and those of formats without a block header, are stored as they
come; of a Selvedge-64 block it covers in part the bytes are kept until the block is whole. -/
def State.putWindow (s : State) (x : P2P) (t : TRec) (blocks : List (Nat × Nat)) (cols : Nat × Nat) (o : Nat) (b : List Byte) (bad : Bool) : State × P2P :=
  let len := t.blockLen
  let part (k : Nat) : Bool := t.selv && (match blocks[k]? with
    | some (_, blk) => decide (32 * blk < cols.1 ∨ cols.2 < min t.e0 (32 * blk + 32))
    | none => false)
  let x := if (List.range blocks.length).any part then { x with buf := wrBs x.buf o b } else x
  (List.range ((o + b.length - 1) / len + 1 - o / len)).foldl (fun (p : State × P2P) i =>
    let (s, x) := p
    let k := o / len + i
    let lo := max o (k * len)
    let hi := min (o + b.length) ((k + 1) * len)
    match blocks[k]? with
    | none => p
    | some (row, blk) =>
      if !part k then (s.putStream t blocks cols lo ((b.drop (lo - o)).take (hi - lo)) bad, x)
      else if (k + 1) * len ≤ hi then (s.putPart t row blk cols (rdBs x.buf (k * len) len) bad, x)
      else (s, x)) (s, x)

/-- A part of a point-to-point window (R365, R384). -/
def State.p2pRx (s : State) (p : Packet) : State × Bool :=
  let h := p.hdr
  match s.fab.p2p.find? fun x => x.ctx = LS.ctx h ∧ x.peer = LS.src h ∧ x.tag = LS.chunk h ∧ x.recv with
  | none => (s, false)
  | some x =>
    match s.p2pBlocks x.slot x.task with
    | none => (s, true)
    | some (t, blocks, cols) =>
      let o := LS.offset h
      let led := ledger (s.ctx x.ctx).cfg.seed.toNat (s.slot x.slot).step.toNat t.tid (bytes8 (o / 8) p.payload)
      if led ≠ LS.ledger h then s.badLedger h fun s => s.failAttempt x.slot true else
      let (s, x) := s.putWindow x t blocks cols o p.payload (LS.poison h)
      (s.setP2P { x with packets := x.packets + 1, bytes := x.bytes + p.payload.length }, true)

/-- The granted sender's window leaves, then its count (R365). -/
def State.p2pSend (s : State) (x : P2P) : State :=
  match s.p2pBlocks x.slot x.task with
  | none => s.setP2P { x with granted := true, sentAll := true }
  | some (t, blocks, _) =>
    let ms := s.blockMsgs x.ctx (s.slot x.slot).step.toNat t 3 0 x.tag blocks
    let s := s.lsSendAll x.ctx x.peer (ms ++ [signalMsg 3 0 x.tag 0 ms.length 0])
    s.setP2P { x with granted := true, sentAll := true }

/-- LS_DATA_RX (R327, R382): contributions, gathered chunks and transfers, on TC2 and TC3. -/
def execLsDataRx (frame : Frame) (s : State) : Host.Outcome State Fault Refusal :=
  let h := frame.pkt.hdr
  .next (if LS.typ h ≠ 1 ∨ (LS.tc h ≠ 2 ∧ LS.tc h ≠ 3) then s else
    s.acceptIf frame fun s p =>
      if LS.tc p.hdr = 3 then s.p2pRx p else if LS.pfmt p.hdr = 1 then s.gatherRx p else s.contribRx p)

/-! ### Chunk signals (R363) -/

/-- The piece of a chunk signal. -/
def sigPiece (p : Packet) : Nat := ofLE ((p.payload.drop 2).take 2)
/-- The count of a chunk signal. -/
def sigCount (p : Packet) : Nat := ofLE ((p.payload.drop 4).take 4)
/-- The digest of a chunk signal. -/
def sigDigest (p : Packet) : Nat := ofLE ((p.payload.drop 8).take 8)

/-- A chunk signal of a kind accepted; another packet is no such command. -/
def State.signal (s : State) (f : Frame) (kind : Nat) (handle : State → Packet → State × Bool) : State :=
  if sigKind f.pkt = some kind then s.acceptIf f handle else s

/-- RAISE (R363, R284). -/
def execRaise (frame : Frame) (s : State) : Host.Outcome State Fault Refusal :=
  .next (s.signal frame 1 fun s p => (s.raiseFlag (LS.ctx p.hdr) (LS.chunk p.hdr), true))

/-- CLIMB (R92): the block climbs in this epoch, once; the epoch's end clears and repeats the incomplete chunks. -/
def execClimb (frame : Frame) (s : State) : Host.Outcome State Fault Refusal :=
  .next (s.signal frame 2 fun s p => s.inRed p.hdr fun r =>
    (s.setRed (r.climb (LS.chunk p.hdr * r.chunkN / 32 + sigCount p)), true))

/-- SHARE_END (R349, R365): recorded with its count, digest and ledger; a differing digest is counted and logged. Of a transfer
it tells how many packets were sent. -/
def execShareEnd (frame : Frame) (s : State) : Host.Outcome State Fault Refusal :=
  .next (s.signal frame 3 fun s p =>
    let h := p.hdr
    if LS.redid h = 0 then
      match s.fab.p2p.find? fun x => x.ctx = LS.ctx h ∧ x.peer = LS.src h ∧ x.tag = LS.chunk h ∧ x.recv with
      | none => (s, false)
      | some x => (s.setP2P { x with total := some (sigCount p) }, true)
    else s.inRed h fun r =>
      let ch := LS.chunk h
      if r.done.contains ch then (s, true) else
      match memberOf r.ranks (LS.src h) with
      | none => (s, true)
      | some m =>
        match r.piece ch (sigPiece p) (grpStageOf r.grp m r.self) with
        | none => (s, false)
        | some q =>
          let e : ShEnd := { member := m, count := sigCount p, digest := sigDigest p, ledger := LS.ledger h }
          (s.takeEnd r q e, true))

/-- A receiver's GRANT kept until the task that sends under it is dispatched (R365). -/
def State.earlyGrant (s : State) (c r tag : Nat) : State :=
  { s with fab := { s.fab with p2p := s.fab.p2p ++ [{ ctx := c, slot := 64, task := 0, peer := r, tag := tag, recv := false, granted := true }] } }

/-- GRANT (R346, R365): a chunk's anchor GRANT, a piece GRANT that lets its partials leave, or a receiver's GRANT of a transfer,
kept until the sending task is dispatched. -/
def execGrant (frame : Frame) (s : State) : Host.Outcome State Fault Refusal :=
  .next (s.signal frame 4 fun s p =>
    let h := p.hdr
    let c := LS.ctx h
    if LS.redid h = 0 then
      match s.fab.p2p.find? fun x => x.ctx = c ∧ x.peer = LS.src h ∧ x.tag = LS.chunk h ∧ !x.recv with
      | some x => (if x.granted then s.earlyGrant c (LS.src h) (LS.chunk h) else s.p2pSend x, true)
      | none => (s.earlyGrant c (LS.src h) (LS.chunk h), true)
    else s.inRed h fun r =>
      let ch := LS.chunk h
      if sigPiece p = 0xFFFF then (s.setRed { r with grantA := sins r.grantA ch }, true)
      else
        let (s, r) := s.flushPiece { r with grantP := sins r.grantP (pkey ch (sigPiece p)) } (r.enter ch) ch (sigPiece p)
        (s.setRed r, true))

/-! ### Anchor and sounding agreement (R211, R362) -/

/-- A reduction's reports and agreed words on TC4. -/
def agreePkt (p : Packet) : Bool := LS.typ p.hdr = 1 && LS.tc p.hdr = 4 && LS.pfmt p.hdr = 4
/-- 16-bit words of a payload. -/
def words16 (l : List Byte) : List Nat := (List.range (l.length / 2)).map fun k => ofLE ((l.drop (2 * k)).take 2)
/-- 64-bit sounding words of a payload. -/
def words64 (l : List Byte) : List Int := (List.range (l.length / 8)).map fun k => sext (ofLE ((l.drop (8 * k)).take 8)) 64

/-- ANCHOR_REPORT (R362, R211, R353): a member takes the maximum of the anchor reports, or of the sounding reports (`F_LAST`, log 18), that
come to it; the home answers with the agreed words once every report is whole. -/
def execAnchorReport (frame : Frame) (s : State) : Host.Outcome State Fault Refusal :=
  .next (if !agreePkt frame.pkt then s else s.acceptIf frame fun s p =>
    let h := p.hdr
    s.inRed h fun r =>
      let ch := LS.chunk h
      match memberOf r.ranks (LS.src h) with
      | none => (s, true)
      | some m =>
        if !(r.down ch).contains m then (s, true) else
        let sound := LS.last h
        let key := ((if sound then 2 else 1) * 2 ^ 20 + m) * 2 ^ 20 + ch
        let k0 := LS.offset h / (if sound then 8 else 2)
        let n := if sound then p.payload.length / 8 else p.payload.length / 2
        let got := tget 0 r.arrived key + n
        let r := { r with arrived := tset 0 r.arrived key got }
        if sound then
          let rows := r.attnRows ch
          (s.takeSound r m ch (((List.range n).zip (words64 p.payload)).filterMap fun (k, v) => (rows[k0 + k]?).map fun b => (b, v)) (decide (rows.length ≤ got)), true)
        else
          let blks := r.chunkBlocks ch
          let l := ((List.range n).zip (words16 p.payload)).filterMap fun (k, v) => (blks[k0 + k]?).map fun b => (b, if v = 0x8000 then none else some (sext v 16))
          (s.takeReport r m ch l (decide (blks.length ≤ got)), true))

/-- AGREED_ANCHOR (R362, R353): a member takes the agreed anchors, or the agreed bounds, of a chunk from the member it reports to, and passes
them on to those that report to it. -/
def execAgreedAnchor (frame : Frame) (s : State) : Host.Outcome State Fault Refusal :=
  .next (if !agreePkt frame.pkt then s else s.acceptIf frame fun s p =>
    let h := p.hdr
    s.inRed h fun r =>
      let ch := LS.chunk h
      if r.home ch = r.self ∨ memberOf r.ranks (LS.src h) ≠ some (r.up ch) then (s, true) else
      let s := s.toDown r ch [{ tc := 4, pfmt := 4, redid := r.redid, chunk := ch, offset := LS.offset h, epoch := r.epoch, last := LS.last h, payload := p.payload }]
      if LS.last h then
        let rows := r.attnRows ch
        let l := ((List.range (p.payload.length / 8)).zip (words64 p.payload)).filterMap fun (k, v) => (rows[LS.offset h / 8 + k]?).map fun b => (b, v)
        (s.setRed { r with mhat := r.mhat.filter (fun x => !(l.any fun y => y.1 = x.1)) ++ l }, true)
      else
        let blks := r.chunkBlocks ch
        let l := ((List.range (p.payload.length / 2)).zip (words16 p.payload)).filterMap fun (k, v) => (blks[LS.offset h / 2 + k]?).map fun b => (b, sext v 16)
        (s.setRed { r with agreed := r.agreed.filter (fun x => !(l.any fun y => y.1 = x.1)) ++ l }, true))

/-- Do the tags of a contributor's operands exist (R83): is the task ready, or has it begun? -/
def State.tagsExist (s : State) (r : Red) : Bool :=
  let x := s.slot r.slot
  (List.range x.tasks.length).all fun j =>
    !(TD.typ (x.desc j) ≤ 1 && TD.redid (x.desc j) = r.redid) || (x.task j).finished || decide (0 < (x.task j).next) || s.ready r.slot j

/-- ANCHOR_AGREEMENT_START (R83, R362, R211): a member reports a granted chunk once. -/
def execAnchorAgreementStart (ctx redid chunk : Nat) (s : State) : Host.Outcome State Fault Refusal :=
  .next (match s.red ctx redid with
    | none => s
    | some r =>
      if !(r.grantA.contains chunk) ∨ r.repSent.contains chunk ∨ r.chunks ≤ chunk ∨ !s.tagsExist r then s else
      let s := s.setRed { r with repSent := sins r.repSent chunk }
      (s.sendReports ctx redid chunk State.attnRep).sendSound ctx redid chunk)

/-- SHARE_END_SEND (R348). -/
def execShareEndSend (ctx redid chunk piece : Nat) (s : State) : Host.Outcome State Fault Refusal :=
  .next (s.sendEnd ctx redid chunk piece)

/-- PIECE_DRAIN (R350, R383). -/
def execPieceDrain (ctx redid chunk piece : Nat) (s : State) : Host.Outcome State Fault Refusal :=
  .next (s.pieceOut ctx redid chunk piece State.attnDrain)

/-! ### The end of an epoch (R91 to R93) -/

/-- The anchor in force of a block of a task whose reduction no REDUCE task gathers: of dV, or of a product or sum. -/
def State.ownAnchor (s : State) (n i : Nat) (out : TRec) (el : Nat) : Int :=
  let e := s.taskEnv n i
  if TD.typ e.d = 1 then
    match e.r 0, e.r 1, e.r 4 with
    | some q, some k, some dO =>
      let row := el / out.e0
      (s.dvAnc { slot := n, task := i, cls := TD.cls e.d } e q k dO out none (out.rowIdx row 1) (out.rowIdx row 2) (el % out.e0)).T
    | _, _, _ => 0
  else match s.anchorFor n i out el with
    | some a => a.T
    | none => 0

/-- A climb logged with its tensor, block and new anchor (R93). -/
def State.logClimb (s : State) (c tid blk : Nat) (t : Int) : State :=
  s.log { code := 0x0102, sev := 1, ctx := c, data := tid + blk * 2 ^ 32 + toTwos 16 t * 2 ^ 72 }

/-- A task of a reduction that repeats runs again from its first segment (R91). -/
def TaskSt.again (t : TaskSt) (ups : List Nat) : TaskSt :=
  { t with climbs := [], rises := ups.foldl (fun l b => tset 0 l b (tget 0 l b + 1)) t.rises, epoch := t.epoch + 1, next := 0, segdone := 0
           running := [], wb := 0, finished := false, status := 0, ends := none }

/-- EPOCH_END (R91, R92): a REDUCE task's reduction whose contributors have all drained, or one that no REDUCE task gathers and the segments
of whose tasks have all ended, repeats as a whole with the climbing blocks raised by 16. -/
def execEpochEnd (slot task : Nat) (s : State) : Host.Outcome State Fault Refusal :=
  let x := s.slot slot
  let d := x.desc task
  .next (if x.st ≠ .running ∨ x.tasks.length ≤ task then s
    else if TD.typ d = 5 then
      match s.fab.reds.find? fun r => r.slot = slot ∧ r.task = task ∧ !r.isGather with
      | none => s
      | some r =>
        if r.climbed.isEmpty ∨ !s.contribDone r then s else
        let s := r.climbed.foldl (fun s b => s.logClimb r.ctx (s.redOut r).tid b (min 32767 (r.anchor b + 16))) s
        s.nextEpoch r
    else
      let js := s.mates slot task
      let ups := (js.flatMap fun j => (x.task j).climbs).eraseDups
      let allDone (j : Nat) : Bool := (x.task j).running.isEmpty && (x.task j).wb = 0 && (x.task j).segdone = TD.segments (x.desc j)
      if 1 < TD.typ d ∨ ups.isEmpty ∨ !(js.all allDone) then s else
      let out := (s.tensor x.ctx.toNat (TD.tref d (if TD.typ d = 0 then 2 else 7))).getD {}
      let base (b : Nat) : Int := s.ownAnchor slot task out (b * 32 / out.padRow * out.e0 + b * 32 % out.padRow)
      let s := ups.foldl (fun s b => s.logClimb x.ctx.toNat out.tid b (min 32767 (base b + 16))) s
      let ts := (List.range x.tasks.length).map fun j => if js.contains j then (x.task j).again ups else x.task j
      s.setSlot slot { x with tasks := ts, doneCnt := BitVec.ofNat 21 (ts.filter fun t => t.status = 1).length
                              parts := x.parts.filter fun p => p.red ≠ partKey d task })

/-! ### Completion of collectives (R352, R365) -/

/-- Has every packet of a context that a test picks been acknowledged? -/
def State.allAcked (s : State) (c : Nat) (f : Packet → Bool) : Bool :=
  s.fab.streams.all fun x => x.ctx ≠ c || (x.txq.all (fun p => !f p) && x.unacked.all fun u => !f u.2.2)

/-- May a REDUCE or GATHER task complete (R352)? Its own shares have ended too (R348). -/
def State.collDone (s : State) (r : Red) : Bool :=
  let d := TD.spec ((s.slot r.slot).desc r.task) <<< 768
  (List.range r.chunks).all (fun c =>
    ((r.home c ≠ r.self && !(r.isGather || CB.gather d)) || r.done.contains c)
    && (r.isGather || (List.range (r.npieces c)).all fun p => r.ended.contains (pkey c p)))
  && s.allAcked r.ctx (s.redPacket r)

/-- A transfer of a task is over: the unit forgets it, so that a later one of the same peer and tag is another (R365). -/
def State.p2pOver (s : State) (n i status : Nat) : State :=
  ({ s with fab := { s.fab with p2p := s.fab.p2p.filter fun y => !(y.slot = n && y.task = i) } }).endsWith n i status

/-- COLL_TASK_COMPLETE (R352, R365): a dispatched REDUCE, GATHER or P2P task whose exchange is over ends; it completes as the frame retires,
and a receiver's flag rises then (R285). What a receiver took feeds the overflow flag (R236). -/
def execCollTaskComplete (slot task : Nat) (s : State) : Host.Outcome State Fault Refusal :=
  let d := (s.slot slot).desc task
  .next (if !s.runs slot task 5 then s
    else if TD.variant d ≤ 1 then
      match s.fab.reds.find? fun r => r.slot = slot ∧ r.task = task with
      | none => s
      | some r => if s.collDone r then s.endsWith slot task 1 else s
    else match s.fab.p2p.find? fun x => x.slot = slot ∧ x.task = task with
      | none => s
      | some x =>
        if x.recv then
          if x.total ≠ some x.packets then s else
          let want := match s.p2pBlocks slot task with
            | some (t, l, _) => l.length * t.blockLen
            | none => 0
          if x.bytes ≠ want then s.p2pOver slot task 3
          else match s.p2pBlocks slot task with
            | some (t, l, _) => (s.arriveOvf slot t l).p2pOver slot task 1
            | none => s.p2pOver slot task 1
        else if x.sentAll ∧ s.allAcked x.ctx x.sent then s.p2pOver slot task 1
        else s)

/-! ### Pages (R307) -/

/-- Bytes of a page gathered so far. -/
def partsLen (l : List (Nat × List Byte)) : Nat := sumN ((l.filter fun x => x.1 < 2 ^ 21).map fun x => x.2.length)
/-- The page of its parts. -/
def partsPage (l : List (Nat × List Byte)) : List Byte :=
  ((l.filter fun x => x.1 < 2 ^ 21).mergeSort fun a b => a.1 ≤ b.1).flatMap (·.2)

/-- A lender takes a part of an evicted page while it has lending room, in either partition (free, log 87). -/
def State.lendRx (s : State) (p : Packet) : State × Bool :=
  let h := p.hdr
  let c := LS.ctx h
  let r := LS.src h
  let mine (l : Lent) : Bool := l.ctx = c && l.rank = r && l.page = LS.chunk h
  let whole (l : Lent) : Bool := l.sum.isSome && decide (partsLen l.parts = 2 ^ 21)
  let old := s.pager.lent.find? fun l => mine l && !whole l
  if old.isNone ∧ !(s.pager.lent.any mine) ∧ s.pager.reserve.toNat ≤ s.pager.lent.length then (s, false) else
  let (k, s) := s.draw
  let l := old.getD { rank := r, ctx := c, gen := (s.peer c r).gen, page := LS.chunk h, die := k % 2 }
  let l := if LS.last h then { l with sum := some (BitVec.ofNat 64 (ofLE p.payload)) } else { l with parts := l.parts ++ [(LS.offset h, p.payload)] }
  ({ s with pager := { s.pager with lent := s.pager.lent.filter (fun x => !mine x) ++ [l] } }, true)

/-- A lender answers a recall with the page it holds. -/
def State.lendAnswer (s : State) (p : Packet) : State :=
  let h := p.hdr
  match s.pager.lent.find? fun l => l.ctx = LS.ctx h && l.rank = LS.src h && l.page = LS.chunk h with
  | none => s
  | some l => s.lsSendAll (LS.ctx h) (LS.src h) (s.pageMsgs 2 l.page l.parts (l.sum.getD 0))

/-- An owner takes a part of a recalled page; the whole page lands. -/
def State.recallRx (s : State) (p : Packet) : State :=
  let h := p.hdr
  match s.pager.far.find? fun f => f.ctx = LS.ctx h && f.page = LS.chunk h && f.lender = some (LS.src h) && f.recalling with
  | none => s
  | some f =>
    let l := f.parts ++ [(if LS.last h then 2 ^ 21 else LS.offset h, p.payload)]
    match l.find? (fun x => x.1 = 2 ^ 21) with
    | some (_, b) => if partsLen l = 2 ^ 21 then s.landPage f (partsPage l) (BitVec.ofNat 64 (ofLE b)) else s.setFar { f with parts := l }
    | none => s.setFar { f with parts := l }

/-- PAGE_DATA (R307): a page in transit, told apart as log 19 says. -/
def execPageData (frame : Frame) (s : State) : Host.Outcome State Fault Refusal :=
  let h := frame.pkt.hdr
  .next (if LS.typ h ≠ 1 ∨ LS.tc h ≠ 5 ∨ LS.pfmt h ≠ 6 then s else s.acceptIf frame fun s p =>
    match LS.redid p.hdr with
    | 0 => s.lendRx p
    | 1 => (s.lendAnswer p, true)
    | _ => (s.recallRx p, true))

/-! ### Twin deltas and adoption (R415, R416) -/

/-- Is a frame a packet of a delta; `last` tells its closing packet. -/
def deltaPkt (p : Packet) (last : Bool) : Bool :=
  LS.typ p.hdr = 1 && LS.tc p.hdr = 6 && LS.pfmt p.hdr = 7 && (LS.last p.hdr == last)
/-- `AD_STATE`. -/
def CtxCfg.adState (x : CtxCfg) : Nat := BV.fld x.adopt 60 4
/-- `AD_CTX`. -/
def CtxCfg.adCtx (x : CtxCfg) : Nat := BV.fld x.adopt 55 4
/-- `AD_RANK`. -/
def CtxCfg.adRank (x : CtxCfg) : Nat := BV.fld x.adopt 35 20
/-- `AD_STEP`. -/
def CtxCfg.adStep (x : CtxCfg) : Nat := BV.fld x.adopt 3 32
/-- `AD_STATE` changed. -/
def State.setAdState (s : State) (c k : Nat) : State :=
  let x := s.ctx c
  s.setCtx c { x with cfg := { x.cfg with adopt := BV.put x.cfg.adopt 60 4 k } }
/-- Tensors of a context with `FIN_EN`. -/
def Ctx.finTensors (x : Ctx) : List TRec := x.tensors.filter (·.finEn)

/-- Before a delta's first line the shadows take the committed contents (log 21). -/
def State.twinOpen (s : State) (c : Nat) : State :=
  let x := s.ctx c
  if x.twinOn then s else
  let s := x.finTensors.foldl (fun s t =>
    let a := t.key t.base
    let b := t.key t.shadowBase
    let n := t.pages * 2 ^ 21
    let cells := tkeep (fun k => decide (a ≤ k ∧ k < a + n)) s.mem
    let m := tkeep (fun k => decide (k < b ∨ b + n ≤ k)) s.mem
    { s with mem := cells.foldl (fun m e => tset 0 m (e.1 - a + b) e.2) m }) s
  s.setCtx c { s.ctx c with twinOn := true, twinLed := 0 }

/-- TWIN_DELTA (R415, R416, R382): a line goes into the shadow of its reserve tensor, or into the committed copy of a tensor
being adopted. -/
def execTwinDelta (frame : Frame) (s : State) : Host.Outcome State Fault Refusal :=
  .next (if !deltaPkt frame.pkt false then s else s.acceptIf frame fun s p =>
    let h := p.hdr
    let c := LS.ctx h
    let tid := fld (LS.redid h) 0 12 * 2 ^ 20 + LS.chunk h
    match s.tensor c tid with
    | none => (s, true)
    | some t =>
      let x := s.ctx c
      let ad := decide (x.cfg.adState = 1)
      let step := if ad then x.cfg.adStep else (t.finStep + 1) % 2 ^ 32
      let led := lineLedger x.cfg.seed.toNat step tid (LS.offset h) p.payload
      if led ≠ LS.ledger h then s.badLedger h id else
      let s := if ad then s.setCtx c { x with twinLed := if x.twinOn then x.twinLed else 0, twinOn := true } else s.twinOpen c
      let x := s.ctx c
      let s := s.setCtx c { x with twinLed := (x.twinLed + led) % ledM }
      (s.store c ((if ad then t.base else t.shadowBase) + 128 * LS.offset h) p.payload false, true))

/-- The closing packet of a delta at the twin: checked against the ledger; flip and echo, or discard and echo poison. -/
def State.twinClose (s : State) (c src step led : Nat) (r : Nat) : State :=
  let x := s.ctx c
  let ok := decide ((if x.twinOn then x.twinLed else 0) = led)
  let s := if ok ∧ !x.twinOn then s.twinOpen c else s
  let s := s.setCtx c { s.ctx c with twinOn := false, twinLed := 0 }
  let s := if ok then x.finTensors.foldl (fun s t => s.setUpd c t.tid true (some step)) s else s
  s.lsSend c src { tc := 6, pfmt := 7, offset := step, ledger := r, last := true, poison := !ok }

/-- The closing packet of an adoption at the spare (R416). -/
def State.adoptClose (s : State) (c led : Nat) (refused : Bool) : State :=
  let x := s.ctx c
  let ok := decide ((if x.twinOn then x.twinLed else 0) = led)
  let s := s.setCtx c { x with twinOn := false, twinLed := 0 }
  if refused then (s.setAdState c 3).log { code := 0x0903, sev := 3, ctx := c, data := x.cfg.adRank }
  else if !ok then (s.setAdState c 4).log { code := 0x0903, sev := 3, ctx := c, data := x.cfg.adRank }
  else
    let s := x.finTensors.foldl (fun s t => s.setUpd c t.tid false (some x.cfg.adStep)) s
    (s.setAdState c 2).log { code := 0x0902, sev := 0, ctx := c, data := x.cfg.adRank }

/-- TWIN_DELTA_CLOSE (R415, R416): taken once everything sent before it has arrived. -/
def execTwinDeltaClose (frame : Frame) (s : State) : Host.Outcome State Fault Refusal :=
  .next (if !deltaPkt frame.pkt true then s else s.acceptIf frame fun s p =>
    let h := p.hdr
    let c := LS.ctx h
    let r := LS.src h
    if (s.stream c r 6).cum ≠ LS.seq h then (s, false)
    else if (s.ctx c).cfg.adState = 1 then (s.adoptClose c (LS.ledger h) (LS.poison h), true)
    else (s.twinClose c r (LS.offset h) (LS.ledger h) (LS.ledger h), true))

/-- TWIN_ECHO (R415): the twin holds the step, or the delta goes again; after three failed resends mirroring stops. -/
def execTwinEcho (frame : Frame) (s : State) : Host.Outcome State Fault Refusal :=
  .next (if !deltaPkt frame.pkt true then s else s.acceptIf frame fun s p =>
    let h := p.hdr
    let c := LS.ctx h
    let x := s.ctx c
    match x.twinWait with
    | none => (s, true)
    | some step =>
      if LS.src h ≠ x.cfg.twRank ∨ LS.offset h ≠ step then (s, true) else
      if !LS.poison h then
        (s.setCtx c { x with twinWait := none, twinTries := 0, twinLines := []
                             cfg := { x.cfg with twinStep := BitVec.ofNat 64 (step * 2 ^ 32) } }, true)
      else if x.twinTries < 3 then
        let s := s.setCtx c { x with twinTries := x.twinTries + 1 }
        (s.lsSendAll c x.cfg.twRank (s.deltaMsgs c step x.cfg.twCtx x.twinLines false), true)
      else
        let s := s.setCtx c { x with twinWait := none, twinTries := 0, twinLines := [], cfg := { x.cfg with finTwin := BV.put x.cfg.finTwin 63 1 0 } }
        (s.log { code := 0x0901, sev := 3, ctx := c, data := step }, true))

/-- The pull of an adoption starts (R416): its request goes to the twin, in a form the spec does not give (log 22). -/
def State.startAdopt (s : State) (c : Nat) : State :=
  let x := s.ctx c
  if x.st ≠ .live ∨ x.cfg.adState = 1 then s else
  ((s.setAdState c 1).setCtx c { (s.setAdState c 1).ctx c with twinOn := false, twinLed := 0 }).emit (.adoptPull c x.cfg.adRank x.cfg.adCtx x.cfg.adStep)

/-- AD_GO (R416). -/
def execAdGo (ctx : Nat) (s : State) : Host.Outcome State Fault Refusal := .next (s.startAdopt ctx)

/-- ADOPTION_PULL_REQUEST (R416): the twin streams the committed copies of its reserve tensors at the step asked for, or refuses
with a poisoned closing packet (log 22). -/
def execAdoptionPullRequest (rank ctx step : Nat) (s : State) : Host.Outcome State Fault Refusal :=
  let x := s.ctx ctx
  let dstCtx := BV.fld (x.entry rank) 108 4
  .next (if x.st ≠ .live then s
    else if x.finTensors.any (fun t => t.finStep ≠ step % 2 ^ 32) then s.lsSendAll ctx rank (s.deltaMsgs ctx step dstCtx [] true)
    else
      let l := x.finTensors.flatMap fun t => (s.copyLines t).map fun (n, b) => (t.tid, n, b)
      s.lsSendAll ctx rank (s.deltaMsgs ctx step dstCtx l false))

end Sys2Proof.Machine
end

