-- ==== Sys2Proof/Machine/Resets.lean ====
section
/-! DEFINITION. Operations of resets: domains, the crash dump, stage reports, what each reset loses, requests and their overlap
(spec/15 R398 to R425, spec/16 R426 to R440). -/
namespace Sys2Proof.Machine

/-! ### Domains (R398, R399, R409) -/

/-- Is a domain (level, number) the same as another or inside it? The context level lies inside the partitions and the module. -/
def Remap.domIn (r : Remap) (a b : Nat × Nat) : Bool :=
  match a.1 with
  | 0 => false
  | 1 | 2 => a = b
  | 3 => a = b || (b.1 = 2 && engPanel b.2 = r.panel a.2)
  | 4 => a = b || b.1 = 1 || (b.1 = 2 && b.2 / 289 = a.2) || (b.1 = 3 && b.2 / 16 = a.2)
  | _ => true

/-- The domain one level up the ladder (R401): a context goes to the partition that alone still holds its writes, and faults of both
partitions are the module's (R398). -/
def State.above (s : State) (d : Nat × Nat) : Nat × Nat :=
  match d.1 with
  | 1 => match s.outWrites d.2 0, s.outWrites d.2 1 with
    | true, false => (4, 0)
    | false, true => (4, 1)
    | _, _ => (5, 0)
  | 2 => match (List.range 32).find? fun p => s.remap.panel p = engPanel d.2 ∧ s.remap.present p with
    | some p => (3, p)
    | none => (4, d.2 / 289)
  | 3 => (4, d.2 / 16)
  | _ => (5, 0)

/-- Fields of `ESC_STATUS` changed: `LAST`, `RESULT`, `CAUSE`, `ELAPSED` keep their places in the stored word (R408). -/
def Esc.put (e : Esc) (lo w v : Nat) : Esc := { e with status := BV.put e.status lo w v }

/-! ### The crash dump (R420, R421) -/

/-- Units in the order of collection: class, logical and physical number (log 23). A spare unit's logical number reads 4,095. -/
def State.dumpUnits (s : State) : List (Nat × Nat × Nat) :=
  let pan (x : Nat) : Nat := ((List.range 32).find? fun p => s.remap.panel p = x).getD 4095
  let eng (x : Nat) : Nat := match (List.range 32).find? fun p => s.remap.panel p = engPanel x with
    | some p => ((s.remap.logical p x).map (p * 16 + ·)).getD 4095
    | none => 4095
  let run (cls a n : Nat) (f : Nat → Nat) : List (Nat × Nat × Nat) := (List.range n).map fun k => (cls, f (a + k), a + k)
  [(7, 0, 0)] ++ (List.range 2).flatMap fun d =>
    run 1 d 1 id ++ run 2 (17 * d) 17 pan ++ run 3 (289 * d) 289 eng ++ run 4 (6 * d) 6 id ++ run 5 (4 * d) 4 id
      ++ run 6 (16 * d) 16 id ++ run 8 d 1 id ++ run 9 d 1 id

/-- Bytes of the dump area (R422). -/
def dumpArea : Nat := 6 * 2 ^ 20
/-- The records of units collected so far run up to number k: power-gated where the Headland rails are off, skipped where the area is full,
otherwise complete or partial. Which of the two, and the length, are free (log 23). -/
def State.dumpTo (s : State) (k : Nat) : State :=
  let (f, s) := s.draw
  let l := ((List.range k).zip s.dumpUnits).drop s.dump.next
  let recs := l.foldl (fun (a : List DumpRec) x =>
    let n := 16 + Config.freeNat (f + x.1)
    let full := decide (dumpArea < sumN (a.map (·.len)) + n)
    let st := if x.2.1 ≠ 7 ∧ s.pwr.rails = false then 2 else if full then 5 else if Config.freeNat (f + 2 ^ 20 + x.1) % 2 = 0 then 0 else 4
    a ++ [({ cls := x.2.1, logical := x.2.2.1, phys := x.2.2.2, len := if st = 2 ∨ st = 5 then 16 else n, status := st } : DumpRec)]) s.dump.recs
  { s with dump := { s.dump with recs := recs, next := max s.dump.next k } }

/-- A dump is triggered: collection starts, or is skipped while one is held. -/
def State.startDump (s : State) : State :=
  if s.dump.held then s.log { code := 0x0708, sev := 1, unit := 7, data := s.esc.word.toNat }
  else { s with dump := { held := false, collecting := true, next := 0, recs := [] } }

/-! ### Stage reports (R439, R440) -/

/-- A stage report's 64 bytes. -/
def stageReport (stage result path part boot time spEng spPan spLas failed : Nat) : BitVec 512 :=
  BitVec.ofNat 512 (stage % 256 * 2 ^ 504 + result % 256 * 2 ^ 496 + path % 16 * 2 ^ 492 + part % 16 * 2 ^ 488 + boot % 2 ^ 32 * 2 ^ 456
    + time % 2 ^ 32 * 2 ^ 424 + spEng % 256 * 2 ^ 416 + spPan % 16 * 2 ^ 412 + spLas % 256 * 2 ^ 404 + failed % 2 ^ 384)

/-- A report written, with its log entry; at most 32 are kept. -/
def State.report (s : State) (stage result path part time spEng spPan spLas failed : Nat) : State :=
  let w := stageReport stage result path part s.bru.boot.toNat time spEng spPan spLas failed
  let s := { s with bru := { s.bru with reports := (s.bru.reports ++ [w]).take 32 } }
  s.log { code := 0x0C00 + stage, sev := if 0x80 ≤ result ∧ result ≤ 0x82 then 5 else 0, unit := if part = 0 then 0 else 1
          num := part - 1, phys := part - 1, data := w.toNat / 2 ^ 384 }

/-- The partitions a stage reports for on a path: 0 the module, 1 A, 2 B. -/
def Bring.parts (b : Bring) (stage : Nat) : List Nat :=
  if stage = 0 ∨ stage = 2 ∨ stage = 8 then [0] else if b.path = 2 then [b.part + 1] else [1, 2]

/-- Does a path run a stage (R426)? -/
def Bring.runs (b : Bring) (stage : Nat) : Bool :=
  if b.path = 0 ∨ b.path = 6 then true
  else stage ≠ 0 && stage ≠ 4 && stage ≠ 6

/-- Stages from one on that the path does not run report so, up to the first that runs. Fuel bounds the stages. -/
def State.skipStages (s : State) (stage : Nat) : Nat → State
  | 0 => s
  | f + 1 =>
    if 8 ≤ stage ∨ s.bru.runs stage then { s with bru := { s.bru with stage := BitVec.ofNat 8 stage } }
    else ((s.bru.parts stage).foldl (fun s p => s.report stage 3 s.bru.path.toNat p 0 0 0 0 0) s).skipStages (stage + 1) f

/-- A bring-up starts, at S0 or at an entry phase: the reports go, `BR_BOOT` advances (R439, R440). A module in Slack comes back to
Slack (R487). S0 clears the measurement registers (R464), brings the identity counter up to its burnt bits (R466) and drops what the firmware
had in progress. -/
def State.startBring (s : State) (path part : Nat) : State :=
  let slack := decide (s.pwr.st = 2 ∧ s.pwr.target = none)
  let s := { s with bru := { s.bru with path := BitVec.ofNat 4 path, part := part, running := true, boot := s.bru.boot + 1, reports := []
                                        ready := path = 2 && s.bru.ready, fatal := s.bru.fatal && !(path = 0 || path = 6) } }
  let s := if path = 2 then s else
    ({ s with pwr := { s.pwr with st := 5, target := if slack then some 2 else none, resume := 0 } }).release 0 2
  let s := if path = 0 ∨ path = 6 then
      { s with pins := { s.pins with trayId := BitVec.ofNat 4 (Config.moduleConst 8) }
               sec := { s.sec with meas := Vector.replicate 8 0, log := [], queue := [], busy := [], mboxSt := 0, rlen := 0, idLeaf := max s.sec.idLeaf (1024 * s.sec.otp) } }
    else s
  s.skipStages 0 9

/-! ### What is lost (R402, R404, R423 to R425) -/

/-- The outcome of a vote already received takes effect before a reset (R400). -/
def State.sealFirst (s : State) : State :=
  (List.range 64).foldl (fun s n => if (s.slot n).att.sealing = 1 ∨ (s.slot n).att.sealing = 5 then s.applyOutcome n else s) s

/-- Training attempts in flight fail as replayable (R402). -/
def State.failAll (s : State) : State := (List.range 16).foldl (fun s c => s.failRunning c) s

/-- A panel's state is lost (R423): its stores, its engines' state, its staged windows, its segments. -/
def State.losePanel (s : State) (p : Nat) : State :=
  let x := s.panel p
  let gs := x.seg.toList ++ x.wbq.map (·.seg) ++ (x.held.map (·.done.seg)).toList
  gs.foldl (fun s g => s.loseSeg g) (s.setPanel p { counts := x.counts })

/-- Every stream is lost; ranks join again (R330, R423). -/
def State.loseStreams (s : State) : State :=
  { s with fab := { s.fab with streams := [], peers := s.fab.peers.map fun p => { p with joined := false, joining := false, held := false } } }

/-- Tidepool areas and HBM accumulation areas of one partition are lost (R423): the graphs that used them cannot go on. -/
def State.losePool (s : State) (part : Nat) : State :=
  let hit (r : Red) : Bool := r.pieces.any fun q => q.claimed && !q.drained && (q.chunk + q.idx) % 2 = part
  let l := (s.fab.reds.filter hit).map fun r => r.slot
  let s := { s with fab := { s.fab with reds := s.fab.reds.map fun r => { r with pieces := r.pieces.map fun q =>
      if q.claimed ∧ !q.drained ∧ (q.chunk + q.idx) % 2 = part then { q with claimed := false, granted := false, spilled := false, area := [], acc := [] } else q } } }
  l.foldl (fun s n => s.failAttempt n false) s

/-- An open or pending transaction is discarded (R452), and its vector fires (R445). -/
def State.discardTxn (s : State) (fn : Nat) : State :=
  let x := s.txn fn
  if x.st = 0 ∧ x.lone.isEmpty then s else
  (s.setTxn fn { x with st := 0, result := 8, count := 0, full := false, staged := [], cmds := [], lone := [] }).fire fn 5

/-- A context lost with the module (R423 to R425): its generation advances; its tensors become orphans where HBM is kept. -/
def Ctx.lost (x : Ctx) (keep : Bool) : Ctx :=
  match x.st with
  | .free => { gen := x.gen, orphan := keep && x.orphan, orphGen := if keep then x.orphGen else 0, orphans := if keep then x.orphans else [] }
  | .dying => { gen := x.gen + 1 }
  | .live =>
    let o := keep && !x.tensors.isEmpty
    { gen := x.gen + 1, orphan := o, orphGen := if o then x.gen.toNat else 0, orphans := if o then x.tensors else [] }

/-- The settings and contents that a module reset, Dry or a power cycle loses (R423, R425). `keep`: HBM keeps its contents;
`full`: the Harbour firmware restarts too. -/
def State.loseModule (s : State) (keep full : Bool) : State :=
  let s := (List.range 64).foldl (fun s n => if (s.slot n).busyNow ∧ (s.slot n).graph.training then s.abandonStep n else s) s
  let s := (List.range 16).foldl (fun s fn => s.discardTxn fn) s
  let s := (List.range 16).foldl (fun s c => if (s.ctx c).st = .dying then (s.ctx c).tensors.foldl (fun s t => s.dropTensor t) s else s) s
  let s := if keep then s.pager.far.foldl (fun s f => s.losePage f) s else { s with mem := [], poison := [] }
  { s with
    frame := 0, tickRun := false
    panels := s.panels.map fun p => { counts := p.counts }
    ctxs := s.ctxs.map fun x => x.lost keep
    slots := s.slots.map fun _ => {}
    fab := { ports := s.fab.ports.map fun p => { badLanes := p.badLanes }, strands := s.fab.strands.map fun x => { spares := x.spares, spent := x.spent } }
    tdp := Vector.replicate 2 Tdp.cold
    pager := { frames := if keep then s.pager.frames else [], retired := s.pager.retired, sparesUsed := s.pager.sparesUsed }
    swt := { s.swt with exp := 5, trLimit := 3, trWin := 0x18, suspects := [], carried := [], checking := [], due := [] }
    esc := { s.esc with queue := [], waiting := [] }
    remap := { s.remap with resetting := s.remap.resetting.filter fun x => s.esc.tests.contains (2, x) }
    host := { s.host with apt := [], held := [], slotOwn := if full then Vector.replicate 64 0 else s.host.slotOwn }
    pwr := { s.pwr with np := 0, nt := 0, floorLeft := 0, skipN := 0 }
    sec := { s.sec with queue := s.sec.queue.filter fun q => match q.what with | .receipt _ _ => false | _ => true } }

/-! ### The resets begin (R399, R404) -/

/-- A context reset: its slots stop and their steps are abandoned (R402), its flags and areas go, its DATA is answered RESETTING. -/
def State.beginCtx (s : State) (c : Nat) : State :=
  let s := s.announceReset [c] 5
  let s := (s.liveSlots c).foldl (fun s n =>
    (s.setSlot n { s.slot n with stopped := true, cancelled := true }).dropStep n) s
  let x := s.ctx c
  { s.setCtx c { x with resetting := true, flags := [] } with fab := { s.fab with sw := s.fab.sw.filter (·.ctx ≠ c) } }

/-- An engine leaves service for its reset: its number passes to the panel's unassigned spare (R410). -/
def State.takeOut (s : State) (x : Nat) : State := ({ s with remap := { s.remap with resetting := sins s.remap.resetting x } }).passOn x

/-- An engine reset: its number passes to the panel's unassigned spare, its panel's segment is poisoned. -/
def State.beginEng (s : State) (x : Nat) : State :=
  let s := match (List.range 32).find? fun p => s.remap.panel p = engPanel x ∧ s.remap.present p with
    | none => s
    | some p => if (s.remap.logical p x).isSome then s.setPanel p { s.panel p with tainted := (s.panel p).tainted || (s.panel p).seg.isSome } else s
  (s.takeOut x).failAll

/-- A partition reset: RESETTING first, its panels and areas lost, its ports retrain, its stages run. -/
def State.beginPart (s : State) (d : Nat) : State :=
  let s := s.announceReset (List.range 16) 400
  let s := (List.range 16).foldl (fun s k => s.losePanel (16 * d + k)) s
  let s := ((s.losePool d).failAll).loseStreams
  let s := { s with pager := { s.pager with lent := s.pager.lent.filter (fun l => l.die ≠ d), far := s.pager.far.map (fun f : FarPage => { f with recalling := false, parts := [] }) } }
  let s := (List.range 16).foldl (fun s k => s.retrainPort (16 * d + k)) s
  s.startBring 2 d

/-- A module reset: on the fast path every open stream hears RESETTING and HBM is kept; a full reset takes the link down. -/
def State.beginModule (s : State) (fast : Bool) : State :=
  let s := if fast then s.announceReset (List.range 16) 1200 else { s with host := { s.host with link := false, training := false } }
  let s := if fast then s.sealFirst else s
  (s.loseModule fast !fast).startBring (if fast then 1 else 6) 0

/-- The log entry of a reset or of a fault that asks for one (R494). -/
def State.logReset (s : State) (l d : Nat) (e : Esc) : State :=
  s.log { code := 0x0700 + l, sev := 4, ctx := if l = 1 then d else 0, unit := match l with | 2 => 3 | 3 => 2 | 4 => 1 | _ => 0
          num := match l with | 2 => s.remap.engNum d | 3 | 4 => d | _ => 0
          phys := match l with | 2 | 4 => d | 3 => s.remap.panel d | _ => 0, data := e.word.toNat }

/-- A reset begins (R399): status, log (R494), dump (R420); the reset in progress, and queued and waiting requests inside its domain, are
subsumed: engines and panels among them are tested as it ends, a queued engine's number passes on at once (R409). -/
def State.beginReset (s : State) (l d cause : Nat) (escal : Bool) : State :=
  let out (q : Nat × Nat × Nat) : Bool := !s.remap.domIn (l, d) (q.1, q.2.1)
  let unit (q : Nat × Nat) : Bool := (q.1 = 2 || q.1 = 3) && q ≠ (l, d) && s.remap.domIn (l, d) q
  let gone := ((s.esc.queue.filter fun q => !out q).map fun q => (q.1, q.2.1)).filter unit
  let tests := (s.esc.tests ++ [(s.esc.active, s.esc.domain)].filter unit ++ gone).eraseDups
  let e := { (s.esc.put 44 4 cause) with active := l, domain := d, escal := escal, tests := tests
                                         queue := s.esc.queue.filter out, waiting := s.esc.waiting.filter out }
  let s := { s.logReset l d e with esc := e }
  let s := gone.foldl (fun s q => if q.1 = 2 then s.takeOut q.2 else s) s
  let s := if 4 ≤ l then s.startDump else s
  match l with
  | 1 => s.beginCtx d
  | 2 => s.beginEng d
  | 3 => (s.losePanel d).failAll
  | 4 => s.beginPart d
  | 5 => s.beginModule true
  | _ => s.beginModule false

/-! ### Requests and faults (R406, R409, R438, R487) -/

/-- A request or fault during a reset (R409): related, it escalates at once, and the fault of the reset in progress is logged again;
unrelated, it is queued, and a sixteenth goes to the module. -/
def State.overlap (s : State) (l d cause : Nat) : State :=
  let a := (s.esc.active, s.esc.domain)
  let b := (l, d)
  let s := s.logReset l d s.esc
  if s.remap.domIn a b || s.remap.domIn b a then
    let u := s.above (if a.1 < b.1 then b else a)
    let s := s.logReset a.1 a.2 s.esc
    ({ s with esc := s.esc.put 48 4 3 }).beginReset u.1 u.2 5 true
  else if 15 ≤ s.esc.queue.length then ({ s with esc := s.esc.put 48 4 3 }).beginReset 5 0 5 true
  else { s with esc := { s.esc with queue := s.esc.queue ++ [(l, d, cause)] } }

/-- Can the module run resets: powered, not tripped, not going down (R478, R484)? -/
def State.awake (s : State) : Bool := s.pins.vin && s.pins.pwrEn && !s.pwr.tripped && !s.pins.handshake

/-- A reset is wanted: level, domain, cause. -/
def State.resetReq (s : State) (l d cause : Nat) : State :=
  if !s.awake ∨ l = 0 ∨ 6 < l then s
  else if l = 6 then s.beginReset 6 0 cause (decide (s.esc.active ≠ 0))
  else if (s.pwr.st = 3 ∨ s.pwr.st = 4) ∧ l ≤ 4 then { s with esc := { s.esc with ignored := bump s.esc.ignored } }
  else if !s.bru.ready ∧ s.pwr.st ≠ 4 then
    if l ≤ 4 then { s with bru := { s.bru with ignored := bump s.bru.ignored } }
    else if s.esc.active = 5 then s.overlap 5 0 cause
    else { s with bru := { s.bru with deferred := true } }
  else if s.esc.active ≠ 0 then s.overlap l d cause
  else if l = 5 then s.beginReset 5 0 cause false
  else { s with esc := { s.esc with waiting := s.esc.waiting ++ [(l, d, cause)] } }

/-- A dump without a reset (R420): at the next tick, or at once where no tick runs. -/
def State.dumpReq (s : State) : State :=
  if !s.awake then s
  else if s.tickRun then { s with esc := { s.esc with waiting := s.esc.waiting ++ [(7, 0, 2)] } }
  else (s.log { code := 0x0707, sev := 4, data := s.esc.word.toNat }).startDump

/-- What waited for the tick begins (R400, R406), after the commits of votes already received. -/
def State.beginWaiting (s : State) : State :=
  let l := s.esc.waiting
  if l.isEmpty then s else
  let s := { s.sealFirst with esc := { s.sealFirst.esc with waiting := [] } }
  l.foldl (fun s q =>
    if q.1 = 7 then (s.log { code := 0x0707, sev := 4, data := s.esc.word.toNat }).startDump
    else if s.esc.active = 0 then s.beginReset q.1 q.2.1 q.2.2 false
    else s.overlap q.1 q.2.1 q.2.2) s

end Sys2Proof.Machine
end

