-- ==== Sys2Proof/Machine/Power.lean ====
section
/-! DEFINITION. Power states, throttling, the edge's events, wear, the log's flash copy (spec/19, spec/15 R419, R423). -/
namespace Sys2Proof.Machine

/-! ### Throttling (R476, R482, R483) -/

/-- The skip count in force (R482): 64 in Slack, else the larger of the two counts and the floor. -/
def Pwr.skipCount (p : Pwr) : Nat := if p.st = 2 then 64 else max (max p.np p.nt) (if 0 < p.floorLeft then 32 else 0)
/-- `SKIPN` shows it. -/
def Pwr.shown (p : Pwr) : Pwr := { p with skipN := p.skipCount }
/-- The power count after a window. -/
def Pwr.nextNp (p : Pwr) (watts : Nat) : Nat :=
  let cap := p.cap.toNat
  if cap < watts then min 64 (p.np + max 1 (cdiv (64 * (watts - cap)) watts)) else if 100 * watts < 98 * cap then p.np - 1 else p.np
/-- The thermal count after a window. -/
def Pwr.nextNt (p : Pwr) (t : Nat) : Nat :=
  let cap := p.tcap.toNat
  if 105 ≤ t then 60 else if cap < t then min 64 (p.nt + 4) else if t + 3 < cap then p.nt - 1 else p.nt

/-- THROTTLE_WINDOW (R482): the counts and the floor at the first tick of a window, the window's measurements (input voltage and coolant
temperatures are free, log 83), the events of counts that rose above 0. -/
def execThrottleWindow (watts tempA tempB : Nat) (s : State) : Host.Outcome State Fault Refusal :=
  .next (if !s.tickRun then s else
    let p := s.pwr
    let np := p.nextNp watts
    let nt := p.nextNt (max tempA tempB)
    let (k, s) := s.draw
    let s := { s with pwr := { p with vin := BitVec.ofNat 16 k, tin := BitVec.ofNat 8 (k / 2 ^ 16), tout := BitVec.ofNat 8 (k / 2 ^ 24), np := np, nt := nt, floorLeft := p.floorLeft - 1, pin := BitVec.ofNat 16 watts, tja := BitVec.ofNat 8 tempA, tjb := BitVec.ofNat 8 tempB } }
    let s := { s with pwr := s.pwr.shown }
    let s := if p.nt = 0 ∧ 0 < nt then (s.pwrSet (2 ^ 62)).log { code := 0x0A01, sev := 1, data := nt } else s
    if p.np = 0 ∧ 0 < np then (s.pwrSet (2 ^ 61)).log { code := 0x0A02, sev := 1, data := np } else s)

/-! ### Power states (R485 to R487) -/

/-- A request is refused (R486). -/
def State.refusePower (s : State) : State := s.pwrSet (2 ^ 59)
/-- Every write of every context has landed. -/
def State.quiet (s : State) : Bool := (List.range 16).all fun c => !s.outWrites c 0 && !s.outWrites c 1

/-- A power-state request (R485 to R487): 1 operating, 2 Slack, 3 Neap, 4 Dry; other codes are ignored. -/
def State.powerReq (s : State) (k : Nat) : State :=
  let p := s.pwr
  let go (st : BitVec 4) (resume : Nat) : State := { s with pwr := { p with st := st, target := some k, resume := resume, cause := 0 } }
  if !s.awake ∨ k = 0 ∨ 4 < k then s
  else if s.esc.active ≠ 0 then { s with pwr := { p with waiting := some k } }
  else if p.target.isSome ∨ p.st = 5 then s.refusePower
  else if p.st = BitVec.ofNat 4 k then s
  else match k with
    | 1 => if p.st = 2 then go 2 3 else if p.st = 3 then go 5 0 else { s with pwr := { p with cause := 0 } }.startBring 5 0
    | 2 => if p.st = 1 then go 1 0 else s.refusePower
    | 3 => if (p.st = 1 ∨ p.st = 2) ∧ s.quiet ∧ s.slots.toList.all (fun x => !x.busyNow) then go 5 0 else s.refusePower
    | _ => if s.ctxs.toList.all (fun x => x.st = .free) then go 5 0 else s.refusePower

/-- Dry: Headland and HBM without power, everything but what R423 keeps lost. -/
def State.toDry (s : State) (cause : BitVec 4) : State :=
  let s := s.loseModule false false
  { s with pwr := { s.pwr with st := 4, cause := cause, target := none, resume := 0, waiting := none, rails := false }
           bru := { s.bru with running := false, deferred := false }, esc := { s.esc with active := 0, escal := false } }

/-- POWER_STATE_TRANSITION_DONE (R485, R488): Neap or Dry is reached, or Neap is left. Slack is reached and left at ticks, Dry left
at stage S8. -/
def execPowerStateTransitionDone (s : State) : Host.Outcome State Fault Refusal :=
  .next (if s.pwr.st ≠ 5 ∨ s.bru.running then s else
    match s.pwr.target with
    | some 3 =>
      let s := { s.loseStreams with tickRun := false, panels := s.panels.map fun (p : Panel) => { counts := p.counts } }
      { s with pwr := { s.pwr with st := 3, target := none, rails := false } }.pwrSet (2 ^ 60)
    | some 4 => (s.toDry 0).pwrSet (2 ^ 60)
    | some 1 => { s with tickRun := true, pwr := { s.pwr with st := 1, target := none, rails := true } }.pwrSet (2 ^ 60)
    | _ => s)

/-- PWR_REQ_OPERATING (R486). -/
def execPwrReqOperating (s : State) : Host.Outcome State Fault Refusal := .next (if s.hostUp 0 then s.powerReq 1 else s)
/-- SLACK_REQUEST (R485). -/
def execSlackRequest (s : State) : Host.Outcome State Fault Refusal := .next (if s.hostUp 0 then s.powerReq 2 else s)
/-- NEAP_REQUEST (R485). -/
def execNeapRequest (s : State) : Host.Outcome State Fault Refusal := .next (if s.hostUp 0 then s.powerReq 3 else s)
/-- DRY_REQUEST (R485). -/
def execDryRequest (s : State) : Host.Outcome State Fault Refusal := .next (if s.hostUp 0 then s.powerReq 4 else s)

/-! ### Events of the edge (R423, R478, R479, R484) -/

/-- INPUT_EXCURSION (R479): Dry at once. -/
def execInputExcursion (s : State) : Host.Outcome State Fault Refusal :=
  .next (if !s.awake then s else ((s.toDry 1).pwrSet (2 ^ 63)).log { code := 0x0A03, sev := 4 })

/-- THERMAL_TRIP (R484): the rails fall, `THERM_TRIP#` goes low, the trip latches. -/
def execThermalTrip (s : State) : Host.Outcome State Fault Refusal :=
  .next (if !s.awake then s else
    let s := s.toDry 2
    { s with pwr := { s.pwr with st := 6, tripped := true }, pins := { s.pins with tripLow := true }, bru := { s.bru with ready := false } }.log
      { code := 0x0A04, sev := 5 })

/-- POWER_DOWN_HANDSHAKE (R478): `PWR_EN` falls; RESETTING goes to every open stream, with a stated time the spec does not give;
dispatch stops from the next tick. -/
def execPowerDownHandshake (s : State) : Host.Outcome State Fault Refusal :=
  .next (if !s.pins.vin ∨ !s.pins.pwrEn then s else
    let (k, s) := s.draw
    let s := s.announceReset (List.range 16) k
    { s with pins := { s.pins with pwrEn := false, handshake := true }, bru := { s.bru with running := false } })

/-- Everything without power but what R423 keeps over a power cycle: the log's sequence number and flash copies, the remap table,
the saved training data, keys and counters, wear and laser records, the generations (drawn anew after loss of the input, R425),
`CAP` and `TCAP` unless the input is lost (R488). -/
def State.unpowered (s : State) (input : Bool) : State :=
  let (k, s) := s.draw
  { State.reset with
    ctxs := if input then Vector.ofFn fun i => { gen := BitVec.ofNat 8 (Config.freeNat (k + i.val)) } else s.ctxs.map fun x => x.lost false
    fab := { ports := s.fab.ports.map fun p => { badLanes := p.badLanes }, strands := s.fab.strands.map fun x => { spares := x.spares, spent := x.spent } }
    pager := { retired := s.pager.retired, sparesUsed := s.pager.sparesUsed }
    swt := { transient := s.swt.transient, fenced := s.swt.fenced, transientAt := s.swt.transientAt }
    wrk := { seq := s.wrk.seq, flash := s.wrk.flash, flashRing := s.wrk.flashRing, flashDump := s.wrk.flashDump }
    remap := { s.remap with resetting := [] }
    bru := { boot := s.bru.boot, saved := s.bru.saved }
    pwr := if input then {} else { cap := s.pwr.cap, tcap := s.pwr.tcap, vin := s.pwr.vin }
    pins := { s.pins with vin := s.pins.vin && !input, pwrGood := false, alertLow := false, tripLow := false, handshake := false }
    wer := s.wer
    sec := { idLeaf := s.sec.idLeaf, otp := s.sec.otp, otpSvn := s.sec.otpSvn, rk := s.sec.rk, keys := s.sec.keys, order := s.sec.order }
    wire := s.wire, out := s.out, fresh := s.fresh, pending := s.pending }

/-- POWER_DOWN_HANDSHAKE_END (R478, R419): ring and dump are in flash, `PWR_GOOD` falls, the rails go; a `PWR_EN` that rose
meanwhile starts power-up. -/
def execPowerDownHandshakeEnd (s : State) : Host.Outcome State Fault Refusal :=
  .next (if !s.pins.handshake then s else
    let s := { s with wrk := { s.wrk with flashRing := s.wrk.ring, flashDump := if s.dump.held then s.dump.recs else [] } }
    let s := s.unpowered false
    if s.pins.pwrEn then s.startBring 0 0 else s)

/-- INPUT_POWER_LOSS (R423). -/
def execInputPowerLoss (s : State) : Host.Outcome State Fault Refusal := .next (if s.pins.vin then s.unpowered true else s)

/-! ### Log and wear (R405, R419, R489, R490) -/

/-- HEARTBEAT (R405). -/
def execHeartbeat (s : State) : Host.Outcome State Fault Refusal :=
  .next (if s.pins.pwrGood then { s with esc := { s.esc with heartbeat := s.esc.heartbeat + 1 } } else s)

/-- The last 256 entries of the ring, oldest first. -/
def Wrk.last256 (w : Wrk) : List (BitVec 512) :=
  let n := min 256 w.seq.toNat
  (List.range n).filterMap fun k => let e := tget 0 w.ring ((w.seq.toNat - n + k) % 32768); if e = 0 then none else some e

/-- WRACKLINE_FLASH_COPY (R419). -/
def execWracklineFlashCopy (s : State) : Host.Outcome State Fault Refusal :=
  .next (if s.pins.pwrGood then { s with wrk := { s.wrk with flash := s.wrk.last256 } } else s)

/-- A unit that has wear indicators (R459). -/
def wearUnit (cls index : Nat) : Bool := decide ((cls = 0 ∧ index < 2) ∨ (cls = 1 ∧ index < 12) ∨ (cls = 2 ∧ index < 288))

/-- One indicator's sample and fit (R489). -/
def State.wear (s : State) (old : Nat) (w : WearSample) : State :=
  if !wearUnit w.cls w.index then s else
  let k := w.cls * 4096 + w.index
  let h := s.wer.hours.toNat
  let early := decide (h < 500)
  let low := if early then 0 else w.low
  let fell := decide (¬ h < 500 ∧ low.toNat < 2000 ∧ (old < 500 ∨ 2000 ≤ (tget 0 s.wer.low k).toNat))
  let s := { s with wer := { s.wer with drift := tset 0 s.wer.drift k w.drift, mid := tset 0 s.wer.mid k (if early then BitVec.ofNat 32 (52560 - h) else w.mid)
                                        low := tset 0 s.wer.low k low, high := tset 0 s.wer.high k (if early then 0xFFFFFFFF else w.high) } }
  if fell then s.log { code := 0x0A05, sev := 1, unit := match w.cls with | 0 => 1 | 1 => 4 | _ => 5
                       num := if w.cls = 2 then w.index / 36 else w.index, phys := if w.cls = 2 then w.index / 36 else w.index, data := k + low.toNat * 2 ^ 16 } else s

/-- WEAR_SAMPLE (R489): the hour's samples; hours never run backwards. -/
def execWearSample (hours : Nat) (samples : List WearSample) (s : State) : Host.Outcome State Fault Refusal :=
  .next (if !s.pins.pwrGood ∨ hours < s.wer.hours.toNat then s else
    let old := s.wer.hours.toNat
    samples.foldl (fun s w => s.wear old w) { s with wer := { s.wer with hours := BitVec.ofNat 32 hours } })

/-- PLDM_SENSOR_REQUEST (R490): voltage, current, power and temperatures, numbered 0 to 6 (log 24); the current is free. The
management bus answers in standby too. -/
def execPldmSensorRequest (sensor : Nat) (s : State) : Host.Outcome State Fault Refusal :=
  .next (if !s.pins.vin then s else
    match sensor with
    | 0 => s.emit (.mgmt (toLE 4 s.pwr.vin.toNat))
    | 1 => let (k, s) := s.draw; s.emit (.mgmt (toLE 4 k))
    | 2 => s.emit (.mgmt (toLE 4 s.pwr.pin.toNat))
    | 3 => s.emit (.mgmt (toLE 4 s.pwr.tja.toNat))
    | 4 => s.emit (.mgmt (toLE 4 s.pwr.tjb.toNat))
    | 5 => s.emit (.mgmt (toLE 4 s.pwr.tin.toNat))
    | 6 => s.emit (.mgmt (toLE 4 s.pwr.tout.toNat))
    | _ => let (k, s) := s.draw; s.emit (.mgmt (toLE 4 k)))

end Sys2Proof.Machine
end

