-- ==== Sys2Proof/Machine/BringUp.lean ====
section
/-! DEFINITION. Bring-up: stages and what they find, the edge's power-up sequence, the PCIe link (spec/16, spec/19 R477, spec/15
R407, R427). -/
namespace Sys2Proof.Machine

/-! ### Units that fail (R410, R411, R431) -/

/-- Set bits of a bitmap from a position on, as offsets. -/
def bitsFrom (b : BitVec 384) (lo n : Nat) : List Nat := (List.range n).filter fun i => b.getLsbD (lo + i)

/-- The log entries of engines that fail a known-answer run: formats whose digest differs and the physical number (R434, log 86). -/
def State.logFailed (s : State) (flaws : List Flaw) (xs : List Nat) : State :=
  xs.foldl (fun s x => s.log { code := 0x0404, sev := 2, unit := 3, num := s.remap.engNum x, phys := x, data := kaFails flaws x + x * 2 ^ 3 }) s

/-- A physical engine fenced, its number passed on. -/
def State.fenceEng (s : State) (x : Nat) : State :=
  if s.remap.fencedEng.contains x then s else
  ({ s with remap := { s.remap with fencedEng := sins s.remap.fencedEng x } }).passOn x

/-- A physical panel fenced: the logical panel it carries is replaced. -/
def State.fencePan (s : State) (x : Nat) : State :=
  match (List.range 32).find? fun p => s.remap.panel p = x ∧ s.remap.present p with
  | some p => s.replacePanel p
  | none => { s with remap := { s.remap with fencedPan := sins s.remap.fencedPan x } }

/-- Spare engines taken on die d between two tables. -/
def Remap.spentEng (a b : Remap) (d : Nat) : Nat :=
  sumN ((List.range 16).map fun k =>
    if a.panel (16 * d + k) = b.panel (16 * d + k) then ((List.range 16).filter fun e => a.eng (16 * d + k) e ≠ b.eng (16 * d + k) e).length else 0)
/-- Spare panels taken on die d. -/
def Remap.spentPan (a b : Remap) (d : Nat) : Nat :=
  ((List.range 16).filter fun k => a.panel (16 * d + k) ≠ b.panel (16 * d + k)).length

/-! ### Stacks (R299, R436) -/

/-- Every frame of a stack whose saved data was refused is poisoned. -/
def State.poisonStack (s : State) (k : Nat) : State :=
  (s.pager.frames.filter fun x => x.2 = k + 1).foldl (fun s x => s.poisonRange (x.1 * 2 ^ 21) (2 ^ 21)) s

/-! ### What a stage does -/

/-- The failures of a stage on die d (R431, R432, R314). -/
def State.stageFail (s : State) (stage d : Nat) (b : BitVec 384) : State :=
  match stage with
  | 4 | 6 =>
    let s := if stage = 4 then (bitsFrom b 320 17).foldl (fun s p => s.fencePan (17 * d + p)) s else s
    (bitsFrom b 0 289).foldl (fun s e => s.fenceEng (289 * d + e)) s
  | 5 =>
    let s := (bitsFrom b 0 17).foldl (fun s p => s.fencePan (17 * d + p)) s
    (bitsFrom b 32 289).foldl (fun s e => s.fenceEng (289 * d + e)) s
  | 7 =>
    (List.range 16).foldl (fun s i => (List.range 8).foldl (fun s k =>
      let p := s.port (16 * d + i)
      if !p.en ∨ !p.hasSub k ∨ p.sub k = 3 ∨ p.sub k = 4 then s
      else s.endTraining (16 * d + i) k (if b.getLsbD (8 * i + k) then 0 else 0xFF)) s) s
  | _ => s

/-- Spare lasers taken in S7 on die d: from which Strand engine each comes is free. -/
def State.takeLasers (s : State) (d n : Nat) : State :=
  let (k, s) := s.draw
  (List.range n).foldl (fun s j =>
    let e := 4 * d + Config.freeNat (k + j) % 4
    let x := (s.fab.strands[e]?).getD {}
    { s with fab := { s.fab with strands := s.fab.strands.setIfInBounds e { x with spares := if x.spares = 0 then 0 else x.spares - 1, spent := x.spent + 1 } } }) s

/-- The spare lasers of a Strand engine that the fuse map leaves (R430): up to four. -/
def fusedSpares (e : Nat) : Nat := Config.moduleConst (32 + e) % 5
/-- `SPARES` reads its true value once bring-up has read the fuse map and the remap data (R313, R432): what the fuses leave less what was
switched in. -/
def State.readSpares (s : State) : State :=
  { s with fab := { s.fab with strands := Vector.ofFn fun e => let x := (s.fab.strands[e.val]?).getD {}; { x with spares := BitVec.ofNat 8 (fusedSpares e.val - x.spent) } } }

/-- Does the module refuse a unit's saved data by itself (R435): refused before, captured at a junction temperature more than 20 °C away, or
more than 720 h of operation ago? -/
def State.staleData (s : State) (t : Train) (d : Nat) : Bool :=
  let now := (if d = 0 then s.pwr.tja else s.pwr.tjb).toNat
  !t.ok || decide (t.temp + 20 < now ∨ now + 20 < t.temp ∨ t.hour + 720 < s.wer.hours.toNat)

/-- The saved training data of a stage on die d after it (R435, R436): refused data goes, a training that succeeds is captured. -/
def State.capture (s : State) (stage d : Nat) (b : BitVec 384) (warm : Bool) (refused : List Nat) : State :=
  let kept := s.bru.saved.filter fun t => !refused.contains t.unit
  let got := if stage = 3 then (List.range 6).map fun k => 6 * d + k
    else if stage = 7 then (List.range 128).filterMap fun l =>
      let n := 16 * d + l / 8
      if b.getLsbD (8 * (l / 8) + (s.port n).subOf (l % 8)) then none else some (16 + 8 * n + l % 8)
    else []
  let new := got.filter fun u => !warm || !(kept.any fun t => t.unit = u)
  let temp := (if d = 0 then s.pwr.tja else s.pwr.tjb).toNat
  { s with bru := { s.bru with saved := kept.filter (fun t => !new.contains t.unit) ++ new.map fun u => { unit := u, hour := s.wer.hours.toNat, temp := temp } } }

/-- One partition's work in a stage, with its report (R439): result 0x02 for units absent or EXCLUDED before 0x04 for refused
data before 0x01 for spares taken (log 25). -/
def State.stagePart (s : State) (stage d : Nat) (b : BitVec 384) (las : Nat) (f : StageFacts) (fatal : Option Nat) : State :=
  let path := s.bru.path.toNat
  let warm : Bool := path = 1 || path = 2 || path = 5
  let mine (u : Nat) : Bool := if stage = 3 then decide (u < 12 ∧ u / 6 = d) else if stage = 7 then decide (16 ≤ u ∧ u < 272 ∧ (u - 16) / 128 = d) else false
  let refused := if warm then ((f.refused ++ (s.bru.saved.filter (s.staleData · d)).map (·.unit)).eraseDups).filter mine else []
  let cold := if warm ∧ stage = 3 then (List.range 6).map (6 * d + ·) |>.filter fun u => !(s.bru.saved.any fun t => t.unit = u) else []
  let old := s.remap
  let s := s.stageFail stage d b
  let s := if stage = 7 ∧ 0 < las then s.takeLasers d las else s
  let s := if stage = 3 then (refused ++ cold).foldl (fun s u => s.poisonStack u) s else s
  let s := s.capture stage d b warm refused
  let eng := old.spentEng s.remap d
  let pan := old.spentPan s.remap d
  let gone := decide (old.absent.length < s.remap.absent.length) || (stage = 7 && b ≠ 0)
  let result := match fatal with
    | some r => r
    | none => if gone then 2 else if !refused.isEmpty then 4 else if 0 < eng + pan + las then 1 else 0
  let bits := if stage = 3 then refused.foldl (fun n u => Nat.lor n (2 ^ (8 + u % 6))) b.toNat else b.toNat
  s.report stage result path (d + 1) f.time eng pan las bits

/-- S0 restores what flash holds (R419): the ring and dump of a handshake, or the last 256 entries. -/
def State.restoreLog (s : State) : State :=
  let w := s.wrk
  let ring := if w.flashRing.isEmpty then w.flash.foldl (fun t e => tset 0 t (BV.fld e 400 32 % 32768) e) w.ring else w.flashRing
  let s := { s with wrk := { w with ring := ring, flashRing := [], flashDump := [] } }
  if w.flashDump.isEmpty then s else { s with dump := { held := true, recs := w.flashDump } }.escSet (2 ^ 62)

/-- A fatal result stops bring-up (R440). -/
def State.stopBring (s : State) : State := { s with bru := { s.bru with running := false, fatal := true } }.hold 0 2

/-- S8 (R426, R463, R438): ready; the security version is burnt after a cold bring-up; what waited goes on. -/
def State.stageReady (s : State) (path : Nat) : State :=
  let s := { s with bru := { s.bru with running := false, stage := 8 } }
  let s := s.report 8 0 path 0 0 0 0 0 0
  if path = 2 then s else
  let st : BitVec 4 := if s.pwr.target = some 2 then 2 else 1
  let late := s.bru.deferred
  let s := { s with bru := { s.bru with ready := true, deferred := false }, pwr := { s.pwr with st := st, cause := 0, target := none, rails := true } }.hold 0 2
  let s := { s with pwr := s.pwr.shown }
  let v := BitVec.ofNat 8 (Config.moduleConst 5 % 64)
  let s := if path = 0 ∧ s.sec.otpSvn < v then { s with sec := { s.sec with otpSvn := v } } else s
  let s := if path = 5 then s.pwrSet (2 ^ 60) else s
  if late then s.resetReq 5 0 2 else s

/-- A stage ends (R426 to R440): measurements, work, reports; then the next stage the path runs. -/
def State.stageEnd (s : State) (f : StageFacts) : State :=
  let stage := s.bru.stage.toNat
  let path := s.bru.path.toNat
  let fatal := match f.fatal with
    | some r => if 0x80 ≤ r ∧ r ≤ 0x82 ∧ stage < 7 then some r else none
    | none => none
  let s := f.digests.foldl (fun s d => s.extend d.1 d.2) s
  let s := match stage with
    | 0 =>
      let s := if path = 0 then s.restoreLog else s
      let s := [1, 2].foldl (fun s k => if f.failA.getLsbD k then s.log { code := 0x0B03, sev := 5, unit := 7, data := k } else s) s
      s.report 0 (fatal.getD 0) path 0 f.time 0 0 0 f.failA.toNat
    | 2 => s.report 2 (fatal.getD 0) path 0 f.time 0 0 0 f.failA.toNat
    | 6 => (s.bru.parts 6).foldl (fun s p =>
        let bad := kaBad f.flaws (((List.range 289).map (289 * (p - 1) + ·)).filter fun x => !s.remap.fencedEng.contains x)
        (s.logFailed f.flaws bad).stagePart 6 (p - 1) (BitVec.ofNat 384 (sumN (bad.map fun x => 2 ^ (x % 289)))) 0 f fatal) s
    | _ => (s.bru.parts stage).foldl (fun s p => s.stagePart stage (p - 1) (if p = 2 then f.failB else f.failA) (if p = 2 then f.lasB else f.lasA) f fatal) s
  if fatal.isSome then s.stopBring
  else if stage = 7 then s.stageReady path
  else
    let s := if stage = 1 then { s.readSpares with pwr := { s.pwr with rails := true } } else s
    let s := if stage = 5 ∧ path ≠ 2 then { s with frame := 0, tickRun := true } else s
    if stage = 0 ∧ s.pins.perst then s else s.skipStages (stage + 1) 9

/-- BRINGUP_STAGE_END (R426): S0 ends only on a qualified input, and once; S1 waits for PERST# (R427). -/
def execBringupStageEnd (facts : StageFacts) (s : State) : Host.Outcome State Fault Refusal :=
  .next (if !s.bru.running ∨ !s.awake ∨ !s.pins.pwrGood ∨ (s.bru.stage = 0 ∧ !s.bru.reports.isEmpty) then s else s.stageEnd facts)

/-! ### The module edge (R477, R407, R427) -/

/-- INPUT_POWER_APPLIED (R477): standby. -/
def execInputPowerApplied (mv : Nat) (s : State) : Host.Outcome State Fault Refusal :=
  .next (if s.pins.vin then s else
    { s with pins := { s.pins with vin := true, presentLow := true }, pwr := { s.pwr with vin := BitVec.ofNat 16 (mv / 10) } })

/-- PWR_EN_RISE (R477, R478, R484): S0 begins; during the handshake it only stands for later. A trip ends with the `PWR_EN` cycle. -/
def execPwrEnRise (s : State) : Host.Outcome State Fault Refusal :=
  .next (if !s.pins.vin ∨ s.pins.pwrEn then s
    else if s.pins.handshake then { s with pins := { s.pins with pwrEn := true } }
    else { s with pins := { s.pins with pwrEn := true } }.startBring 0 0)

/-- INPUT_QUALIFIED (R477): `PWR_GOOD` rises, or S0 ends with result 0x82 while the input is outside 56 to 66 V. -/
def execInputQualified (mv : Nat) (s : State) : Host.Outcome State Fault Refusal :=
  .next (if !s.awake ∨ s.pins.pwrGood ∨ !s.bru.running then s else
    let s := { s with pwr := { s.pwr with vin := BitVec.ofNat 16 (mv / 10) } }
    if 56000 ≤ mv ∧ mv ≤ 66000 then { s with pins := { s.pins with pwrGood := true } }
    else (s.report 0 0x82 s.bru.path.toNat 0 0 0 0 0 1).stopBring)

/-- PERST_ASSERT (R407): a full module reset; before power is good it only holds the dies and the link. -/
def execPerstAssert (s : State) : Host.Outcome State Fault Refusal :=
  .next (if s.pins.perst then s else
    let s := { s with pins := { s.pins with perst := true }, host := { s.host with link := false, training := false } }
    if s.pins.pwrGood then s.resetReq 6 0 2 else s)

/-- PERST_DEASSERT (R427, R477): the link trains and S1 follows S0; after a full module reset bring-up restarts at S0. -/
def execPerstDeassert (s : State) : Host.Outcome State Fault Refusal :=
  .next (if !s.pins.perst ∨ !s.pins.pwrGood then s else
    let s := { s with pins := { s.pins with perst := false }, host := { s.host with training := true } }
    if !s.awake then s
    else if s.bru.path = 6 then s.startBring 6 0
    else if s.bru.running ∧ s.bru.stage = 0 ∧ !s.bru.reports.isEmpty then s.skipStages 1 9
    else s)

/-- INTERNAL_LINK_RELEASE (R407): the link that a level 0x6 request took down trains again. -/
def execInternalLinkRelease (s : State) : Host.Outcome State Fault Refusal :=
  .next (if s.awake ∧ s.pins.pwrGood ∧ !s.pins.perst ∧ !s.host.link then { s with host := { s.host with training := true } } else s)

/-- PCIE_LINK_TRAINED (R427). -/
def execPcieLinkTrained (s : State) : Host.Outcome State Fault Refusal :=
  .next (if s.host.training then { s with host := { s.host with link := true, training := false } } else s)

end Sys2Proof.Machine
end

