-- ==== Sys2Proof/Machine/ResetCmds.lean ====
section
/-! DEFINITION. The reset commands: requests, faults, bounds, completion, the dump's end, function-level resets (spec/15 R398 to R422,
spec/17 R443, spec/10 R290). -/
namespace Sys2Proof.Machine

/-! ### Completion (R399, R402, R410, R411) -/

/-- A context reset ends: its slots are ABANDONED at the next tick (R275), its streams are to be joined again, its Panel SRAM and Skeins are
lost (R423). -/
def State.endCtx (s : State) (c : Nat) : State :=
  let s := (List.range 64).foldl (fun s n => if (s.slot n).busyNow ∧ (s.slot n).ctx.toNat = c then s.setSlot n { s.slot n with leave := some (.abandoned, 0, 0) } else s) s
  let s := { s with fab := { s.fab with streams := s.fab.streams.filter (·.ctx ≠ c), rates := s.fab.rates.filter (·.ctx ≠ c)
                                        peers := s.fab.peers.map fun (p : Peer) => if p.ctx = c then { p with joined := false, joining := false, held := false } else p } }
  let s := s.setCtx c { s.ctx c with resetting := false, flags := [] }
  { s with panels := s.panels.map fun (p : Panel) => if p.lastCtx = some c then { p with lastCtx := some 16 } else p }

/-- Engines in reset inside a domain have been tested with it and return to service (R409, R410). -/
def State.freeEngines (s : State) (l d : Nat) : State :=
  { s with remap := { s.remap with resetting := s.remap.resetting.filter fun x => !s.remap.domIn (l, d) (2, x) } }

/-- An engine or a panel is tested as its own reset ends (R409, R434): S6 for the engine, S5 and S6 for the panel's sequencer and 17 engines,
with their reports. What fails is replaced at the next frame boundary (R410, R411). -/
def State.endUnit (s : State) (l d : Nat) (seqOk : Bool) (flaws : List Flaw) : State :=
  let bits (xs : List Nat) : Nat := sumN (xs.map fun x => 2 ^ (x % 289))
  if l = 2 then
    let bad := kaBad flaws [d]
    let s := (s.logFailed flaws bad).report 6 (if bad.isEmpty then 0 else 1) 4 (d / 289 + 1) 0 bad.length 0 0 (bits bad)
    if bad.isEmpty then s else { s with remap := { s.remap with failedEng := sins s.remap.failedEng d } }
  else
    let x := s.remap.panel d
    let bad := kaBad flaws ((List.range 17).map fun e => 17 * x + e)
    let passed := seqOk && bad.isEmpty
    let spare := (s.remap.sparePanel (d / 16)).isSome
    let r := if passed then 0 else if spare then 1 else 2
    let n := if passed ∨ !spare then 0 else 1
    let s := ((s.logFailed flaws bad).report 5 (if seqOk then 0 else r) 3 (d / 16 + 1) 0 0 (if seqOk then 0 else n) 0 (if seqOk then 0 else 2 ^ (x % 17))).report
      6 (if bad.isEmpty then 0 else r) 3 (d / 16 + 1) 0 0 (if seqOk then n else 0) 0 (bits bad)
    if passed then s else { s with remap := { s.remap with failedPan := sins s.remap.failedPan d } }

/-- What a level does as its reset ends, after the tests of the engine or panel that it resets and of those it subsumed (R409). -/
def State.endLevel (s : State) (l d : Nat) (passed : Bool) (flaws : List Flaw) : State :=
  let units := s.esc.tests ++ (if l = 2 ∨ l = 3 then [(l, d)] else [])
  let s := { s with esc := { s.esc with tests := [] } }
  let s := units.foldl (fun s q => s.endUnit q.1 q.2 passed flaws) s
  match l with
  | 1 => s.endCtx d
  | 2 => s.freeEngines 2 d
  | 3 => s.freeEngines 3 d
  | 4 =>
    let s := s.freeEngines 4 d
    (List.range 16).foldl (fun s c =>
      let s := if (s.ctx c).resetting ∧ !s.outWrites c 0 ∧ !s.outWrites c 1 then s.endCtx c else s
      if (s.ctx c).st = .dying ∧ !s.outWrites c 0 ∧ !s.outWrites c 1 then s.freeCtx c else s) s
  | _ => s.freeEngines 5 0

/-- Is the end condition of the reset in progress met? A context has no write outstanding, the stages of a partition or module
reset have run. -/
def State.resetOver (s : State) : Bool :=
  match s.esc.active with
  | 0 => false
  | 1 => !s.outWrites s.esc.domain 0 && !s.outWrites s.esc.domain 1
  | 2 | 3 => true
  | 4 => !s.bru.running
  | _ => !s.bru.running && s.bru.ready

/-- RESET_COMPLETE (R399, R408): the domain's end with what its tests found, the status, then the first queued fault at the next tick,
then a power-state request that waited (R487). -/
def execResetComplete (tests : ResetTests) (elapsed : Nat) (s : State) : Host.Outcome State Fault Refusal :=
  .next (if !s.awake ∨ !s.resetOver then s else
    let l := s.esc.active
    let s := s.endLevel l s.esc.domain tests.passed tests.flaws
    let e := (((s.esc.put 52 4 l).put 48 4 (if s.esc.escal then 2 else 1)).put 0 32 elapsed)
    let s := { s with esc := { e with active := 0, domain := 0, escal := false, queue := e.queue.drop 1, waiting := e.waiting ++ e.queue.take 1 } }
    match s.pwr.waiting with
    | some k => { s with pwr := { s.pwr with waiting := none } }.powerReq k
    | none => s)

/-- RESET_BOUND_EXPIRY (R401): one level up the ladder, for a context each partition that still holds its writes, one after the other; at
the fast path the module waits for the host. -/
def execResetBoundExpiry (s : State) : Host.Outcome State Fault Refusal :=
  let l := s.esc.active
  .next (if !s.awake ∨ l = 0 ∨ 6 ≤ l then s
    else if l = 5 then { s with esc := s.esc.put 48 4 4 }.escSet (2 ^ 63)
    else if l = 1 ∧ !s.outWrites s.esc.domain 0 ∧ !s.outWrites s.esc.domain 1 then s
    else
      let u := s.above (l, s.esc.domain)
      if l = 1 ∧ s.outWrites s.esc.domain 0 ∧ s.outWrites s.esc.domain 1 then
        let s := s.beginReset 4 0 3 true
        { s with esc := { s.esc with queue := s.esc.queue ++ [(4, 1, 3)] } }
      else s.beginReset u.1 u.2 3 true)

/-! ### Requests (R406, R443) -/

/-- CONTEXT_RESET (R399). -/
def execContextReset (ctx : Nat) (s : State) : Host.Outcome State Fault Refusal := .next (if s.hostUp 0 then s.resetReq 1 ctx 2 else s)
/-- ENGINE_RESET (R399): the physical engine that carries the logical one. -/
def execEngineReset (panel engine : Nat) (s : State) : Host.Outcome State Fault Refusal :=
  .next (if s.hostUp 0 then s.resetReq 2 (s.remap.eng panel engine) 2 else s)
/-- PANEL_RESET (R399). -/
def execPanelReset (panel : Nat) (s : State) : Host.Outcome State Fault Refusal := .next (if s.hostUp 0 then s.resetReq 3 panel 2 else s)
/-- PARTITION_RESET (R399). -/
def execPartitionReset (part : Nat) (s : State) : Host.Outcome State Fault Refusal := .next (if s.hostUp 0 then s.resetReq 4 part 2 else s)
/-- MODULE_FAST_PATH_RESET (R399). -/
def execModuleFastPathReset (s : State) : Host.Outcome State Fault Refusal := .next (if s.hostUp 0 then s.resetReq 5 0 2 else s)
/-- FULL_MODULE_RESET (R407). -/
def execFullModuleReset (s : State) : Host.Outcome State Fault Refusal := .next (if s.hostUp 0 then s.resetReq 6 0 2 else s)
/-- CRASH_DUMP_ONLY (R406, R420). -/
def execCrashDumpOnly (s : State) : Host.Outcome State Fault Refusal := .next (if s.hostUp 0 then s.dumpReq else s)

/-- HARDWARE_FAULT (R398, R404): charged to its domain. A faulty engine's running segment is poisoned at once. -/
def execHardwareFault (dom : FaultDom) (s : State) : Host.Outcome State Fault Refusal :=
  .next (match dom with
    | .engine p e =>
      let s := if s.awake then s.setPanel p { s.panel p with tainted := (s.panel p).tainted || (s.panel p).seg.isSome } else s
      s.resetReq 2 (s.remap.eng p e) 1
    | .panel p => s.resetReq 3 p 1
    | .ctx c => s.resetReq 1 c 1
    | .part d => s.resetReq 4 d 1
    | .module => s.resetReq 5 0 1)

/-- FLR_PF0 (R443, R452). -/
def execFlrPf0 (s : State) : Host.Outcome State Fault Refusal :=
  .next (if s.host.link then (s.discardTxn 0).resetReq 5 0 2 else s)

/-- FLR_VF (R443, R452): a context reset of the function's context. -/
def execFlrVf (fn : Nat) (s : State) : Host.Outcome State Fault Refusal :=
  .next (if s.host.link ∧ fn ≠ 0 then (s.discardTxn fn).resetReq 1 fn 2 else s)

/-- TEARDOWN_TIMEOUT (R290): each partition that still holds writes of a DYING context resets, one after the other (R409). -/
def execTeardownTimeout (ctx : Nat) (s : State) : Host.Outcome State Fault Refusal :=
  .next (if (s.ctx ctx).st ≠ .dying then s else
    [0, 1].foldl (fun t d => if s.outWrites ctx d then t.resetReq 4 d 4 else t) s)

/-! ### The dump ends (R421) -/

/-- DUMP_UNIT_TIMEOUT (R421): a unit of those still to answer, which one is free, is recorded unreachable, for want of an answer or because
the ring is broken before it (free, log 23); those before it have answered. -/
def execDumpUnitTimeout (s : State) : Host.Outcome State Fault Refusal :=
  let n := s.dumpUnits.length
  .next (if !s.dump.collecting ∨ n ≤ s.dump.next then s else
    let (k, s) := s.draw
    let i := s.dump.next + k % (n - s.dump.next)
    let s := s.dumpTo i
    let u := nth (0, 0, 0) s.dumpUnits i
    { s with dump := { s.dump with next := i + 1, recs := s.dump.recs ++ [{ cls := u.1, logical := u.2.1, phys := u.2.2, len := 16, status := if k / n % 2 = 0 then 1 else 3 }] } })

/-- CRASH_DUMP_COMPLETE (R420, R421): the remaining units have answered; the dump is held. -/
def execCrashDumpComplete (s : State) : Host.Outcome State Fault Refusal :=
  .next (if !s.dump.collecting then s else
    let s := s.dumpTo s.dumpUnits.length
    { s with dump := { s.dump with collecting := false, held := true } }.escSet (2 ^ 62))

end Sys2Proof.Machine
end

