-- ==== Sys2Proof/Machine/Regs.lean ====
section
/-! DEFINITION. Register pages, their reads and writes, and transactions (spec/17 R446 to R459, spec/15 R406, R408). -/
namespace Sys2Proof.Machine

/-! ### Pages (R443, R447, R450, R454, R455) -/

/-- Does a slot belong to a function's context (R456)? -/
def State.owns (s : State) (fn n : Nat) : Bool := ((s.host.slotOwn[n]?).getD 0).toNat = fn
/-- The register at a BAR0 offset of a function, its 8 bytes; none where no page lies there. -/
def State.regAt (s : State) (fn ofs : Nat) : Option Reg :=
  (if fn = 0 then pf0Page ofs else vfPage fn (s.owns fn) ofs).map fun p => ⟨p.1, p.2, ofs % 4096 / 8 * 8⟩
/-- The register a write selects. -/
def State.regOf (s : State) (fn : Nat) : RegSel → Option Reg
  | .addr o => s.regAt fn o
  | .name r => some r
/-- The partition of a Headland page that belongs to one. -/
def pagePart (blk inst : Nat) : Option Nat :=
  if blk ≤ 6 then some (inst / 16) else if blk = 0x0C then some (inst / 16) else if blk = 0x0A ∨ blk = 0x0E then some inst else none
/-- Is a page reachable (R404, R427)? Headland pages are from S5 on while the dies run, but not those of a resetting partition. -/
def State.pageUp (s : State) (blk inst : Nat) : Bool :=
  pageHarbour blk || (s.tickRun && !(s.esc.active = 4 && pagePart blk inst = some s.esc.domain))
/-- `LIVE` of a page (R450). -/
def State.pageLive (s : State) (blk inst : Nat) : Bool :=
  if blk ≤ 6 then (s.panel inst).seg.isSome
  else if blk = 7 then (if inst < 16 then s.live inst else (s.slot (inst - 16)).busyNow)
  else if blk = 8 ∨ blk = 9 then s.live inst
  else if blk = 0x0B ∨ blk = 0x0A ∨ blk = 0x0C ∨ blk = 0x0D ∨ blk = 0x0E ∨ blk = 0x0F then s.anyLive
  else false

/-! ### What the settings hold -/

/-- `PRT_CTRL` of a port (R312). -/
def Port.ctrl (p : Port) : BitVec 64 := BitVec.ofNat 64 (p.laneEn.toNat * 2 ^ 8 + p.pfcEn.toNat * 2 ^ 7 + p.mode.toNat * 2 ^ 4 + p.en.toNat)
/-- `PRT_STATUS` of a port (R313): spares, lanes in use, sub-port states. -/
def Port.status (p : Port) (spares : Nat) : BitVec 64 :=
  let up := (List.range 8).foldl (fun m k => if p.sub k = 3 ∨ p.sub k = 4 then m ||| (p.lanes[k]?).getD 0 else m) (0 : BitVec 8)
  BitVec.ofNat 64 (spares * 2 ^ 56 + up.toNat * 2 ^ 48 + sumN ((List.range 8).map fun k => if p.hasSub k then (p.sub k).toNat * 2 ^ (4 * k) else 0))
/-- Byte fields of a list of eight. -/
def pack8 (l : List Nat) : Nat := sumN ((List.range 8).map fun k => nth 0 l k % 256 * 2 ^ (8 * k))
/-- Congestion constant k (R331). -/
def Cong.get (c : Cong) (k : Nat) : Nat :=
  match k with | 0 => c.gainDen | 1 => c.decNs | 2 => c.decayNum | 3 => c.decayDen | 4 => c.incNs | 5 => c.incDen | _ => c.floorDen
/-- Congestion constant k set. -/
def Cong.set (c : Cong) (k v : Nat) : Cong :=
  match k with
  | 0 => { c with gainDen := v } | 1 => { c with decNs := v } | 2 => { c with decayNum := v } | 3 => { c with decayDen := v }
  | 4 => { c with incNs := v } | 5 => { c with incDen := v } | 6 => { c with floorDen := v } | _ => c

/-- How far a register lies past an offset of its page. -/
def Reg.past (r : Reg) (o : Nat) : Nat := r.ofs - o

/-- The stored content of a register with settings; write-only command bits read 0. The job seed is kept here only so that a
write of one half leaves the other (R446). -/
def State.setting (s : State) (r : Reg) : BitVec 64 :=
  let i := r.inst
  let x := s.ctx i
  let n (k : Nat) : BitVec 64 := BitVec.ofNat 64 k
  match r.blk with
  | 0x17 => if r.ofs < 0x120 ∧ 0x100 ≤ r.ofs ∧ i = 0 then
      n (sumN ((List.range 16).map fun k => ((s.host.slotOwn[(r.ofs - 0x100) / 8 * 16 + k]?).getD 0).toNat * 2 ^ (4 * k))) else 0
  | 0x07 =>
    if i < 16 then
      match r.ofs with
      | 0x110 => n (x.cfg.hbmQ.toNat * 2 ^ 44 + x.cfg.spillQ.toNat * 2 ^ 24 + x.cfg.sramMin.toNat * 2 ^ 15 + x.cfg.panels.toNat * 2 ^ 9)
      | 0x128 => n (x.cfg.lsE.toNat * 2 ^ 56 + x.cfg.clean.toNat * 2 ^ 40 + x.cfg.interval.toNat * 2 ^ 24)
      | 0x130 => n (x.cfg.sealed.toNat * 2 ^ 32)
      | 0x138 => x.cfg.seed
      | 0x140 => n (x.cfg.job.toNat * 2 ^ 40 + x.cfg.rank.toNat * 2 ^ 20 + x.cfg.vlan.toNat * 2 ^ 8)
      | _ => 0
    else
      let y := s.slot (i - 16)
      match r.ofs with
      | 0x100 => n (y.irqEn.toNat * 2 ^ 61 + y.regCtx.toNat * 2 ^ 57)
      | 0x108 => n y.regImage.toNat
      | 0x110 => n y.regCpl.toNat
      | _ => 0
  | 0x14 => if r.ofs = 0x110 then n (s.pwr.cap.toNat * 2 ^ 48 + s.pwr.tcap.toNat * 2 ^ 40) else 0
  | 0x0F => if r.ofs = 0x100 then n (s.swt.exp.toNat * 2 ^ 60 + s.swt.trLimit.toNat * 2 ^ 56 + s.swt.trWin.toNat * 2 ^ 40) else 0
  | 0x0A => if 0x100 ≤ r.ofs ∧ r.ofs < 0x180 then n (s.quotaOf i ((r.ofs - 0x100) / 8) * 2 ^ 56) else 0
  | 0x09 =>
    if 0x1000 ≤ r.ofs ∧ r.ofs < 0x1010 then (match x.cfg.lenders[r.past 0x1000]? with | some k => n (2 ^ 20 + k) | none => 0)
    else if r.ofs = 0x1010 then n s.pager.reserve.toNat
    else if r.ofs = 0x1011 then x.cfg.hostBase else if r.ofs = 0x1012 then n x.cfg.hostPages.toNat else 0
  | 0x08 => if r.ofs = 0x1000 then n s.pager.threshold.toNat else 0
  | 0x0B =>
    if i < 16 then
      if r.ofs = 0x1000 ∨ r.ofs = 0x1001 then n (BV.fld x.cfg.grid (64 * (r.past 0x1000)) 64)
      else if 0x100000 ≤ r.ofs then n (BV.fld (x.entry ((r.past 0x100000) / 4)) (64 * ((r.past 0x100000) % 4)) 64) else 0
    else if r.ofs = 0x1010 then n s.fab.largest.toNat
    else if 0x1018 ≤ r.ofs ∧ r.ofs < 0x1020 then n (s.fab.cong.get (r.past 0x1018))
    else if 0x2000 ≤ r.ofs then n (BV.fld (tget 0 s.fab.groups ((i - 16) * 32 + (r.past 0x2000) / 8 % 32)) (64 * ((r.past 0x2000) % 8)) 64) else 0
  | 0x0C =>
    let p := s.port i
    if r.ofs = 0x1000 then p.ctrl
    else if r.ofs = 0x1002 then n (pack8 p.ets) else if r.ofs = 0x1003 then n (pack8 p.pcp) else if r.ofs = 0x1004 then n (pack8 p.dscp)
    else if 0x1200 ≤ r.ofs then n (nth 16 p.weights (r.past 0x1200))
    else if 0x1100 ≤ r.ofs then
      let sub := 8 * i + (r.past 0x1100) / 8
      match (r.past 0x1100) % 8 with
      | 0 => n (BV.fld (tget 0 s.fab.addrs sub) 0 48)
      | 1 => n (BV.fld (tget 0 s.fab.addrs sub) 48 32)
      | 2 => n (BV.fld (tget 0 s.fab.addrs sub) 80 64)
      | 3 => n (BV.fld (tget 0 s.fab.addrs sub) 144 64)
      | 4 => n (tget 0 s.fab.nextHop sub).toNat
      | _ => 0
    else 0
  | 0x0E =>
    if 0x1000 ≤ r.ofs ∧ r.ofs < 0x1010 then (s.ctx (r.past 0x1000)).cfg.finTwin
    else if 0x1020 ≤ r.ofs ∧ r.ofs < 0x1030 then (s.ctx (r.past 0x1020)).cfg.adopt else 0
  | 0x10 => if 0x1000 ≤ r.ofs ∧ r.ofs < 0x1008 then n (BV.fld x.cfg.ident (64 * (r.past 0x1000)) 64) else 0
  | _ => 0

/-- A context's settings changed. -/
def State.setCfg (s : State) (c : Nat) (f : CtxCfg → CtxCfg) : State := s.setCtx c { s.ctx c with cfg := f (s.ctx c).cfg }
/-- The lender list with entry k set, or cut there (log 30). -/
def setLender (l : List Nat) (k v : Nat) : List Nat :=
  if !bitOf v 20 then l.take k else if k < l.length then l.set k (fld v 0 20) else if l.length < 8 then l ++ [fld v 0 20] else l

/-- The writable bits of a group record (R336): `VALID`, `CTX` and the axes. -/
def grpMask : BitVec 512 := BitVec.ofNat 512 (2 ^ 512 - 2 ^ 507 + (2 ^ 294 - 1))
/-- The writable bits of a rank-table entry (R333). -/
def rankMask : BitVec 256 := BitVec.ofNat 256 (2 ^ 256 - 2 ^ 107)

/-- Settings of the slot owners, FNM page take a value. -/
def State.putFn (s : State) (r : Reg) (v : BitVec 64) : State :=
  let f (lo w : Nat) : Nat := BV.fld v lo w
  { s with host := { s.host with slotOwn := (List.range 16).foldl (fun l k => l.setIfInBounds ((r.past 0x100) / 8 * 16 + k) (BitVec.ofNat 4 (f (4 * k) 4))) s.host.slotOwn } }
/-- Settings of the GRF pages take a value. -/
def State.putGrf (s : State) (r : Reg) (v : BitVec 64) : State :=
  let i := r.inst
  let f (lo w : Nat) : Nat := BV.fld v lo w
  if i < 16 then
    match r.ofs with
    | 0x110 => s.setCfg i fun x => { x with hbmQ := BitVec.ofNat 20 (f 44 20), spillQ := BitVec.ofNat 20 (f 24 20), sramMin := BitVec.ofNat 9 (f 15 9), panels := BitVec.ofNat 6 (f 9 6) }
    | 0x128 => s.setCfg i fun x => { x with lsE := BitVec.ofNat 8 (f 56 8), clean := BitVec.ofNat 16 (f 40 16), interval := BitVec.ofNat 16 (f 24 16) }
    | 0x130 => s.setCfg i fun x => { x with sealed := BitVec.ofNat 32 (f 32 32) }
    | 0x138 => s.setCfg i fun x => { x with seed := v }
    | 0x140 => s.setCfg i fun x => { x with job := BitVec.ofNat 24 (f 40 24), rank := BitVec.ofNat 20 (f 20 20), vlan := BitVec.ofNat 12 (f 8 12) }
    | _ => s
  else
    let y := s.slot (i - 16)
    match r.ofs with
    | 0x100 => s.setSlot (i - 16) { y with irqEn := v.getLsbD 61, regCtx := BitVec.ofNat 4 (f 57 4) }
    | 0x108 => s.setSlot (i - 16) { y with regImage := BitVec.ofNat 48 (f 0 48) }
    | 0x110 => s.setSlot (i - 16) { y with regCpl := BitVec.ofNat 48 (f 0 48) }
    | _ => s
/-- Settings of the PWR page take a value. -/
def State.putPwr (s : State) (r : Reg) (v : BitVec 64) : State :=
  let f (lo w : Nat) : Nat := BV.fld v lo w
  if r.ofs = 0x110 then { s with pwr := { s.pwr with cap := BitVec.ofNat 16 (f 48 16), tcap := BitVec.ofNat 8 (f 40 8) } } else s
/-- Settings of the SWT page take a value. -/
def State.putSwt (s : State) (_r : Reg) (v : BitVec 64) : State :=
  let f (lo w : Nat) : Nat := BV.fld v lo w
  { s with swt := { s.swt with exp := BitVec.ofNat 4 (f 60 4), trLimit := BitVec.ofNat 4 (f 56 4), trWin := BitVec.ofNat 16 (f 40 16) } }
/-- Settings of the TDP pages take a value. -/
def State.putTdp (s : State) (r : Reg) (v : BitVec 64) : State :=
  let i := r.inst
  let f (lo w : Nat) : Nat := BV.fld v lo w
  let t := (s.tdp[i]?).getD {}
  { s with tdp := s.tdp.setIfInBounds i { t with quota := t.quota.setIfInBounds ((r.past 0x100) / 8) (BitVec.ofNat 8 (f 56 8)) } }
/-- Settings of the PGR page take a value. -/
def State.putPgr (s : State) (r : Reg) (v : BitVec 64) : State :=
  let i := r.inst
  let f (lo w : Nat) : Nat := BV.fld v lo w
  if r.ofs < 0x1010 then s.setCfg i fun x => { x with lenders := setLender x.lenders (r.past 0x1000) v.toNat }
  else if r.ofs = 0x1010 then { s with pager := { s.pager with reserve := BitVec.ofNat 20 (f 0 20) } }
  else if r.ofs = 0x1011 then s.setCfg i fun x => { x with hostBase := v }
  else s.setCfg i fun x => { x with hostPages := BitVec.ofNat 20 (f 0 20) }
/-- Settings of the HBM page take a value. -/
def State.putHbm (s : State) (_r : Reg) (v : BitVec 64) : State :=
  let f (lo w : Nat) : Nat := BV.fld v lo w
  { s with pager := { s.pager with threshold := BitVec.ofNat 16 (f 0 16) } }
/-- Settings of the LSH pages take a value. -/
def State.putLsh (s : State) (r : Reg) (v : BitVec 64) : State :=
  let i := r.inst
  let f (lo w : Nat) : Nat := BV.fld v lo w
  if i < 16 then
    if r.ofs < 0x100000 then s.setCfg i fun x => { x with grid := BV.put x.grid (64 * (r.past 0x1000)) (if r.ofs = 0x1000 then 64 else 32) v.toNat }
    else s.setCfg i fun x =>
      let k := (r.past 0x100000) / 4
      { x with ranks := tset 0 x.ranks k (BV.put (tget 0 x.ranks k) (64 * ((r.past 0x100000) % 4)) 64 v.toNat &&& rankMask) }
  else if r.ofs = 0x1010 then { s with fab := { s.fab with largest := BitVec.ofNat 14 (f 0 14) } }
  else if r.ofs < 0x2000 then { s with fab := { s.fab with cong := s.fab.cong.set (r.past 0x1018) v.toNat } }
  else
    let g := (i - 16) * 32 + (r.past 0x2000) / 8 % 32
    { s with fab := { s.fab with groups := tset 0 s.fab.groups g (BV.put (tget 0 s.fab.groups g) (64 * ((r.past 0x2000) % 8)) 64 v.toNat &&& grpMask) } }
/-- Word k of a sub-port's addresses takes a value: MAC, IPv4, the halves of IPv6, the next hop. -/
def State.putAddr (s : State) (sub k : Nat) (v : BitVec 64) : State :=
  let a := tget 0 s.fab.addrs sub
  let addr (lo w : Nat) : State := { s with fab := { s.fab with addrs := tset 0 s.fab.addrs sub (BV.put a lo w v.toNat) } }
  match k with
  | 0 => addr 0 48
  | 1 => addr 48 32
  | 2 => addr 80 64
  | 3 => addr 144 64
  | 4 => { s with fab := { s.fab with nextHop := tset 0 s.fab.nextHop sub (BitVec.ofNat 48 (BV.fld v 0 48)) } }
  | _ => s
/-- Settings of the PRT pages take a value. -/
def State.putPrt (s : State) (r : Reg) (v : BitVec 64) : State :=
  let i := r.inst
  let f (lo w : Nat) : Nat := BV.fld v lo w
  let p := s.port i
  if r.ofs = 0x1000 then s.setPort i { p with laneEn := BitVec.ofNat 8 (f 8 8), pfcEn := v.getLsbD 7, mode := BitVec.ofNat 2 (f 4 2), en := v.getLsbD 0 }
  else if r.ofs = 0x1002 then s.setPort i { p with ets := (List.range 8).map fun k => f (8 * k) 8 }
  else if r.ofs = 0x1003 then s.setPort i { p with pcp := (List.range 8).map fun k => f (8 * k) 3 }
  else if r.ofs = 0x1004 then s.setPort i { p with dscp := (List.range 8).map fun k => f (8 * k) 6 }
  else if 0x1200 ≤ r.ofs then s.setPort i { p with weights := p.weights.set (r.past 0x1200) (f 0 8) }
  else s.putAddr (8 * i + r.past 0x1100 / 8) (r.past 0x1100 % 8) v
/-- Settings of the FIN page take a value. -/
def State.putFin (s : State) (r : Reg) (v : BitVec 64) : State :=
  let f (lo w : Nat) : Nat := BV.fld v lo w
  if r.ofs < 0x1010 then s.setCfg (r.past 0x1000) fun x => { x with finTwin := BV.put x.finTwin 39 25 (f 39 25) }
  else s.setCfg (r.past 0x1020) fun x => { x with adopt := BV.put x.adopt 3 56 (f 3 56) }
/-- Settings of the identity pages take a value. -/
def State.putSgn (s : State) (r : Reg) (v : BitVec 64) : State :=
  let i := r.inst
  s.setCfg i fun x => { x with ident := BV.put x.ident (64 * (r.past 0x1000)) 64 v.toNat }
/-- A register's settings take a value; reserved, read-only and command bits are not stored. -/
def State.putSetting (s : State) (r : Reg) (v : BitVec 64) : State :=
  match r.blk with
  | 0x17 => s.putFn r v
  | 0x07 => s.putGrf r v
  | 0x14 => s.putPwr r v
  | 0x0F => s.putSwt r v
  | 0x0A => s.putTdp r v
  | 0x09 => s.putPgr r v
  | 0x08 => s.putHbm r v
  | 0x0B => s.putLsh r v
  | 0x0C => s.putPrt r v
  | 0x0E => s.putFin r v
  | 0x10 => s.putSgn r v
  | _ => s

/-- A staged write's value over the register's content: an unwritten half keeps it (R446). -/
def Staged.over (w : Staged) (old : BitVec 64) : BitVec 64 :=
  BitVec.ofNat 64 ((if w.hi then BV.fld w.val 32 32 else BV.fld old 32 32) * 2 ^ 32 + if w.lo then BV.fld w.val 0 32 else BV.fld old 0 32)
/-- The command bits a staged write carries: an unwritten half carries none. -/
def Staged.cmd (w : Staged) : BitVec 64 := w.over 0

/-! ### Rules a commit is checked by (R451, R456 to R459 and the rules they name) -/

/-- Is a graph of a context ADMITTING or RUNNING? -/
def State.busyCtx (s : State) (c : Nat) : Bool := !(s.liveSlots c).isEmpty
/-- Does a graph that is ADMITTING or RUNNING name a group record of its context (R337)? -/
def State.groupUsed (s : State) (g : Nat) : Bool :=
  (s.liveSlots (grpCtx (tget 0 s.fab.groups g))).any fun n => (s.slot n).graph.tasks.any fun d =>
    (TD.typ d ≤ 1 && TD.redid d ≠ 0 && TD.group d = g)
      || (TD.typ d = 5 && ((TD.variant d = 0 && TD.group d = g) || ((TD.variant d = 1 || TD.variant d = 3) && CB.cgroup (TD.spec d <<< 768) = g)))
/-- The create that a write of `GRF_CTX_CTRL` carries. -/
def State.createOf (s : State) (c : Nat) (v : BitVec 64) : Option State :=
  s.createCtx c (BV.fld v 49 4) (v.getLsbD 61) (BitVec.ofNat 8 (BV.fld v 53 8))

/-- Does a staged write keep the rules of its register? `s` is the state before the commit, `t` the state with every staged
setting in place and the creates before this write done. -/
def ruleOk (s t : State) (w : Staged) : Bool :=
  let r := w.reg
  let i := r.inst
  let q := (t.ctx i).cfg
  match r.blk with
  | 0x17 => (List.range 16).all fun k =>
      let n := (r.ofs - 0x100) / 8 * 16 + k
      s.host.slotOwn[n]? = t.host.slotOwn[n]? || !(s.slot n).busyNow
  | 0x07 =>
    if i < 16 then
      match r.ofs with
      | 0x100 => BV.fld w.cmd 62 2 ≠ 1 || (t.createOf i w.cmd).isSome
      | 0x110 => q.sramMin.toNat ≤ 384 && q.panels.toNat ≤ 32 && t.panelsOk && t.hbmOk && t.quotaKeeps i && (!t.live i || (t.ctx i).pagesOk)
      | 0x128 => (!w.hi || !s.busyCtx i) && decide (-126 ≤ q.lsE.toInt) && q.interval ≠ 0
      | 0x130 => !w.hi || !s.busyCtx i
      | 0x138 => !s.busyCtx i
      | 0x140 => !s.busyCtx i && q.rank.toNat ≤ 65535
      | _ => true
    else
      let v := w.cmd
      r.ofs ≠ 0x100 || (!(v.getLsbD 63 && v.getLsbD 62)
        && (!v.getLsbD 63 || (t.owns (t.slot (i - 16)).regCtx.toNat (i - 16) && (t.ctx (t.slot (i - 16)).regCtx.toNat).st ≠ .dying)))
  | 0x14 => r.ofs ≠ 0x110 || (1000 ≤ t.pwr.cap.toNat && t.pwr.cap.toNat ≤ 3800 && 70 ≤ t.pwr.tcap.toNat && t.pwr.tcap.toNat ≤ 104)
  | 0x0F => 3 ≤ t.swt.exp.toNat && t.swt.exp.toNat ≤ 12 && t.swt.trLimit ≠ 0 && t.swt.trWin ≠ 0
  | 0x0A =>
    let c := (r.ofs - 0x100) / 8
    t.quotaOf i c ≤ 128 && t.tdpOk && s.usedSlots i c ≤ t.quotaOf i c
      && (16 ≤ t.quotaOf i c || !((s.liveSlots c).any fun n => (s.slot n).graph.tasks.any fun d => TD.typ d = 5 && TD.variant d = 0))
  | 0x09 => if r.ofs = 0x1010 then t.hbmOk else true
  | 0x0B =>
    if i < 16 then true
    else if r.ofs = 0x1010 then 1024 ≤ t.fab.largest.toNat && t.fab.largest.toNat ≤ 8192 && t.fab.largest.toNat % 1024 = 0
    else if r.ofs < 0x2000 then t.fab.cong.get (r.past 0x1018) ≠ 0
    else
      let g := (i - 16) * 32 + (r.past 0x2000) / 8 % 32
      let x := tget 0 t.fab.groups g
      !s.groupUsed g && (!grpValid x || grpOk (t.ctx (grpCtx x)).cfg.grid x (t.live (grpCtx x)))
  | 0x0C => if 0x1200 ≤ r.ofs then nth 0 (t.port i).weights (r.past 0x1200) ≠ 0
    else if r.ofs = 0x1002 then sumN (t.port i).ets = 100 else true
  | _ => true

/-! ### What a commit does beside the settings -/

/-- A create of the commit. -/
def State.actCreate (s : State) (w : Staged) : State :=
  if w.reg.blk = 7 ∧ w.reg.inst < 16 ∧ w.reg.ofs = 0x100 ∧ BV.fld w.cmd 62 2 = 1 then (s.createOf w.reg.inst w.cmd).getD s else s

/-- A rank-table entry changed: the rank's streams end, and it is joined again (R333). -/
def State.rejoin (s : State) (c k : Nat) : State :=
  let known := s.fab.peers.any fun p => p.ctx = c && p.rank = k
  let s := { s with fab := { s.fab with streams := s.fab.streams.filter fun x => !(x.ctx = c && x.peer = k), peers := s.fab.peers.filter fun p => !(p.ctx = c && p.rank = k) } }
  if known ∧ s.live c ∧ entryValid ((s.ctx c).entry k) then (s.setPeer { ctx := c, rank := k, joining := true, tries := 1 }).sendJoin c k else s

/-- What a staged write does once every setting is in place; `s0` is the state before the commit. -/
def State.act (s0 s : State) (w : Staged) : State :=
  let r := w.reg
  let i := r.inst
  let v := w.cmd
  match r.blk with
  | 0x07 =>
    if i < 16 then
      if r.ofs = 0x100 ∧ BV.fld v 62 2 = 2 then s.teardownCtx i
      else if r.ofs = 0x140 ∧ w.hi then s.jobKey (s.ctx i).cfg.job else s
    else if r.ofs = 0x100 ∧ v.getLsbD 63 then s.armSlot (i - 16) (s.slot (i - 16)).regCtx.toNat (s.slot (i - 16)).irqEn
    else if r.ofs = 0x100 ∧ v.getLsbD 62 then s.cancelSlot (i - 16) else s
  | 0x14 => if r.ofs = 0x100 then s.powerReq (BV.fld v 60 4) else s
  | 0x0B =>
    let k := r.past 0x100000 / 4
    let old := (s0.ctx i).entry k
    let new := (s.ctx i).entry k
    let first := (List.range 4).find? fun j => BV.fld old (64 * j) 64 ≠ BV.fld new (64 * j) 64
    if i < 16 ∧ 0x100000 ≤ r.ofs ∧ first = some (r.past 0x100000 % 4) then s.rejoin i k else s
  | 0x0C =>
    let a := s0.port i
    let b := s.port i
    let s := if a.pfcEn ∧ !b.pfcEn then (s.setPort i { b with pfcPause := 0 }).resumePort i else s
    if r.ofs = 0x1000 ∧ (v.getLsbD 6 ∨ a.mode ≠ b.mode ∨ a.laneEn ≠ b.laneEn ∨ a.en ≠ b.en) then s.retrainPort i else s
  | 0x0E =>
    if 0x1020 ≤ r.ofs then (if v.getLsbD 59 then s.startAdopt (r.past 0x1020) else s)
    else if (s.ctx (r.past 0x1000)).cfg.twEn then s
    else s.setCtx (r.past 0x1000) { s.ctx (r.past 0x1000) with twinWait := none, twinLines := [] }
  | _ => s

/-- Staged writes applied as one (R451): the state after them, or the position of the first that breaks a rule. -/
def State.applyAll (s : State) (l : List Staged) : State ⊕ Nat :=
  let t := l.foldl (fun (t : State) w => t.putSetting w.reg (w.over (t.setting w.reg))) s
  let (t, bad, _) := l.foldl (fun (p : State × Option Nat × Nat) w =>
    let bad := match p.2.1 with
      | some k => some k
      | none => if ruleOk s p.1 w then none else some p.2.2
    (p.1.actCreate w, bad, p.2.2 + 1)) (t, none, 0)
  match bad with
  | some k => .inr k
  | none => .inl (l.foldl (fun t w => s.act t w) t)

/-- A transaction ends with a result; the function's vector fires (R445, R451). `COUNT` shows what it staged until the next BEGIN. -/
def State.endTxn (s : State) (fn : Nat) (result : BitVec 6) : State :=
  (s.setTxn fn { s.txn fn with st := 0, result := result, errBlock := 0, errIndex := 0, full := false, staged := [], cmds := []
                               cframe := BitVec.ofNat 32 s.frame.toNat }).fire fn 5
/-- A refused commit names its write. -/
def State.refuseTxn (s : State) (fn : Nat) (result : BitVec 6) (k : Nat) (r : Reg) : State :=
  let s := s.endTxn fn result
  (s.setTxn fn { s.txn fn with errBlock := BitVec.ofNat 6 r.blk, errIndex := BitVec.ofNat 8 k }).err r.blk r.inst 3

/-- Tensor commands in turn: the state after them, or the number of the first that is refused. -/
def State.runTCmds (s : State) : List TCmd → Nat → State ⊕ Nat
  | [], _ => .inl s
  | k :: t, n => match s.runTCmd k with
    | some s => s.runTCmds t (n + 1)
    | none => .inr n

/-- Tensor commands made outside a transaction, each committed or refused by itself (log 59). -/
def State.commitLone (s : State) (fn : Nat) : State :=
  let l := (s.txn fn).lone
  l.foldl (fun s k => (s.runTCmd k).getD (s.refuseAt fn 0x08 fn)) (s.setTxn fn { s.txn fn with lone := [] })

/-- A pending commit at a tick (R292, R451): every staged write and tensor command, or none of them. -/
def State.commit (s : State) (fn : Nat) : State :=
  let s := s.commitLone fn
  let x := s.txn fn
  if x.st ≠ 2 then s else
  let mem (s : State) (j : Nat) : State := s.refuseTxn fn 3 ((x.cmds[j]?).elim 0 (·.pos) + j) ⟨0x08, fn, 0⟩
  match (List.range x.staged.length).find? fun k => (x.staged[k]?).any fun w => !mayReach fn (s.owns fn) w.reg with
  | some k => s.refuseTxn fn 9 k (((x.staged[k]?).map (·.reg)).getD ⟨0, 0, 0⟩)
  | none =>
    match s.applyAll x.staged with
    | .inl t =>
      (match t.runTCmds x.cmds 0 with
       | .inl t => t.endTxn fn 1
       | .inr j => mem s j)
    | .inr k =>
      let before := x.cmds.filter (·.pos ≤ k)
      match s.runTCmds before 0 with
      | .inl _ => s.refuseTxn fn 3 (k + before.length) (((x.staged[k]?).map (·.reg)).getD ⟨0, 0, 0⟩)
      | .inr j => mem s j

/-- Every pending commit, in ascending function number. -/
def State.commitAll (s : State) : State := (List.range 16).foldl (fun s fn => s.commit fn) s

/-! ### Transaction commands (R449) -/

/-- BEGIN. -/
def State.txnBegin (s : State) (fn : Nat) : State :=
  match (s.txn fn).st with
  | 0 => s.setTxn fn { s.txn fn with st := 1, count := 0, full := false, staged := [], cmds := [] }
  | 1 => s.txnResult fn 4
  | _ => s.txnResult fn 7
/-- COMMIT: pending, or refused where a 257th register was refused before. -/
def State.txnCommit (s : State) (fn : Nat) : State :=
  match (s.txn fn).st with
  | 0 => s.txnResult fn 6
  | 1 => if (s.txn fn).full then s.endTxn fn 5 else s.setTxn fn { s.txn fn with st := 2 }
  | _ => s.txnResult fn 7
/-- ROLLBACK. -/
def State.txnRollback (s : State) (fn : Nat) : State :=
  match (s.txn fn).st with
  | 0 => s.txnResult fn 6
  | 1 => (s.setTxn fn { s.txn fn with st := 0, result := 2, count := 0, full := false, staged := [], cmds := [] }).fire fn 5
  | _ => s.txnResult fn 7

/-- A write staged in an open transaction: a second write of a register replaces, a 257th register is refused. -/
def State.stage (s : State) (fn : Nat) (w : Staged) : State :=
  let x := s.txn fn
  if x.staged.any fun y => y.reg = w.reg then
    s.setTxn fn { x with staged := x.staged.map fun y => if y.reg = w.reg then { reg := w.reg, val := w.over y.val, lo := y.lo || w.lo, hi := y.hi || w.hi } else y }
  else if 256 ≤ x.staged.length + x.cmds.length then (s.setTxn fn { x with result := 5, full := true }).fire fn 5
  else s.setTxn fn { x with staged := x.staged ++ [w], count := x.count + 1 }

/-! ### Registers that act at once (R408, R447, R450, R472, R488) -/

/-- `ESC_EVENT` bits cleared: all by PF0, its own `ABANDON` bit by a virtual function; clearing `DUMP` releases the dump. -/
def State.escClear (s : State) (fn : Nat) (v : BitVec 64) : State :=
  let m := if fn = 0 then v else v &&& BitVec.ofNat 64 (2 ^ fn)
  let e := s.esc.event &&& ~~~m
  let s := { s with esc := { s.esc with event := e } }
  let s := if m.getLsbD 62 ∧ s.dump.held then { s with dump := {} } else s
  let s := if e = 0 then s.release 0 0 else s
  (List.range 16).foldl (fun s c => if c ≠ 0 ∧ !e.getLsbD c then s.release c 0 else s) s

/-- `PWR_EVENT` bits cleared; without any left `ALERT#` is released. Clearing `POWERCAP` restarts `PEAK`. -/
def State.pwrClear (s : State) (v : BitVec 64) : State :=
  let e := s.pwr.event &&& ~~~v
  let s := { s with pwr := { s.pwr with event := e, peak := if v.getLsbD 61 then 0 else s.pwr.peak } }
  if e = 0 then { s with pins := { s.pins with alertLow := false } }.release 0 3 else s

/-- `ERR_SUMMARY` bits of a page cleared. -/
def State.errClear (s : State) (blk inst : Nat) (v : BitVec 64) : State :=
  let k := pageKey blk inst
  { s with host := { s.host with errSum := tset 0 s.host.errSum k (tget 0 s.host.errSum k &&& ~~~v) } }

/-- `ESC_REQ` (R406): PF0 asks for any level, a virtual function for level 0x1 of its own context; anything else from one is
ignored and counted. -/
def State.escReq (s : State) (fn : Nat) (v : BitVec 64) : State :=
  let key := decide (BV.fld v 56 8 = 0xE5)
  let l := BV.fld v 52 4
  if fn ≠ 0 then
    if key ∧ l = 1 ∧ BV.fld v 48 4 = fn then s.resetReq 1 fn 2 else { s with esc := { s.esc with ignored := bump s.esc.ignored } }
  else if !key then s
  else match l with
    | 1 => s.resetReq 1 (BV.fld v 48 4) 2
    | 2 => s.resetReq 2 (s.remap.eng (BV.fld v 43 5) (BV.fld v 39 4)) 2
    | 3 => s.resetReq 3 (BV.fld v 43 5) 2
    | 4 => s.resetReq 4 (BV.fld v 38 1) 2
    | 5 => s.resetReq 5 0 2
    | 6 => s.resetReq 6 0 2
    | 7 => s.dumpReq
    | _ => s

/-- An access to `HST_APT_DATA` (R444): the entry at the index, which advances with `AUTOINC`. -/
def State.aptAccess (s : State) (fn : Nat) (w : Option Staged) : State :=
  let ix := (s.host.aptIdx[fn]?).getD 0
  let k := fn * 2 ^ 20 + BV.fld ix 0 19
  let t := match w with
    | some w =>
      let v := BV.put (w.over (tget 0 s.host.apt k)) 56 6 0
      { s with host := { s.host with apt := tset 0 s.host.apt k v } }
    | none => s.emit (.read fn (tget 0 s.host.apt k))
  if ix.getLsbD 63 then { t with host := { t.host with aptIdx := t.host.aptIdx.setIfInBounds fn (BV.put ix 0 19 ((BV.fld ix 0 19 + 1) % 2 ^ 19)) } } else t

/-- The result of a meaning that always goes on. -/
def nextOf (s : State) : Host.Outcome State Fault Refusal → State
  | .next t => t
  | _ => s

/-- A write to a register that R450 exempts from transactions; read-only ones keep their value. -/
def State.writeNow (s : State) (fn : Nat) (w : Staged) : State :=
  let r := w.reg
  let v := w.cmd
  let page (o : Nat) : Bool := r.ofs = o
  if page 0x18 then
    let s := if w.lo then s.setTxn fn { s.txn fn with shadow := v.getLsbD 2 } else s
    match BV.fld v 0 2 with
    | 1 => s.txnBegin fn
    | 2 => s.txnCommit fn
    | 3 => s.txnRollback fn
    | _ => s
  else if page 0x38 then s.errClear r.blk r.inst v
  else match r.blk with
  | 0x11 => if page 0x100 then s.escReq fn v else if page 0x110 then s.escClear fn v else s
  | 0x12 => if r = Reg.dumpWin ∧ BV.fld v 0 64 < 3 then { s with wrk := { s.wrk with dumpWin := BitVec.ofNat 2 (BV.fld v 0 2) } } else s
  | 0x14 => if page 0x130 then s.pwrClear v else s
  | 0x15 => if page 0x100 then { s with wer := { s.wer with sel := w.over s.wer.sel &&& BitVec.ofNat 64 (2 ^ 64 - 2 ^ 48) } } else s
  | 0x16 =>
    if page 0x100 then
      let n := if w.hi then BV.fld v 48 14 else s.sec.mboxLen.toNat
      if v.getLsbD 62 then nextOf s (execMailboxAbort s)
      else if v.getLsbD 63 then nextOf s (execMailboxGo n s)
      else { s with sec := { s.sec with mboxLen := BitVec.ofNat 14 n } }
    else if page 0x110 then
      let o := w.over s.sec.mboxOfs
      { s with sec := { s.sec with mboxOfs := BitVec.ofNat 64 (BV.fld o 63 1 * 2 ^ 63 + BV.fld o 0 13) } }
    else if page 0x118 then
      let o := BV.fld s.sec.mboxOfs 0 13 / 8 * 8
      nextOf s (execMailboxDataAccess (some (w.over (BitVec.ofNat 64 (ofLE (tgetMany 0 s.sec.mbox o 8))))) s)
    else if page 0x128 then { s with sec := { s.sec with rkSel := BitVec.ofNat 64 (BV.fld (w.over s.sec.rkSel) 59 5 * 2 ^ 59) } }
    else if page 0x138 ∧ BV.fld v 62 2 = 1 then nextOf s (execReceiptKeyErase s)
    else s
  | 0x17 =>
    if page 0x1000 then
      let o := w.over ((s.host.aptIdx[fn]?).getD 0)
      { s with host := { s.host with aptIdx := s.host.aptIdx.setIfInBounds fn (BitVec.ofNat 64 (BV.fld o 63 1 * 2 ^ 63 + BV.fld o 0 19)) } }
    else if page 0x1001 then s.aptAccess fn (some w) else s
  | 0x0A =>
    let t := (s.tdp[r.inst]?).getD {}
    { s with tdp := s.tdp.setIfInBounds r.inst { t with dbg := BitVec.ofNat 64 (BV.fld (w.over t.dbg) 43 21 * 2 ^ 43) } }
  | 0x07 => if v.getLsbD 59 then s.setSlot (r.inst - 16) { s.slot (r.inst - 16) with busy := false } else s
  | _ => s

/-! ### A register write (R446, R449, R450) -/

/-- The write as it reaches its register, or a misaligned access. A 32-bit write at an odd word carries the high half. -/
def Half.write (h : Half) (sel : RegSel) (r : Reg) (v : BitVec 64) : Option Staged :=
  let odd : Bool := match sel with | .addr o => o % 8 = 4 | .name _ => false
  match h with
  | .both => if odd then none else some { reg := r, val := v, lo := true, hi := true }
  | .lo => if odd then none else some { reg := r, val := v, lo := true, hi := false }
  | .hi => some { reg := r, val := v, lo := false, hi := true }

/-- `ARM` or `CANCEL` set. -/
def Staged.armCancel (w : Staged) : Bool :=
  w.reg.blk = 7 && decide (16 ≤ w.reg.inst ∧ w.reg.ofs = 0x100) && (w.cmd.getLsbD 63 || w.cmd.getLsbD 62)

/-- A transactional write: staged where the function's transaction is open; otherwise it applies at once, or is ignored with
`ACCESS` where a commit would refuse it. Outside a transaction a live page is an undefined case (R176). -/
def State.writeTxn (s : State) (fn : Nat) (w : Staged) : Host.Outcome State Fault Refusal :=
  if (s.txn fn).st = 1 then .next (s.stage fn w)
  else if !mayReach fn (s.owns fn) w.reg ∨ w.armCancel then .next (s.access w.reg.blk w.reg.inst)
  else if s.pageLive w.reg.blk w.reg.inst then .fault .liveWrite
  else match s.applyAll [w] with
    | .inl t => .next t
    | .inr _ => .next (s.access w.reg.blk w.reg.inst)

/-- REGISTER_WRITE (R446, R447, R450). -/
def execRegisterWrite (fn : Nat) (sel : RegSel) (part : Half) (value : BitVec 64) (s : State) : Host.Outcome State Fault Refusal :=
  if !s.hostUp fn then .next s else
  match s.regOf fn sel with
  | none => .next s
  | some r =>
    if !s.pageUp r.blk r.inst then .next s else
    match Half.write part sel r value with
    | none => .next (s.access r.blk r.inst)
    | some w =>
      if r.exempt then .next (if mayReach fn (s.owns fn) r then s.writeNow fn w else s.access r.blk r.inst)
      else if r.writable then s.writeTxn fn w
      else .next s

/-! ### Meanings -/

/-- TXN_BEGIN (R449). -/
def execTxnBegin (fn : Nat) (s : State) : Host.Outcome State Fault Refusal := .next (if s.hostUp fn then s.txnBegin fn else s)
/-- TXN_COMMIT (R449). -/
def execTxnCommit (fn : Nat) (s : State) : Host.Outcome State Fault Refusal := .next (if s.hostUp fn then s.txnCommit fn else s)
/-- TXN_ROLLBACK (R449). -/
def execTxnRollback (fn : Nat) (s : State) : Host.Outcome State Fault Refusal := .next (if s.hostUp fn then s.txnRollback fn else s)

/-- BAD_REGISTER_ACCESS (R446). -/
def execBadRegisterAccess (fn ofs : Nat) (isRead : Bool) (s : State) : Host.Outcome State Fault Refusal :=
  .next (if !s.hostUp fn then s else
    let s := match s.regAt fn ofs with
      | some r => s.access r.blk r.inst
      | none => s
    if isRead then s.emit (.unsupported fn) else s)

/-- ERR_CLEAR (R447): the `ERR_CLEAR` register of the page that holds the offset. -/
def execErrClear (fn ofs : Nat) (value : BitVec 64) (s : State) : Host.Outcome State Fault Refusal :=
  .next (if !s.hostUp fn then s else
    match s.regAt fn ofs with
    | some r => if s.pageUp r.blk r.inst then s.errClear r.blk r.inst value else s
    | none => s)

/-- ESC_EVENT_CLEAR (R408, R455). -/
def execEscEventClear (fn : Nat) (value : BitVec 64) (s : State) : Host.Outcome State Fault Refusal := .next (if s.hostUp fn then s.escClear fn value else s)
/-- PWR_EVENT_CLEAR (R488). -/
def execPwrEventClear (value : BitVec 64) (s : State) : Host.Outcome State Fault Refusal := .next (if s.hostUp 0 then s.pwrClear value else s)
/-- APERTURE_DATA_ACCESS (R444). -/
def execApertureDataAccess (fn : Nat) (write : Option (BitVec 64)) (s : State) : Host.Outcome State Fault Refusal :=
  .next (if s.hostUp fn then s.aptAccess fn (write.map fun v => { reg := Reg.aptData fn, val := v, lo := true, hi := true }) else s)

/-- RETRAIN (R312): a write of `RETRAIN` with the port's settings as they are; only PF0 reaches the page. -/
def execRetrain (fn port : Nat) (s : State) : Host.Outcome State Fault Refusal :=
  if !s.hostUp fn ∨ fn ≠ 0 ∨ !s.pageUp 0x0C port then .next s
  else s.writeTxn fn { reg := Reg.prtCtrl port, val := (s.port port).ctrl ||| BitVec.ofNat 64 (2 ^ 6), lo := true, hi := true }

/-- D_STATE_CHANGE (R441). -/
def execDStateChange (fn : Nat) (d3hot : Bool) (s : State) : Host.Outcome State Fault Refusal :=
  .next (if !s.host.link then s else
    { s with host := { s.host with d3 := if d3hot then (if s.host.d3.contains fn then s.host.d3 else sins s.host.d3 fn) else s.host.d3.filter (· ≠ fn) } })

end Sys2Proof.Machine
end

