-- ==== Sys2Proof/Machine/HostMem.lean ====
section
/-! DEFINITION. BAR2 accesses through the tensor apertures, and what a register read shows (spec/17 R444, R447, R453, R456 to R459, spec/11
R304). -/
namespace Sys2Proof.Machine

/-! ### BAR2 (R289, R304, R404, R444, R485) -/

/-- A dropped write counted on the function's `HST` page. -/
def State.dropWrite (s : State) (fn : Nat) : State :=
  { s with host := { s.host with drops := s.host.drops.setIfInBounds fn (bump ((s.host.drops[fn]?).getD 0)) } }

/-- The aperture entry of an offset, the byte within the copy, and the tensor. -/
def State.aperture (s : State) (fn ofs : Nat) : BitVec 64 × Nat × Option TRec :=
  let e := tget 0 s.host.apt (fn * 2 ^ 20 + ofs / 2 ^ 21)
  (e, BV.fld e 32 24 * 2 ^ 21 + ofs % 2 ^ 21, if e.getLsbD 63 then s.tensor fn (BV.fld e 0 32) else none)

/-- Can the memory behind a byte be reached: the dies run, and its stack's partition does not reset? -/
def State.memUp (s : State) (t : TRec) (a : Nat) : Bool :=
  s.tickRun && !(s.esc.active = 4 && ((s.frameOf (pageOf (memKey t.ctx (t.base + a)))).getD (t.stackOf (a / 2 ^ 21 % max 1 t.pages))) / 6 = s.esc.domain)

/-- The far pages of a byte range of a context that are not resident. -/
def State.farIn (s : State) (c a n : Nat) : List FarPage :=
  s.pager.far.filter fun f => f.ctx = c && !f.resident && decide (0 < n ∧ a / 2 ^ 21 ≤ f.page ∧ f.page ≤ (a + n - 1) / 2 ^ 21)

/-- A recall of a far page that BAR2 wants: asked of its lender, or fetched from the host region, whose copy may be bad (log 20). -/
def State.fetchFar (s : State) (f : FarPage) : State :=
  if f.recalling then s else
  match f.lender with
  | some r => (s.setFar { f with recalling := true }).lsSend f.ctx r { tc := 5, pfmt := 6, redid := 1, chunk := f.page }
  | none =>
    let (k, s) := s.draw
    s.landPage f (s.pageBytes f.num) (if k % 2 = 0 then f.sum else BitVec.ofNat 64 (k / 2))

/-- Bytes of a tensor's copy that a host access meets: those at or beyond `END_OFS` do not exist. -/
def TRec.hostLen (t : TRec) (a n : Nat) : Nat := min n (t.endOfs - a)

/-- A BAR2 read that nothing holds back. -/
def State.serveRead (s : State) (fn ofs len : Nat) : State :=
  let (_, a, t) := s.aperture fn ofs
  match t with
  | none => s.emit (.unsupported fn)
  | some t =>
    let n := t.hostLen a len
    s.emit (.bytes fn (s.load fn (t.base + a) n ++ List.replicate (len - n) 0))

/-- A BAR2 write that nothing holds back. -/
def State.serveWrite (s : State) (fn ofs : Nat) (data : List Byte) : State :=
  let (_, a, t) := s.aperture fn ofs
  match t with
  | none => s.dropWrite fn
  | some t =>
    let n := t.hostLen a data.length
    let s := if n = 0 then s else s.store fn (t.base + a) (data.take n) false
    if n < data.length then s.dropWrite fn else s

/-- Is the context closed to host accesses: not LIVE, or in reset (R289, R404)? -/
def State.closed (s : State) (c : Nat) : Bool := !s.live c || (s.ctx c).resetting

/-- Are there frames within the quota for the pages a host write meets (R298)? -/
def State.hostRoom (s : State) (c : Nat) (t : TRec) (a len : Nat) : Bool :=
  let n := t.hostLen a len
  let k := memKey c (t.base + a)
  n = 0 || s.roomFor c ((List.range (pageOf (k + n - 1) + 1 - pageOf k)).map fun i => pageOf k + i)

/-- Accesses that waited for a far page or for frames go on once they have them (R304). -/
def State.serveHeld (s : State) : State :=
  let l := s.host.held
  l.foldl (fun (s : State) (h : Held) =>
    let (_, a, t) := s.aperture h.fn h.ofs
    let wait : Bool := match t with
      | some t => !(s.farIn h.fn (t.base + a) (t.hostLen a h.len)).isEmpty || (h.data.isSome && !s.hostRoom h.fn t a h.len)
      | none => false
    if wait && !s.closed h.fn then { s with host := { s.host with held := s.host.held ++ [h] } }
    else if s.closed h.fn then (if h.data.isNone then s.emit (.unsupported h.fn) else s.dropWrite h.fn)
    else match h.data with
      | none => s.serveRead h.fn h.ofs h.len
      | some d => s.serveWrite h.fn h.ofs d) { s with host := { s.host with held := [] } }

/-- BAR2_READ (R444, R304): Unsupported Request through a window that maps nothing or into a closed context, completer abort while the
memory is out of reach, else the committed copy, far pages recalled first. -/
def execBar2Read (fn ofs len : Nat) (s : State) : Host.Outcome State Fault Refusal :=
  .next (if !s.hostUp fn then s
    else if !s.tickRun then s.emit (.aborted fn)
    else
      let (_, a, t) := s.aperture fn ofs
      match t with
      | none => s.emit (.unsupported fn)
      | some t =>
        if s.closed fn then s.emit (.unsupported fn)
        else if !s.memUp t a then s.emit (.aborted fn)
        else
          let far := s.farIn fn (t.base + a) (t.hostLen a len)
          if far.isEmpty then s.serveRead fn ofs len
          else
            let h : HostIf := { s.host with held := s.host.held ++ [{ fn := fn, ofs := ofs, len := len }] }
            let s0 : State := { s with host := h }
            (far.foldl (fun (x : State) (f : FarPage) => x.fetchFar f) s0).serveHeld)

/-- Does a write touch the graph image of a slot of the context that is ADMITTING or RUNNING (R276)? -/
def State.hitsImage (s : State) (c a n : Nat) : Bool :=
  (s.liveSlots c).any fun m => let x := s.slot m; decide (0 < n ∧ a < x.image.toNat + x.graph.span ∧ x.image.toNat < a + n)

/-- BAR2_WRITE (R444, R304, R276): dropped and counted where the window does not allow it or beyond `END_OFS`; completer abort into a tensor
that a graph names; a write to an armed graph image is an undefined case (R176). -/
def execBar2Write (fn ofs : Nat) (data : List Byte) (s : State) : Host.Outcome State Fault Refusal :=
  if !s.hostUp fn then .next s
  else if !s.tickRun then .next (s.emit (.aborted fn))
  else
    let (e, a, t) := s.aperture fn ofs
    match t with
    | none => .next (s.dropWrite fn)
    | some t =>
      let n := t.hostLen a data.length
      if s.closed fn then .next (s.emit (.unsupported fn))
      else if !s.memUp t a then .next (s.emit (.aborted fn))
      else if !e.getLsbD 62 then .next (s.dropWrite fn)
      else if s.inUse fn t.tid then
        .next ((s.setCtx fn { s.ctx fn with bar2Abort := bump (s.ctx fn).bar2Abort }).emit (.aborted fn))
      else if s.hitsImage fn (t.base + a) n then .fault .imageModified
      else
        let far := s.farIn fn (t.base + a) n
        .next (if far.isEmpty ∧ s.hostRoom fn t a data.length then s.serveWrite fn ofs data
          else
            let h : HostIf := { s.host with held := s.host.held ++ [{ fn := fn, ofs := ofs, len := data.length, data := some data }] }
            let s0 : State := { s with host := h }
            (far.foldl (fun (x : State) (f : FarPage) => x.fetchFar f) s0).serveHeld)

/-! ### What a register read shows (R447, R453, R454): no command reads a register, so no step uses this -/

/-- Index of a page in PF0's BAR0 (R454). -/
def pageIndex (blk inst : Nat) : Nat :=
  match blk with
  | 0x17 => 0 | 0x11 => 1 | 0x12 => 2 | 0x13 => 3 | 0x14 => 4 | 0x15 => 5 | 0x16 => 6 | 0x0F => 7 | 0x0D => 8
  | 0x0E => 9 + inst | 0x0A => 0xB + inst | 0x0B => if inst < 16 then 0x10 + inst else 0xD + inst - 16
  | 0x07 => if inst < 16 then 0x20 + inst else 0x30 + inst - 16
  | 0x10 => 0x70 + inst | 0x08 => 0x80 + inst | 0x09 => 0x90 + inst | 0x0C => 0xA0 + inst
  | b => 0x100 + 16 * inst + b - 1

/-- `CAPS` of a page (R447). -/
def pageCaps (blk : Nat) : Nat :=
  (pageTxn blk).toNat + ([0x17, 0x11, 0x07, 0x10, 0x08, 0x09, 0x0B].contains blk).toNat * 2 + (pageHarbour blk).toNat * 4
    + (blk ≤ 0x0F && blk ≠ 0 || blk = 0x0F : Bool).toNat * 8 + (pageTxn blk).toNat * 16

/-- `STATUS` of a page (R447): the unit behind a logical panel page, its physical number, `LIVE`. -/
def State.pageStatus (s : State) (blk inst : Nat) : Nat :=
  let unit := if blk ≤ 6 then
      if !s.remap.present inst then 2 else if s.pwr.st = 3 ∨ s.pwr.st = 4 then 4 else if s.esc.active ≠ 2 ∧ s.covers s.esc.active s.esc.domain inst then 1 else 0
    else if !pageHarbour blk ∧ (s.pwr.st = 3 ∨ s.pwr.st = 4) then 4 else 0
  unit * 2 ^ 60 + (s.pageLive blk inst).toNat * 2 ^ 59 + (if blk ≤ 6 then s.remap.panel inst else inst) * 2 ^ 32

/-- Has a counter of a page saturated (R447)? -/
def State.countSat (s : State) (blk inst : Nat) : Bool :=
  let f (v : BitVec 64) : Bool := v = BitVec.allOnes 64
  match blk with
  | 0x17 => f ((s.host.drops[inst]?).getD 0)
  | 0x11 => f s.esc.heartbeat
  | 0x0F => f s.swt.cross || f s.swt.mmShadow || f s.swt.mmCross || f s.swt.fenced || f s.swt.transient || f s.swt.undecided
  | 0x0A => let t := (s.tdp[inst]?).getD {}; f t.spill || f t.maskdrop || f t.digestmm
  | 0x08 => f (s.ctx inst).bar2Abort
  | 0x0B => decide (16 ≤ inst) && (f s.fab.foreign || f s.fab.poisonedPay)
  | 0x0D => f s.fab.swOps || f s.fab.swFails
  | 0x07 => decide (inst < 16) && (f (s.ctx inst).dropRaise || f (s.ctx inst).progress)
  | 0x15 => f s.wer.events
  | 0x14 => f s.pwr.skips
  | _ => false

/-- A common header register (R447, R448). -/
def State.readHeader (s : State) (fn : Nat) (r : Reg) : BitVec 64 :=
  let n (k : Nat) : BitVec 64 := BitVec.ofNat 64 k
  match r.ofs with
  | 0x00 => n (r.blk * 2 ^ 56 + r.inst * 2 ^ 32 + pageIndex r.blk r.inst)
  | 0x08 => n (2 * 2 ^ 56 + 1 * 2 ^ 32)
  | 0x10 => n (pageCaps r.blk)
  | 0x18 => n ((s.txn fn).shadow.toNat * 4)
  | 0x20 => (s.txn fn).status
  | 0x28 => n (s.pageStatus r.blk r.inst)
  | 0x30 => tget 0 s.host.errSum (pageKey r.blk r.inst) ||| n ((s.countSat r.blk r.inst).toNat * 32)
  | _ => 0

/-- The ready tasks of a context that are not dispatched (R405). -/
def State.readyCount (s : State) (c : Nat) : Nat :=
  sumN ((s.liveSlots c).map fun n => ((List.range (s.slot n).tasks.length).filter fun i => s.ready n i && !((s.slot n).task i).dispatched).length)

/-- A group record as it reads: `MEMBER`, `SELF` and `SIZEM1` beside its settings (R336). -/
def State.groupWord (s : State) (g : Nat) : BitVec 512 :=
  let x := tget 0 s.fab.groups g
  let k := (s.ctx (grpCtx x)).cfg
  let size := if grpValid x then (grpSize x - 1) * 2 ^ 474 else 0
  match grpMember k.grid x k.rank.toNat with
  | some m => x ||| BitVec.ofNat 512 (2 ^ 506 + m % 2 ^ 16 * 2 ^ 490 + size)
  | none => x ||| BitVec.ofNat 512 size

/-- A register of a panel page (R164, R173, R217, the summary of the remaining pages of spec/17). The spec gives these pages no offsets: the numbers
are the model's (log 30). -/
def State.readPanel (s : State) (r : Reg) : BitVec 64 :=
  let p := s.panel r.inst
  let n (k : Nat) : BitVec 64 := BitVec.ofNat 64 (min k (2 ^ 64 - 1))
  let k := r.ofs - 0x1000
  let eng (e : Nat) : Engine := (p.engines[e]?).getD {}
  if r.ofs < 0x1000 then 0 else
  match r.blk with
  | 1 => if k < 4 then n (nth 0 p.live k).toNat else if k = 4 then n p.counts.words else if k = 5 then n (sumN (p.resident.map (·.words))) else 0
  | 2 => if k < 16 then n (nth 0 p.counts.byEngine k) else if k = 16 then n p.counts.corrected
    else if k = 17 then n (match s.remap.spare r.inst with | some x => x % 17 | none => 31) else 0
  | 3 =>
    if k < 2 ^ 19 then n (BV.fld (tget (0 : SkeinW) (eng (k / 2 ^ 15)).skeins (k / 4 % 2 ^ 13)) (64 * (k % 4)) 64)
    else if k - 2 ^ 19 < 4096 then n (tget (0 : BitVec 32) (eng ((k - 2 ^ 19) / 256)).anchors ((k - 2 ^ 19) % 256)).toNat else 0
  | 4 => if k = 0 then n p.counts.climbs else if k = 1 then n p.counts.qe else if k = 2 then n p.counts.breaches else 0
  | 5 => if k = 0 then n p.counts.elu else 0
  | 6 => if k = 0 then n p.counts.nrm else 0
  | _ => 0

/-- The debug window of a Tidepool page: while the selected slot is held its reading is not atomic with the arriving additions (R176), so a free
value stands there; a slot no piece holds reads 0. -/
def State.tdpDebug (s : State) (i ofs : Nat) : BitVec 64 :=
  let t := (s.tdp[i]?).getD {}
  let slot := BV.fld t.dbg 57 7
  if !(s.areas i false).any fun x => x.2 = slot then 0 else
  BitVec.ofNat 64 (Config.freeOf [176, s.fresh, i, ofs, t.dbg.toNat] % (if ofs = 0x1B8 then 16 else 2 ^ 64))

/-- Corrected errors of a context's pages since their frames were attached (R309). -/
def State.correctedOf (s : State) (c : Nat) : Nat := sumN ((s.pager.corrected.filter fun x => decide (x.1 / 2 ^ 19 = c)).map (·.2))

/-- The committed value of a register. -/
def State.readReg (s : State) (fn : Nat) (r : Reg) : BitVec 64 :=
  let i := r.inst
  let n (k : Nat) : BitVec 64 := BitVec.ofNat 64 k
  if r.ofs < 0x100 then s.readHeader fn r else
  match r.blk with
  | 1 | 2 | 3 | 4 | 5 | 6 => s.readPanel r
  | 0x11 => match r.ofs with
    | 0x108 => s.esc.word
    | 0x110 => if fn = 0 then s.esc.event else s.esc.event &&& n (2 ^ fn)
    | 0x118 => s.esc.heartbeat
    | 0x120 => s.frame
    | _ => 0
  | 0x12 => if r = Reg.wrkSeq then n s.wrk.seq.toNat else if r = Reg.dumpWin then n s.wrk.dumpWin.toNat else 0
  | 0x13 => if r.ofs = 0x100 then s.bru.word
    else if 0x400 ≤ r.ofs ∧ r.ofs < 0xC00 then n (BV.fld (nth 0 s.bru.reports ((r.ofs - 0x400) / 64)) ((r.ofs - 0x400) % 64 * 8) 64) else 0
  | 0x14 => match r.ofs with
    | 0x108 => s.pwr.word
    | 0x118 => n (s.pwr.vin.toNat * 2 ^ 48 + s.pwr.pin.toNat * 2 ^ 32 + s.pwr.peak.toNat * 2 ^ 16)
    | 0x120 => n (s.pwr.tja.toNat * 2 ^ 56 + s.pwr.tjb.toNat * 2 ^ 48 + s.pwr.tin.toNat * 2 ^ 40 + s.pwr.tout.toNat * 2 ^ 32)
    | 0x128 => s.pwr.skips
    | 0x130 => s.pwr.event
    | _ => s.setting r
  | 0x15 =>
    let cls := BV.fld s.wer.sel 60 4
    let ix := BV.fld s.wer.sel 48 12
    let k := cls * 4096 + ix
    let ok := wearUnit cls ix
    match r.ofs with
    | 0x100 => s.wer.sel
    | 0x108 => if ok then n ((tget 0 s.wer.drift k).toNat * 2 ^ 32 + s.wer.hours.toNat) else 0
    | 0x110 => if ok then n ((tget 0 s.wer.mid k).toNat * 2 ^ 32) else 0
    | 0x118 => if ok then n ((tget 0 s.wer.low k).toNat * 2 ^ 32 + (tget 0 s.wer.high k).toNat) else 0
    | 0x120 => n (s.wer.hours.toNat * 2 ^ 32)
    | 0x128 => s.wer.events
    | _ => 0
  | 0x16 =>
    let k := s.rkey (BV.fld s.sec.rkSel 59 5)
    match r.ofs with
    | 0x100 => n (s.sec.mboxLen.toNat * 2 ^ 48)
    | 0x108 => n (s.sec.mboxSt.toNat * 2 ^ 62 + s.sec.rlen.toNat * 2 ^ 48)
    | 0x110 => s.sec.mboxOfs
    | 0x118 => n (ofLE (tgetMany 0 s.sec.mbox (BV.fld s.sec.mboxOfs 0 13 / 8 * 8) 8))
    | 0x120 => n (s.idRemain * 2 ^ 32 + s.sec.idLeaf)
    | 0x128 => s.sec.rkSel
    | 0x130 => if k.st = 0 then 0 else k.word
    | 0x140 => n (Config.moduleConst 5 % 64 * 2 ^ 56 + s.sec.otpSvn.toNat * 2 ^ 48 + Config.moduleConst 6 % 2 ^ 48)
    | 0x148 => n (Config.moduleConst 7 % 2 ^ 32)
    | 0x150 => n (s.sec.tokens * 2 ^ 56)
    | o => if 0x200 ≤ o ∧ o < 0x400 then n (BV.fld ((s.sec.meas[(o - 0x200) / 64]?).getD 0) ((o - 0x200) % 64 * 8) 64) else 0
  | 0x0F => match r.ofs with
    | 0x108 => s.swt.cross
    | 0x110 => s.swt.mmShadow
    | 0x118 => s.swt.mmCross
    | 0x120 => n (s.swt.suspects.length * 2 ^ 56 + s.swt.decided.toNat)
    | 0x128 => s.swt.fenced
    | 0x130 => s.swt.transient
    | 0x138 => s.swt.undecided
    | _ => s.setting r
  | 0x0A =>
    let t := (s.tdp[i]?).getD {}
    match r.ofs with
    | 0x180 => n (s.poolFree i * 2 ^ 56)
    | 0x188 => t.spill
    | 0x190 => t.maskdrop
    | 0x198 => t.digestmm
    | 0x1A0 => t.dbg
    | 0x1A8 | 0x1B0 | 0x1B8 => s.tdpDebug i r.ofs
    | o => if o < 0x180 then n ((s.setting r).toNat + s.usedSlots i ((o - 0x100) / 8) * 2 ^ 48) else 0
  | 0x07 =>
    if i < 16 then
      match r.ofs with
      | 0x108 => (s.ctx i).stateWord
      | 0x118 => (s.ctx i).progress
      | 0x120 => n (s.readyCount i)
      | 0x128 => n ((s.setting r).toNat + (s.ovfOf i).toNat * 2 ^ 23)
      | 0x138 => 0
      | 0x1000 => (s.ctx i).dropRaise
      | _ => s.setting r
    else
      let y := s.slot (i - 16)
      match r.ofs with
      | 0x118 => y.stateWord
      | 0x120 => y.errWord
      | 0x128 => n y.doneCnt.toNat
      | o => if 0x140 ≤ o ∧ o < 0x180 then n (BV.fld y.hash ((o - 0x140) * 8) 64) else s.setting r
  | 0x0C => if r.ofs = 0x1001 then (s.port i).status ((s.fab.strands[i / 4]?).getD {}).spares.toNat else s.setting r
  | 0x0E => if 0x1010 ≤ r.ofs ∧ r.ofs < 0x1020 then (s.ctx (r.ofs - 0x1010)).cfg.twinStep
    else if 0x1030 ≤ r.ofs then n (s.ctx (r.ofs - 0x1030)).gnorm.toNat else s.setting r
  | 0x08 => if r.ofs = 0x1001 then (s.ctx i).bar2Abort else if r.ofs = 0x1002 then n (s.correctedOf i) else s.setting r
  | 0x09 => match r.ofs with
    | 0x1020 => n (s.residentPages i).length
    | 0x1021 => n (s.pager.far.filter fun f => f.ctx = i && !f.resident).length
    | 0x1022 => n (s.pager.far.filter fun f => f.ctx = i && f.recalling).length
    | 0x1023 => n s.pager.lent.length
    | _ => s.setting r
  | 0x0D => if r.ofs = 0x1000 then s.fab.swOps else if r.ofs = 0x1001 then s.fab.swFails else 0
  | 0x0B => if 16 ≤ i ∧ 0x1800 ≤ r.ofs ∧ r.ofs < 0x1900 then n (tget 0 s.fab.drops (r.ofs - 0x1800))
    else if 16 ≤ i ∧ r.ofs = 0x1900 then s.fab.foreign
    else if 16 ≤ i ∧ r.ofs = 0x1901 then s.fab.poisonedPay
    else if 16 ≤ i ∧ 0x2000 ≤ r.ofs then n (BV.fld (s.groupWord ((i - 16) * 32 + (r.ofs - 0x2000) / 8 % 32)) (64 * ((r.ofs - 0x2000) % 8)) 64)
    else s.setting r
  | 0x17 => if r.ofs = 0x1000 then (s.host.aptIdx[fn]?).getD 0 else if r.ofs = 0x1002 then (s.host.drops[fn]?).getD 0 else s.setting r
  | _ => s.setting r

/-- A host read of a register (R447, R453, R455): all ones where the page is out of reach, the staged value in the shadow view. -/
def State.hostRead (s : State) (fn : Nat) (r : Reg) : BitVec 64 :=
  if !s.pageUp r.blk r.inst then BitVec.allOnes 64
  else if !mayReach fn (s.owns fn) r then 0
  else match (s.txn fn).staged.find? fun w => (s.txn fn).shadow && (s.txn fn).st = 1 && w.reg = r with
    | some w => (s.putSetting r (w.over (s.setting r))).readReg fn r
    | none => s.readReg fn r

/-! ### Other views of the host: BAR4 and the latency tolerance (R22, R422, R443) -/

/-- A 64-bit word of BAR4 (R422), none while the link is down (R22): the log ring with entry `SEQ` mod 32,768 at 64 times that number, then
the third of the dump area that `WRK_DUMP_WIN` selects, whose bytes the spec does not lay out (log 82). Writes to BAR4 are ignored: no
command makes one. -/
def State.bar4 (s : State) (ofs : Nat) : Option (BitVec 64) :=
  if !s.host.link then none
  else if ofs < 0x200000 then some (BitVec.ofNat 64 (BV.fld (tget 0 s.wrk.ring (ofs / 64)) (ofs % 64 / 8 * 64) 64))
  else if s.dump.recs.isEmpty then some 0
  else some (BitVec.ofNat 64 (Config.freeOf [422, s.wrk.dumpWin.toNat, ofs / 8] % 2 ^ 64))

/-- The latency tolerance the module reports, in microseconds (R443). -/
def State.ltr (s : State) : Nat := if s.anyLive then 100 else 3000

end Sys2Proof.Machine
end

