-- ==== Sys2Proof/Machine/Tide.lean ====
section
/-! DEFINITION. The tide tick (spec/10 R279 to R288, spec/14 R370 to R376, spec/19 R476, R483, R485). -/
namespace Sys2Proof.Machine

/-! ### Step 1: commits, resets, power states (R285, R400, R451, R485) -/

/-- Slack is reached at the tick after its request, and dispatch resumes at the third tick after the exit request (R485). -/
def State.slackStep (s : State) : State :=
  let p := s.pwr
  if p.target = some 2 ∧ p.st = 1 then { s with pwr := { p with st := 2, target := none } }.pwrSet (2 ^ 60)
  else if p.st = 2 ∧ p.target = some 1 then
    if p.resume ≤ 1 then { s with pwr := { p with st := 1, target := none, resume := 0 } }.pwrSet (2 ^ 60)
    else { s with pwr := { p with resume := p.resume - 1 } }
  else s

/-! ### Step 2: the frame that ended retires (R280 to R285, R302) -/

/-- A segment that faulted or read poison (R174, R281): kinds 0x1 to 0x9 stop the slot, an ECC fault or poison fails the attempt. -/
def State.failSeg (s : State) (d : Done) : State :=
  let w := d.fault.getD 0xA000000000000000
  if BV.fld w 60 4 = 10 then (s.finishTask d.seg.slot d.seg.task 3 (d.fault.getD 0)).failMark d.seg.slot false
  else s.stopFault d.seg.slot d.seg.task w

/-- A fault record enters the log, and the panel's `STE` page marks the fault (R447, R494). -/
def State.logFault (s : State) (pn : Nat) (g : Seg) (w : BitVec 64) : State :=
  (s.err 2 pn (if BV.fld w 60 4 = 10 then 1 else 2)).log
    { code := 0x0200 + BV.fld w 60 4, sev := if BV.fld w 60 4 = 10 then 3 else 5, ctx := g.ctx, unit := 2, num := pn
      phys := s.remap.panel pn, data := w.toNat }

/-- The output blocks whose anchor record, or whose contribution still in flight, carries CLIMB (R85, R91). -/
def Panel.climbs (p : Panel) (g : Seg) : List Nat :=
  if g.typ ≠ 0 then [] else
  let flying (e row grp : Nat) : Bool := p.fly.any fun f => f.e = e && (match f.op with
    | .product r _ cl | .preload r _ cl => r % 64 = row && (List.range 32).any fun j => nth false cl (grp * 32 + j)
    | _ => false)
  ((List.range 16).flatMap fun e => (List.range 256).filterMap fun k =>
    if (Anc.of (tget 0 (p.eng e).anchors k)).climb || flying e (k / 4) (k % 4) then
      ((List.range 32).findSome? fun j => (p.eng e).elem (k / 4) (k % 4 * 32 + j)).map fun el => g.outRef.t.pad el / 32
    else none).foldl sins []

/-- A block of a segment climbs (R91, R92): in a reduction every other member hears of it. -/
def State.climbBlock (s : State) (g : Seg) (b : Nat) : State :=
  match (if g.redid ≠ 0 ∧ (g.cls = 1 ∨ g.cls = 2) then s.red g.ctx g.redid else none) with
  | some r => s.climbRed r b
  | none =>
    let x := s.slot g.slot
    let t := x.task g.task
    s.setSlot g.slot (x.setTask g.task { t with climbs := sins t.climbs b })

/-- What a segment that left its panel changes (R265, R280, R282, R284): counts, chunk raises, climbs, or its failure. -/
def State.segEnd (s : State) (pn : Nat) (d : Done) (raises climbs : List Nat) (backed : Bool) : State :=
  let g := d.seg
  let ok := d.fault.isNone && !d.tainted
  let s := if d.fault.isNone then s.setCtx g.ctx { s.ctx g.ctx with progress := bump (s.ctx g.ctx).progress } else s
  let s := match d.fault with
    | some w => s.logFault pn g w
    | none => s
  if !s.current d then s else
  let x := s.slot g.slot
  let t := x.task g.task
  let s := s.setSlot g.slot (x.setTask g.task
    { t with running := t.running.filter (· ≠ g.sigma), segdone := if d.fault.isNone then t.segdone + 1 else t.segdone, wb := if backed then t.wb else t.wb + 1 })
  if !ok then s.failSeg d else
  let s := if x.cancelled then s else raises.foldl (fun s f => s.raiseFlag g.ctx f) s
  climbs.foldl (fun s b => s.climbBlock g b) s

/-- Operations in flight over the end of a frame land in the next one's boundary window. -/
def Panel.rebase (p : Panel) : Panel := { p with fly := p.fly.map (fun f => { f with due := f.due - 4096 }), arr := [] }

/-- Would the residue check of the next boundary window find a fault: what is in flight lands, and a queue still holds an entry (R171)? -/
def Panel.owesResidue (p : Panel) : Bool :=
  let q := ({ p.rebase with fault := none }).landTo 31
  q.fault.isSome || (List.range 16).any fun e => (List.range 8).any fun k => (q.eng e).occ k ≠ 0

/-- Lines that a segment wrote poisoned (R174). -/
def Panel.spoilLines (p : Panel) (l : List Nat) : Panel :=
  { p with sram := l.foldl (fun m k => tset {} m k { tget ({} : Line) m k with poison := true }) p.sram }

/-- What a segment wrote, poisoned in HBM line by line (R174). -/
def State.spoilOut (s : State) (d : Done) : State :=
  d.seg.refs.foldl (fun s (r : RefW) =>
    if !r.out then s else r.lines.foldl (fun s (ln, row, j) =>
      if d.wrote (d.seg.phys ln) then let (k, n) := r.lineKey row j; s.poisonRange k n else s) s) s

/-- A segment held for its residue check completes, or takes the fault the check found and what it wrote is poisoned (R171, R174).
One whose check has not been made waits while its panel runs nothing. PC and TAG of a residue record, which no word issued, are free
(log 34). -/
def State.endHeld (s : State) (pn : Nat) : State :=
  let p := s.panel pn
  match p.held with
  | none => s
  | some h =>
    if p.prev.isSome ∧ p.seg.isNone then s else
    let g := h.done.seg
    let (k, s) := s.draw
    let late := p.lateFault.map fun w => if BV.fld w 60 4 = 9 then BV.put w 14 30 k else w
    let d : Done := { h.done with fault := h.done.fault.or late }
    let waits := p.wbq.any fun x => x.seg = g
    let q := { p with held := none, lateFault := none, wbq := p.wbq.map fun x => if x.seg = g then d else x }
    let s := s.setPanel pn (if d.fault.isSome then q.spoilLines d.written else q)
    let s := if d.fault.isNone || waits then s else s.spoilOut d
    s.segEnd pn d h.raises h.climbs !waits

/-- The segment of the frame that ended leaves its panel (R158). One whose last word has not issued stays (log 28); one whose residue check
will find a fault is held for that check. -/
def State.retirePanel (s : State) (pn : Nat) : State :=
  let s := s.endHeld pn
  let p := s.panel pn
  match p.seg with
  | none => s.setPanel pn { p.rebase with ranFault := false }
  | some g =>
    if !p.ended then s else
    let q := p.landTo 4095
    let d := q.done g (s.slot g.slot).attempt.toNat
    let owes := q.fault.isNone && q.owesResidue
    let q' := { q.rebase with seg := none, prev := some g, ran := some g, ranFault := q.fault.isSome, raises := [], single := none, backed := false
                              held := if owes then some { done := d, raises := q.raises, climbs := q.climbs g } else none
                              wbq := if q.backed then q.wbq else q.wbq ++ [d] }
    let s := s.setPanel pn q'
    if owes then s else s.segEnd pn d q.raises (q.climbs g) q.backed

/-- A function over the tasks of the RUNNING slots, in ascending order. -/
def State.eachTask (s : State) (f : State → Nat → Nat → State) : State :=
  (List.range 64).foldl (fun s n =>
    if (s.slot n).st = .running then (List.range (s.slot n).tasks.length).foldl (fun s i => f s n i) s else s) s

/-- A task on panels completes once every segment is done and written back and no block of it climbs (R279, R302); the last of a split
Skein-192 reduction writes its sums (R69). -/
def State.endTask (s : State) (n i : Nat) : State :=
  let x := s.slot n
  let t := x.task i
  let d := x.desc i
  if x.st = .running ∧ TD.onPanels d ∧ !t.finished ∧ t.ends.isNone ∧ 0 < TD.segments d ∧ s.drained n i then
    (if combines x.graph (s.taskEnv n i) ∧ (s.mates n i).all (s.drained n) then s.drainParts n i else s).finishWell n i
  else s

/-- A task of no segment completes at the tick at which it becomes ready (R288). -/
def State.endEmpty (s : State) (n i : Nat) : State :=
  let d := (s.slot n).desc i
  if TD.onPanels d ∧ TD.segments d = 0 ∧ s.ready n i then s.finishWell n i else s

/-- Does a task that takes no panel move nothing (R288)? -/
def State.moveless (s : State) (n i : Nat) : Bool :=
  let x := s.slot n
  let d := x.desc i
  let e := s.taskEnv n i
  let zero (r : Nat) : Bool := match e.r r with
    | some t => (winSeg t (x.graph.winRec d r) 0).2.contains 0
    | none => false
  match TD.typ d with
  | 4 => zero 0 || zero 1
  | 5 => if TD.variant d = 3 then false else if TD.variant d = 2 then zero 0 else (s.newRed n i).elems = 0
  | _ => false

/-- A task that takes no panel and has ended completes, raising the flag of a transfer received, a barrier or an empty COLL task (R285,
R288, R339, R365), or it failed. -/
def State.endDue (s : State) (n i : Nat) : State :=
  let x := s.slot n
  let d := x.desc i
  match (x.task i).ends with
  | none => s
  | some st =>
    let s := s.setSlot n (x.setTask i { x.task i with ends := none })
    if (x.task i).finished then s
    else if st ≠ 1 then (s.finishTask n i st).failMark n false
    else
      let s := s.finishWell n i
      if TD.typ d = 5 ∧ (TD.variant d = 3 ∨ (TD.variant d = 2 ∧ CB.recv d) ∨ s.moveless n i) then s.raiseFlag x.ctx.toNat (CB.cflag0 d) else s

/-- A slot whose admission ended enters RUNNING: its reductions start at epoch 0 and open (R279, R346, R364). -/
def State.enterRunning (s : State) (n : Nat) : State :=
  let x := s.slot n
  if x.st ≠ .admitting ∨ !x.admitted then s else
  let c := x.ctx.toNat
  let ids := x.graph.tasks.map TD.redid
  let s := s.setCtx c { s.ctx c with epochs := tkeep (fun k => !ids.contains k) (s.ctx c).epochs }
  (s.startSlot n).openAll n

/-- The engines of a checking panel after its check: engine e holds what primary engine (e + r) mod 16 holds, its queues empty (R372). -/
def Panel.afterCheck (q p : Panel) (rot : Nat) : Panel :=
  let x := ({ p with fault := none }).landTo 31
  { q with lastCtx := p.lastCtx
           engines := Vector.ofFn fun e => { x.eng ((e.val + rot) % 16) with qa := [], qb := [], qp := [], qd := [], qe := [], qf := [], qn := [], qx := [] } }

/-- Cross swatches of the frame that ended are due for comparison (R372, R373). -/
def State.endChecks (s : State) : State :=
  let past (k : Check) : Bool := !((s.panel k.primary).seg.any fun g => g.slot = k.slot && g.task = k.task && g.sigma = k.sigma)
  let s := (s.swt.checking.filter past).foldl (fun s k => s.setPanel k.panel ((s.panel k.panel).afterCheck (s.panel k.primary) k.rot)) s
  { s with swt := { s.swt with due := s.swt.due ++ s.swt.checking.filter past, checking := s.swt.checking.filter fun k => !past k } }

/-- Step 2 of the tick: segments and faults, task completions, outcomes of votes, slots that settle, end or start, fences, pages of
destroyed tensors, claims. -/
def State.retireFrame (s : State) : State :=
  let slots (s : State) (f : State → Nat → State) : State := (List.range 64).foldl f s
  let s := (((List.range 32).foldl (fun s p => s.retirePanel p) s).eachTask State.endTask).eachTask State.endDue
  let s := slots s fun s n => (s.applyOutcome n).settleSlot n
  let s := s.endChecks.applyFences
  let s := (List.range 16).foldl (fun s c => s.freeDestroyed c) s
  let s := (slots s fun s n => (s.leaveDue n).enterRunning n).eachTask State.endEmpty
  (slots s fun s n => (s.doneSlot n).settleSlot n).claimAll

/-! ### Step 3: the skip (R27, R476, R483) -/

/-- The floor of R476 at a tick whose 100 µs average is known. -/
def State.floorCheck (s : State) (watts : Nat) : State :=
  let p := s.pwr
  let s := { s with pwr := { p with peak := if p.peak.toNat < watts then BitVec.ofNat 16 watts else p.peak
                                    floorLeft := if 4300 < watts then 2 else p.floorLeft } }
  let s := { s with pwr := s.pwr.shown }
  if 4300 < watts ∧ p.floorLeft = 0 then (s.pwrSet (2 ^ 61)).log { code := 0x0A02, sev := 1, data := watts } else s

/-- Is frame F skipped under a skip count n (R483)? -/
def skipped (f n : Nat) : Bool := decide (bitRev 6 (f % 64) < n)

/-! ### Step 4: dispatch (R283, R286, R287, R412) -/

/-- Panels that may take a segment at this tick. -/
def State.freePanels (s : State) : List Nat :=
  (List.range 32).filter fun p => s.panelUp p && (s.panel p).seg.isNone && !(s.swt.checking.any fun k => k.panel = p)

/-- How many panels are present (R412). -/
def State.present (s : State) : Nat := ((List.range 32).filter fun p => s.remap.present p).length

/-- The partition that holds the first page of a task's first non-null reference (R287). -/
def State.firstPart (s : State) (n i : Nat) : Option Nat :=
  let e := s.taskEnv n i
  match [2, 0, 1, 3, 4, 5, 6, 7].find? fun r => TD.tref e.d r ≠ 0 with
  | none => none
  | some r => match e.r r with
    | some t => if t.pages = 0 then none else some (t.stackOf 0 / 6)
    | none => none

/-- Free panels in the order a task prefers them (R287). -/
def State.prefer (s : State) (n i : Nat) (free : List Nat) : List Nat :=
  match s.firstPart n i with
  | none => free
  | some d => (free.filter fun p => p / 16 = d) ++ free.filter fun p => p / 16 ≠ d

/-- Do two segments of a task write one Selvedge-64 block (R303)? -/
def State.shareBlock (s : State) (n i a b : Nat) : Bool :=
  let e := s.taskEnv n i
  e.writes.any fun r => match e.r r with
    | none => false
    | some t =>
      let box (sg : Nat) : List (Nat × Nat) :=
        let (st, ct) := winSeg t ((s.slot n).graph.winRec e.d r) sg
        (List.range 4).map fun k =>
          let lo := nth 0 st k
          let hi := lo + nth 0 ct k
          if hi = lo then (0, 0) else if k = 0 then (lo / 32 * 32, alignUp hi 32) else (lo, hi)
      t.selv && boxMeet (box a) (box b)

/-- Segments of a task that run or wait for their writeback. -/
def State.openSegs (s : State) (n i : Nat) : List Nat :=
  s.panels.toList.flatMap fun p => (p.seg.toList ++ p.wbq.map (·.seg)).filterMap fun g => if g.slot = n ∧ g.task = i then some g.sigma else none

/-- The longest run of a list, each of whose members suits those before it. -/
def suited (ok : List Nat → Nat → Bool) : List Nat → List Nat → List Nat
  | acc, [] => acc
  | acc, k :: t => if ok acc k then suited ok (acc ++ [k]) t else acc

/-- The segments a task wants at this tick, in ascending order (R286, R412), up to one that R303 holds back. -/
def State.wanted (s : State) (n i : Nat) : List Nat :=
  let d := (s.slot n).desc i
  let k := ((s.slot n).task i).next
  let run := s.openSegs n i
  suited (fun acc sg => !((run ++ acc).any fun o => s.shareBlock n i o sg)) []
    ((List.range (min (TD.panels d) (min s.present (TD.segments d - k)))).map (k + ·))

/-- Suspect records of a segment (R376). -/
def State.suspectsOf (s : State) (n i sg : Nat) : List Suspect := s.swt.suspects.filter fun r => r.slot = n && r.task = i && r.sigma = sg

/-- Are the windows of a staged segment as HBM holds them, or can they be fetched again (R283, R300)? -/
def State.stagedOk (s : State) (p : Nat) (g : Seg) : Bool :=
  g.refs.all fun r => (s.stale (s.panel p) g r).isEmpty || !(r.pages.any s.isFar)

/-- The length of a segment computed at dispatch (R170). -/
def State.lengthOk (s : State) (p : Nat) (g : Seg) : Bool :=
  (segLen (fun k => if k < g.words then (tget 0 (s.panel p).store (g.prog + k)).toNat else RW.segEndOnly) g.lc).isSome

/-- May a segment run on a panel, as its forerunner order asks: segments that share an element follow one another on one panel (R102)? -/
def State.panelFits (s : State) (n i p : Nat) : Bool :=
  let x := s.slot n
  TD.cls (x.desc i) ≠ 3 || !(segsShareOut x.graph (s.taskEnv n i)) || (x.task i).lastPanel.all (· = p)

/-- A free panel for a segment: the first preferred one where it is staged with its program, not a suspect's panel in a decision
run (R283, R376), and the anchor records it needs. -/
def State.placeFor (s : State) (n i sg : Nat) (pref : List Nat) : Option (Nat × Seg) :=
  let sus := s.suspectsOf n i sg
  let clear (p : Nat) : Bool := sus.all fun r => engPanel r.x ≠ s.remap.panel p && engPanel r.y ≠ s.remap.panel p
  let hit := (pref.filter fun p => clear p && s.panelFits n i p).findSome? fun p =>
    ((s.panel p).staged.find? fun g => g.slot = n && g.task = i && g.sigma = sg && s.stagedOk p g && s.lengthOk p g).map fun g => (p, g)
  match hit with
  | none => none
  | some (p, g) =>
    if g.typ = 1 && g.variant = 0 && g.redid ≠ 0 && !s.attnAgreed g then none else if s.anchorsReady g then some (p, g) else none

/-- Panels for all segments of a list, one each. -/
def State.placeAll (s : State) (n i : Nat) : List Nat → List Nat → Option (List (Nat × Seg))
  | _, [] => some []
  | pref, k :: t =>
    match s.placeFor n i k pref with
    | none => none
    | some x => (s.placeAll n i (pref.filter (· ≠ x.1)) t).map (x :: ·)

/-! ### Cross swatches and decision runs (R370 to R376) -/

/-- A draw: is a segment on a panel sampled (R370)? -/
def State.sample (s : State) (p : Nat) : Bool × State :=
  let (d, s) := s.draw
  let k := s.swt.exp.toNat
  (d % 2 ^ (if (s.remap.spare p).isNone then k - 1 else k) = 0, s)

/-- The checking panel for a primary among free panels with room for its grant (R371). -/
def State.checker (s : State) (free : List Nat) (p granules : Nat) : Option Nat :=
  let l := free.filter fun q => ((s.panel q).grant granules).isSome
  match l.find? fun q => q / 16 ≠ p / 16 with
  | some q => some q
  | none => l.head?

/-- Checking panels for a list of primaries, or none where one has none: (primary, checking panel). -/
def State.checkers (s : State) : List Nat → List (Nat × Seg) → Option (List (Nat × Nat))
  | _, [] => some []
  | free, (p, g) :: t =>
    match s.checker free p g.granules with
    | none => none
    | some q => (s.checkers (free.filter (· ≠ q)) t).map ((p, q) :: ·)

/-- The checking panels of a decision run on a panel (R376): each suspect still in service, with the tile on it. -/
def State.decisionChecks (s : State) (pn : Nat) (g : Seg) : List Check :=
  (s.suspectsOf g.slot g.task g.sigma).flatMap fun r => [r.x, r.y].filterMap fun x =>
    if s.remap.fencedEng.contains x then none else
    match (List.range 32).find? fun p => s.remap.panel p = engPanel x ∧ s.remap.present p with
    | none => none
    | some p =>
      let k (rot : Nat) : Check :=
        { panel := p, primary := pn, rot := rot, slot := g.slot, task := g.task, sigma := g.sigma, attempt := (s.slot g.slot).attempt.toNat, susp := some r }
      match s.remap.logical p x with
      | some e => some (k ((r.tile + 16 - e) % 16))
      | none => if r.sharesPanel ∧ !s.remap.fencedEng.contains r.x then none else some (k 0)

/-- The checking panel of a sampled segment, with a rotation drawn from 1 to 15 (R372). -/
def State.crossCheck (s : State) (p q : Nat) (g : Seg) : Check × State :=
  let (d, s) := s.draw
  ({ panel := q, primary := p, rot := 1 + d % 15, slot := g.slot, task := g.task, sigma := g.sigma, attempt := (s.slot g.slot).attempt.toNat }, s)

/-! ### Binding a segment (R118, R143, R170, R300) -/

/-- The engines of a panel as the walk of a segment finds them: the labels of the slices its B halves hold (R143). -/
def Panel.mapEngs (p : Panel) : List MapEng :=
  p.engines.toList.map fun n => { half0 := n.half0.slices.map (·.lab), half1 := n.half1.slices.map (·.lab), active1 := n.active1 }

/-- The Gauge units write a GEMM segment's anchor records before its first frame (R118): those of the groups whose elements the walk
finds; a group without an element keeps a valid record, or takes anchor 0 (R80). Other segments leave the anchor files as they are
(R143). A record written anew is free of error. -/
def State.gauge (s : State) (pn : Nat) (g : Seg) : State :=
  let p := s.panel pn
  if g.typ ≠ 0 then s.setPanel pn { p with seg := some g } else
  let g := { g with assoc := (g.walk (fun k => (tget 0 p.store (g.prog + k)).toNat) p.mapEngs).engs.map (·.first) }
  let p := p.mapEng fun e n => (List.range 256).foldl (fun (n : Engine) k =>
    let put (a : BitVec 32) : Engine := { n with anchors := tset 0 n.anchors k a, badAnc := n.badAnc.filter (· ≠ k) }
    match s.groupAnchor g e k with
    | some a => put a
    | none => if (Anc.of (tget 0 n.anchors k)).valid then n else put ({ T := 0, cls := g.cls, epoch := 0, climb := false, valid := true } : Anc).toW) n
  s.setPanel pn { p with seg := some g }

/-- A panel as a segment starts: the state of another context cleared, the sequencer at its first word. -/
def Panel.bind (p : Panel) (g : Seg) : Panel :=
  let p := if p.lastCtx.isSome ∧ p.lastCtx ≠ some g.ctx then { p.residue.mapEng (fun _ n => n.clearCtx) with fly := [] } else p
  let p := p.mapEng fun _ n => { n with digest := 0, cables := [], elemFree := 0, normFree := 0, normAt := [] }
  { p with seg := some g, lastCtx := some g.ctx, pc := 0, cycle := 128, single := none, ended := false, cnt := g.lc.map (BitVec.ofNat 16 ·)
           lat := [0, 0, 0, 0], live := [0, 0, 0, 0], ag := g.ags.map AGC.start, wtags := [], raises := [], fault := none, tainted := false
           written := [], flags := List.replicate 8 0, qS := List.replicate 8 0, qE := List.replicate 8 0, gradOvf := false, backed := false
           arr := []
           staged := p.staged.filter fun h => !(h.slot = g.slot && h.task = g.task && h.sigma = g.sigma) }

/-- What is bound at dispatch (R300): the segment as its task stands now, in its grant, its windows fetched again where they were written
since staging; copies of it staged on other panels go. -/
def State.restage (s : State) (pn : Nat) (g : Seg) : Seg × State :=
  let g := { s.buildSeg g.slot g.task g.sigma with map := g.map, prog := g.prog }
  let p := s.panel pn
  let fresh := g.refs.flatMap (s.stale p g)
  let s := { s with panels := s.panels.map fun q : Panel => { q with staged := q.staged.filter fun h => !(h.slot = g.slot && h.task = g.task && h.sigma = g.sigma) } }
  (g, s.setPanel pn { s.panel pn with sram := fresh.foldl (fun m (x : Nat × Line) => tset {} m x.1 x.2) p.sram })

/-- A segment is dispatched to a panel. A record none of whose suspects is in service closes (R376). -/
def State.bindSeg (s0 : State) (pn : Nat) (g0 : Seg) (checks : List Check) : State :=
  let (g, s) := s0.restage pn g0
  let s := s.setPanel pn ((s.panel pn).bind g)
  let s := s.gauge pn g
  let x := s.slot g.slot
  let t := x.task g.task
  let s := s.setSlot g.slot (x.setTask g.task { t with next := g.sigma + 1, running := t.running ++ [g.sigma], dispatched := true, lastPanel := some pn })
  let gone (r : Suspect) : Bool := r.slot = g.slot && r.task = g.task && r.sigma = g.sigma && !(checks.any fun k => k.susp = some r)
  { s with swt := { s.swt with checking := s.swt.checking ++ checks, suspects := s.swt.suspects.filter fun r => !gone r } }

/-- Segments dispatched together with their checking panels at one tick, or not at all (R286, R371, R376), within a budget of
panels. Samples that would need more panels than are present leave in descending order and are carried. -/
def State.serve (s : State) (n i : Nat) (ks : List Nat) (budget : Nat) : State × Bool :=
  let free := s.freePanels
  match s.placeAll n i (s.prefer n i free) ks with
  | none => (s, false)
  | some l =>
    let rest := free.filter fun p => !(l.any fun x => x.1 = p)
    let dec := (l.flatMap fun x => s.decisionChecks x.1 x.2).foldl (fun (a : List Check) k =>
      if a.any fun b => b.panel = k.panel ∧ b.rot ≠ k.rot then a else a ++ [k]) []
    let decP := (dec.map (·.panel)).eraseDups
    if !(decP.all rest.contains) then (s, false) else
    let rest := rest.filter fun p => !decP.contains p
    let plain := l.filter fun x => (s.suspectsOf n i x.2.sigma).isEmpty
    let (drawn, s) := plain.foldl (fun (q : List (Nat × Seg) × State) x =>
      let (b, t) := q.2.sample x.1
      (if b then q.1 ++ [(x.1, x.2)] else q.1, t)) ([], s)
    let room := s.present - l.length - decP.length
    match s.checkers rest (drawn.take room) with
    | none => (s, false)
    | some cs =>
      let size := l.length + decP.length + cs.length
      if budget < size then (s, false) else
      let rest := rest.filter fun p => !(cs.any fun c => c.2 = p)
      let carried := (plain.filter fun x => s.swt.carried.contains x.1 && !(cs.any fun c => c.1 = x.1)).map fun x => (x.1, x.2)
      let more := ((List.range (carried.length + 1)).foldl (fun (b : List (Nat × Nat)) k =>
        if budget < size + k then b else match s.checkers rest (carried.take k) with
          | some m => m
          | none => b) [])
      let used := (cs ++ more).map (·.1)
      let lost := (drawn.drop room).map (·.1)
      let s := { s with swt := { s.swt with carried := lost.foldl sins (s.swt.carried.filter fun p => !used.contains p) } }
      let t := l.foldl (fun (s : State) x =>
        let mine := dec.filter fun k => k.primary = x.1
        match (cs ++ more).find? fun c => c.1 = x.1 with
        | some c => let (k, s) := s.crossCheck x.1 c.2 x.2; s.bindSeg x.1 x.2 (mine ++ [k])
        | none => s.bindSeg x.1 x.2 mine) s
      (t, true)

/-- One task's turn (R286): a gang whole or not at all, or as many segments as find panels. `s0` is the state when dispatch began. -/
def State.serveTask (s0 s : State) (n i budget : Nat) : State :=
  let d := (s.slot n).desc i
  let given := ((s.slot n).task i).next - ((s0.slot n).task i).next
  let ks := s.wanted n i
  if !TD.split d then (if 0 < given ∨ ks.isEmpty then s else (s.serve n i ks budget).1)
  else
    let f0 := s.freePanels.length
    ((ks.take (TD.panels d - given)).foldl (fun (q : State × Bool) k =>
      if q.2 then q.1.serve n i [k] (budget - (f0 - q.1.freePanels.length)) else q) (s, true)).1

/-- One pass over tasks in key order within a budget of panels. -/
def State.servePass (s0 s : State) (order : List (Nat × Nat)) (budget : Nat) : State :=
  let f0 := s.freePanels.length
  order.foldl (fun s x =>
    let d := (s.slot x.1).desc x.2
    if !TD.onPanels d ∨ TD.segments d ≤ ((s.slot x.1).task x.2).next ∨ !s0.ready x.1 x.2 then s
    else s0.serveTask s x.1 x.2 (budget - (f0 - s.freePanels.length))) s

/-! ### Tasks that take no panel (R287, R288, R339, R351, R365) -/

/-- A dispatched transfer (R365): the receiver grants; a sender whose GRANT came before sends. -/
def State.startP2P (s : State) (n i : Nat) : State :=
  let x := s.slot n
  let d := x.desc i
  let c := x.ctx.toNat
  let y : P2P := { ctx := c, slot := n, task := i, peer := CB.peer d, tag := CB.tag d, recv := CB.recv d }
  if y.recv then
    { s with fab := { s.fab with p2p := s.fab.p2p ++ [y] } }.lsSend c y.peer (signalMsg 4 0 y.tag 0 0 0)
  else
    let early (z : P2P) : Bool := z.slot = 64 && z.ctx = c && z.peer = y.peer && z.tag = y.tag && !z.recv
    let had := s.fab.p2p.any early
    let s := { s with fab := { s.fab with p2p := s.fab.p2p.filter (fun z => !early z) ++ [y] } }
    if had then s.p2pSend y else s

/-- A ready task that takes no panel is dispatched to its unit (R287). -/
def State.dispatchUnit (s : State) (n i : Nat) : State :=
  let x := s.slot n
  let d := x.desc i
  let c := x.ctx.toNat
  let none_ := s.moveless n i
  let s := s.setSlot n (x.setTask i { x.task i with dispatched := true })
  if none_ then (s.endsWith n i 1).endDue n i
  else if TD.typ d ≠ 5 then s
  else match TD.variant d with
    | 1 => s.flagGather n i
    | 2 => s.startP2P n i
    | 3 => swUse (s.swStart c (CB.cgroup d) 6 [] 7 n i)
    | _ => s

/-- Dispatch (R286, R287): guarantees by context, then what remains to all; the other tasks to their units. -/
def State.dispatchAll (s0 : State) : State :=
  let s := (List.range 16).foldl (fun s c => s0.servePass s (s0.taskOrder (some c)) (s0.ctx c).cfg.panels.toNat) s0
  let all := s0.taskOrder none
  let s := s0.servePass s all 32
  all.foldl (fun s x =>
    if TD.onPanels ((s.slot x.1).desc x.2) ∨ ((s.slot x.1).task x.2).dispatched ∨ ((s.slot x.1).task x.2).finished ∨ !s0.ready x.1 x.2 then s
    else s.dispatchUnit x.1 x.2) s

/-- The tick (R285): the frame counter advances on every frame; commits, then what waited for a tick; the frame that ended retires;
the skip; dispatch. In Slack every frame is skipped, and the power-down handshake stops dispatch (R478). -/
def State.tick (s : State) (watts : Nat) : State :=
  let s := ({ s with frame := s.frame + 1 }.commitAll).beginWaiting
  if !s.tickRun then s else
  let s := ((s.slackStep.serveHeld).retireFrame).floorCheck watts
  if skipped s.frame.toNat s.pwr.skipCount then { s with pwr := { s.pwr with skips := bump s.pwr.skips } }
  else if s.pins.handshake then s
  else s.dispatchAll

/-- Did a tick dispatch a segment over a tag that software understated (R176)? -/
def State.metUnderstated (s t : State) : Bool :=
  (List.range 32).any fun p => match (t.panel p).seg with
    | some g => !((s.panel p).seg.any fun h => h.slot = g.slot && h.task = g.task && h.sigma = g.sigma) && g.refs.any t.understated
    | none => false

/-- TIDE_TICK (R285). Nothing happens while no tick runs (R428, R485). -/
def execTideTick (watts : Nat) (s : State) : Host.Outcome State Fault Refusal :=
  if !s.tickRun then .next s else
  let t := s.tick watts
  if s.metUnderstated t then .fault .tagUnderstated else .next t

end Sys2Proof.Machine
end

