-- ==== Sys2Proof/Machine/Dispatch.lean ====
section
/-! DEFINITION. One arm per command: the call of its meaning. -/
namespace Sys2Proof.Machine

def exec (i : Instr) (s : State) : Host.Outcome State Fault Refusal :=
  match i with
  | .tideTick watts => Sys2Proof.Machine.execTideTick watts s
  | .rowWordIssue panel => Sys2Proof.Machine.execRowWordIssue panel s
  | .operandReadArrival read => Sys2Proof.Machine.execOperandReadArrival read s
  | .productVisible panel => Sys2Proof.Machine.execProductVisible panel s
  | .drainEntryArrival panel => Sys2Proof.Machine.execDrainEntryArrival panel s
  | .preloadVisible panel => Sys2Proof.Machine.execPreloadVisible panel s
  | .neighbourAddVisible panel => Sys2Proof.Machine.execNeighbourAddVisible panel s
  | .partialSendArrival panel => Sys2Proof.Machine.execPartialSendArrival panel s
  | .elementResultPush panel => Sys2Proof.Machine.execElementResultPush panel s
  | .normFinishSettle panel => Sys2Proof.Machine.execNormFinishSettle panel s
  | .bHalfReady panel => Sys2Proof.Machine.execBHalfReady panel s
  | .writeTurnaroundEnd panel => Sys2Proof.Machine.execWriteTurnaroundEnd panel s
  | .residueCheck panel => Sys2Proof.Machine.execResidueCheck panel s
  | .shadowSwatch panel upset digX digY => Sys2Proof.Machine.execShadowSwatch panel upset digX digY s
  | .crossSwatch panel upset engine digX digY => Sys2Proof.Machine.execCrossSwatch panel upset engine digX digY s
  | .admissionEnd slot => Sys2Proof.Machine.execAdmissionEnd slot s
  | .updateProgramRun slot task => Sys2Proof.Machine.execUpdateProgramRun slot task s
  | .gradientNormStart ctx => Sys2Proof.Machine.execGradientNormStart ctx s
  | .sealVoteIssue ctx => Sys2Proof.Machine.execSealVoteIssue ctx s
  | .stopNotice frame => Sys2Proof.Machine.execStopNotice frame s
  | .swashPacket frame => Sys2Proof.Machine.execSwashPacket frame s
  | .replayStart slot => Sys2Proof.Machine.execReplayStart slot s
  | .leafAdvanceConfirmed => Sys2Proof.Machine.execLeafAdvanceConfirmed s
  | .signatureRelease => Sys2Proof.Machine.execSignatureRelease s
  | .receiptKeyReady entry => Sys2Proof.Machine.execReceiptKeyReady entry s
  | .epochEnd slot task => Sys2Proof.Machine.execEpochEnd slot task s
  | .anchorAgreementStart ctx redid chunk => Sys2Proof.Machine.execAnchorAgreementStart ctx redid chunk s
  | .shareEndSend ctx redid chunk piece => Sys2Proof.Machine.execShareEndSend ctx redid chunk piece s
  | .pieceDrain ctx redid chunk piece => Sys2Proof.Machine.execPieceDrain ctx redid chunk piece s
  | .collTaskComplete slot task => Sys2Proof.Machine.execCollTaskComplete slot task s
  | .moveComplete slot task => Sys2Proof.Machine.execMoveComplete slot task s
  | .windowStage panel slot task seg => Sys2Proof.Machine.execWindowStage panel slot task seg s
  | .writeback panel => Sys2Proof.Machine.execWriteback panel s
  | .pageEvict ctx lender => Sys2Proof.Machine.execPageEvict ctx lender s
  | .pageRecall ctx => Sys2Proof.Machine.execPageRecall ctx s
  | .uncorrectableError loc => Sys2Proof.Machine.execUncorrectableError loc s
  | .patrolScrub corrected bad => Sys2Proof.Machine.execPatrolScrub corrected bad s
  | .lsDataRx frame => Sys2Proof.Machine.execLsDataRx frame s
  | .ackRx frame => Sys2Proof.Machine.execAckRx frame s
  | .joinRx frame => Sys2Proof.Machine.execJoinRx frame s
  | .joinAckRx frame => Sys2Proof.Machine.execJoinAckRx frame s
  | .resettingRx frame => Sys2Proof.Machine.execResettingRx frame s
  | .probeRx frame => Sys2Proof.Machine.execProbeRx frame s
  | .raise frame => Sys2Proof.Machine.execRaise frame s
  | .climb frame => Sys2Proof.Machine.execClimb frame s
  | .shareEnd frame => Sys2Proof.Machine.execShareEnd frame s
  | .grant frame => Sys2Proof.Machine.execGrant frame s
  | .anchorReport frame => Sys2Proof.Machine.execAnchorReport frame s
  | .agreedAnchor frame => Sys2Proof.Machine.execAgreedAnchor frame s
  | .pageData frame => Sys2Proof.Machine.execPageData frame s
  | .twinDelta frame => Sys2Proof.Machine.execTwinDelta frame s
  | .twinDeltaClose frame => Sys2Proof.Machine.execTwinDeltaClose frame s
  | .twinEcho frame => Sys2Proof.Machine.execTwinEcho frame s
  | .arpRequest sub ip => Sys2Proof.Machine.execArpRequest sub ip s
  | .neighbourSolicitation sub ip => Sys2Proof.Machine.execNeighbourSolicitation sub ip s
  | .pfcPauseFrame port classes => Sys2Proof.Machine.execPfcPauseFrame port classes s
  | .foreignFrameDrop sub => Sys2Proof.Machine.execForeignFrameDrop sub s
  | .retransmitTimerExpiry ctx rank tc seq => Sys2Proof.Machine.execRetransmitTimerExpiry ctx rank tc seq s
  | .ackDelayExpiry ctx rank tc => Sys2Proof.Machine.execAckDelayExpiry ctx rank tc s
  | .joinRetry ctx rank => Sys2Proof.Machine.execJoinRetry ctx rank s
  | .probeTimer ctx rank => Sys2Proof.Machine.execProbeTimer ctx rank s
  | .holdExpiry ctx rank => Sys2Proof.Machine.execHoldExpiry ctx rank s
  | .noServiceTimeout => Sys2Proof.Machine.execNoServiceTimeout s
  | .congestionDecay ctx rank tc => Sys2Proof.Machine.execCongestionDecay ctx rank tc s
  | .congestionIncrease ctx rank tc => Sys2Proof.Machine.execCongestionIncrease ctx rank tc s
  | .laneSignalLoss port lane => Sys2Proof.Machine.execLaneSignalLoss port lane s
  | .fecErrorBurst port sub => Sys2Proof.Machine.execFecErrorBurst port sub s
  | .laserFailure port lane => Sys2Proof.Machine.execLaserFailure port lane s
  | .laserWear port lane => Sys2Proof.Machine.execLaserWear port lane s
  | .retrainEnd port sub good => Sys2Proof.Machine.execRetrainEnd port sub good s
  | .excludedRetry port sub => Sys2Proof.Machine.execExcludedRetry port sub s
  | .retrain fn port => Sys2Proof.Machine.execRetrain fn port s
  | .throttleWindow watts tempA tempB => Sys2Proof.Machine.execThrottleWindow watts tempA tempB s
  | .heartbeat => Sys2Proof.Machine.execHeartbeat s
  | .wearSample hours samples => Sys2Proof.Machine.execWearSample hours samples s
  | .tokenRefill => Sys2Proof.Machine.execTokenRefill s
  | .wracklineFlashCopy => Sys2Proof.Machine.execWracklineFlashCopy s
  | .txnBegin fn => Sys2Proof.Machine.execTxnBegin fn s
  | .txnCommit fn => Sys2Proof.Machine.execTxnCommit fn s
  | .txnRollback fn => Sys2Proof.Machine.execTxnRollback fn s
  | .registerWrite fn sel part value => Sys2Proof.Machine.execRegisterWrite fn sel part value s
  | .badRegisterAccess fn ofs isRead => Sys2Proof.Machine.execBadRegisterAccess fn ofs isRead s
  | .errClear fn ofs value => Sys2Proof.Machine.execErrClear fn ofs value s
  | .escEventClear fn value => Sys2Proof.Machine.execEscEventClear fn value s
  | .pwrEventClear value => Sys2Proof.Machine.execPwrEventClear value s
  | .apertureDataAccess fn write => Sys2Proof.Machine.execApertureDataAccess fn write s
  | .arm slot ctx irqEn => Sys2Proof.Machine.execArm slot ctx irqEn s
  | .cancel slot => Sys2Proof.Machine.execCancel slot s
  | .create ctx offer reattach regen => Sys2Proof.Machine.execCreate ctx offer reattach regen s
  | .teardown ctx => Sys2Proof.Machine.execTeardown ctx s
  | .teardownDrainComplete ctx => Sys2Proof.Machine.execTeardownDrainComplete ctx s
  | .teardownTimeout ctx => Sys2Proof.Machine.execTeardownTimeout ctx s
  | .tensorCreate ctx rec => Sys2Proof.Machine.execTensorCreate ctx rec s
  | .tensorModify ctx rec => Sys2Proof.Machine.execTensorModify ctx rec s
  | .tensorDestroy ctx tid => Sys2Proof.Machine.execTensorDestroy ctx tid s
  | .tensorRead ctx tid => Sys2Proof.Machine.execTensorRead ctx tid s
  | .orphanDiscard ctx => Sys2Proof.Machine.execOrphanDiscard ctx s
  | .bar2Write fn ofs data => Sys2Proof.Machine.execBar2Write fn ofs data s
  | .bar2Read fn ofs len => Sys2Proof.Machine.execBar2Read fn ofs len s
  | .contextReset ctx => Sys2Proof.Machine.execContextReset ctx s
  | .engineReset panel engine => Sys2Proof.Machine.execEngineReset panel engine s
  | .panelReset panel => Sys2Proof.Machine.execPanelReset panel s
  | .partitionReset part => Sys2Proof.Machine.execPartitionReset part s
  | .moduleFastPathReset => Sys2Proof.Machine.execModuleFastPathReset s
  | .fullModuleReset => Sys2Proof.Machine.execFullModuleReset s
  | .crashDumpOnly => Sys2Proof.Machine.execCrashDumpOnly s
  | .dumpUnitTimeout => Sys2Proof.Machine.execDumpUnitTimeout s
  | .hardwareFault dom => Sys2Proof.Machine.execHardwareFault dom s
  | .resetComplete tests elapsed => Sys2Proof.Machine.execResetComplete tests elapsed s
  | .resetBoundExpiry => Sys2Proof.Machine.execResetBoundExpiry s
  | .flrPf0 => Sys2Proof.Machine.execFlrPf0 s
  | .flrVf fn => Sys2Proof.Machine.execFlrVf fn s
  | .perstAssert => Sys2Proof.Machine.execPerstAssert s
  | .perstDeassert => Sys2Proof.Machine.execPerstDeassert s
  | .pwrEnRise => Sys2Proof.Machine.execPwrEnRise s
  | .powerDownHandshake => Sys2Proof.Machine.execPowerDownHandshake s
  | .inputExcursion => Sys2Proof.Machine.execInputExcursion s
  | .thermalTrip => Sys2Proof.Machine.execThermalTrip s
  | .inputPowerLoss => Sys2Proof.Machine.execInputPowerLoss s
  | .bringupStageEnd facts => Sys2Proof.Machine.execBringupStageEnd facts s
  | .pwrReqOperating => Sys2Proof.Machine.execPwrReqOperating s
  | .slackRequest => Sys2Proof.Machine.execSlackRequest s
  | .neapRequest => Sys2Proof.Machine.execNeapRequest s
  | .dryRequest => Sys2Proof.Machine.execDryRequest s
  | .powerStateTransitionDone => Sys2Proof.Machine.execPowerStateTransitionDone s
  | .mailboxGo len => Sys2Proof.Machine.execMailboxGo len s
  | .mailboxAbort => Sys2Proof.Machine.execMailboxAbort s
  | .mailboxDataAccess write => Sys2Proof.Machine.execMailboxDataAccess write s
  | .getVersion transport => Sys2Proof.Machine.execGetVersion transport s
  | .getCert transport kind job seq => Sys2Proof.Machine.execGetCert transport kind job seq s
  | .getMeasurements transport nonce => Sys2Proof.Machine.execGetMeasurements transport nonce s
  | .getLeaves transport => Sys2Proof.Machine.execGetLeaves transport s
  | .receiptKeyErase => Sys2Proof.Machine.execReceiptKeyErase s
  | .adGo ctx => Sys2Proof.Machine.execAdGo ctx s
  | .pldmSensorRequest sensor => Sys2Proof.Machine.execPldmSensorRequest sensor s
  | .inputPowerApplied mv => Sys2Proof.Machine.execInputPowerApplied mv s
  | .inputQualified mv => Sys2Proof.Machine.execInputQualified mv s
  | .powerDownHandshakeEnd => Sys2Proof.Machine.execPowerDownHandshakeEnd s
  | .internalLinkRelease => Sys2Proof.Machine.execInternalLinkRelease s
  | .pcieLinkTrained => Sys2Proof.Machine.execPcieLinkTrained s
  | .crashDumpComplete => Sys2Proof.Machine.execCrashDumpComplete s
  | .doeDiscovery index => Sys2Proof.Machine.execDoeDiscovery index s
  | .dStateChange fn d3hot => Sys2Proof.Machine.execDStateChange fn d3hot s
  | .adoptionPullRequest rank ctx step => Sys2Proof.Machine.execAdoptionPullRequest rank ctx step s
  | .hostSpillRegionUnreachable ctx => Sys2Proof.Machine.execHostSpillRegionUnreachable ctx s

end Sys2Proof.Machine
end

