-- ==== Sys2Proof/Safety.lean ====
section
/-! DEFINITION. What a run that stays within the spec's guarantees is. -/
namespace Sys2Proof

open Machine

/-- A step is safe when the block goes on: it meets none of the undefined cases of R176. -/
def SafeStep (s : State) : Prop := ∃ t, step s = .next t

/-- A run of k steps is safe when each step is. -/
def SafeRun : Nat → State → Prop
  | 0, _ => True
  | k + 1, s => ∃ t, step s = .next t ∧ SafeRun k t

end Sys2Proof
end

