-- ==== Sys2Proof/Certificates/Slice0/Obligations.lean ====
section
/-! DEFINITION. The statements for the provers, from the numbered rules of spec/. A statement says what a next state holds by its
fields; `Only` says which units of the state it may change, and so that every other one is unchanged. -/
namespace Sys2Proof.Stated

open Machine

/-- The units of the state, one for each field of `State`. -/
inductive Part where
  | frame | tickRun | panels | ctxs | slots | mem | poison | fab | tdp | pager | swt | esc | wrk | dump | remap | bru | host | pwr
  | pins | wer | sec | wire | out | fresh | pending
  deriving DecidableEq, Repr

/-- One unit is the same in two states. For `mem`, that every byte of memory reads as before. -/
def Part.same : Part → State → State → Prop
  | .frame, s, t => t.frame = s.frame
  | .tickRun, s, t => t.tickRun = s.tickRun
  | .panels, s, t => t.panels = s.panels
  | .ctxs, s, t => t.ctxs = s.ctxs
  | .slots, s, t => t.slots = s.slots
  | .mem, s, t => ∀ a, tget 0 t.mem a = tget 0 s.mem a
  | .poison, s, t => t.poison = s.poison
  | .fab, s, t => t.fab = s.fab
  | .tdp, s, t => t.tdp = s.tdp
  | .pager, s, t => t.pager = s.pager
  | .swt, s, t => t.swt = s.swt
  | .esc, s, t => t.esc = s.esc
  | .wrk, s, t => t.wrk = s.wrk
  | .dump, s, t => t.dump = s.dump
  | .remap, s, t => t.remap = s.remap
  | .bru, s, t => t.bru = s.bru
  | .host, s, t => t.host = s.host
  | .pwr, s, t => t.pwr = s.pwr
  | .pins, s, t => t.pins = s.pins
  | .wer, s, t => t.wer = s.wer
  | .sec, s, t => t.sec = s.sec
  | .wire, s, t => t.wire = s.wire
  | .out, s, t => t.out = s.out
  | .fresh, s, t => t.fresh = s.fresh
  | .pending, s, t => t.pending = s.pending

/-- The frame of a command: nothing but the units listed differs. -/
def Only (l : List Part) (s t : State) : Prop := ∀ p, p ∉ l → p.same s t

/-- The two units that a log entry or an interrupt may change beside what it is about: the outputs and the interrupts held. -/
abbrev Raised : List Part := [.host, .out]

/-- The units that packets sent may change: they leave on the wire or wait at a paused port, and a rank that cannot be reached is
logged and held to its context's vector 6. -/
abbrev Sent : List Part := .fab :: .wrk :: .wire :: .fresh :: Raised

/-- A command runs and its next state satisfies P. -/
def Runs (c : Instr) (s : State) (P : State → Prop) : Prop := ∃ t, exec c s = .next t ∧ P t

end Sys2Proof.Stated

open Sys2Proof Sys2Proof.Machine Sys2Proof.Stated

/-! ### The block -/

/-- A step runs the command at the front of the queue with the queue's rest. -/
def Sys2Proof.Stated.StepRunsFrontCommand : Prop :=
  ∀ (c : Instr) (rest : List Instr) (s : State), s.pending = c :: rest → step s = exec c { s with pending := rest }

/-- On an empty queue the block idles: the model's choice, log 7. -/
def Sys2Proof.Stated.EmptyQueueIdles : Prop := ∀ s : State, s.pending = [] → step s = .next s

/-- A step runs the front command with the queue's rest, and idles on an empty queue (log 7): the statements
`StepRunsFrontCommand` and `EmptyQueueIdles` together. -/
def Obligations.StepRunsTheFrontCommandOrIdles : Prop := Stated.StepRunsFrontCommand ∧ Stated.EmptyQueueIdles

/-- No command touches the queue: after a step that goes on, the queue is the rest of what it was. -/
def Obligations.StepTakesOneCommand : Prop :=
  ∀ s t : State, step s = .next t → t.pending = s.pending.tail

/-- Memory keeps its canonical form at every step that goes on: strictly rising addresses, no entry equal to what an unlisted
address reads as. -/
def Obligations.StepKeepsMemoryCanonical : Prop :=
  ∀ s t : State, Memory.wf s.mem = true → step s = .next t → Memory.wf t.mem = true

/-- Memory at reset has its canonical form, lists nothing, and the queue is empty. -/
def Sys2Proof.Stated.ResetMemoryIsCanonical : Prop :=
  Memory.wf State.reset.mem = true ∧ (∀ a, tget 0 State.reset.mem a = 0) ∧ State.reset.pending = []

/-- The reset values the register tables of the spec give, and the states it names: frame counter 0 (R428), contexts FREE with their
answer field at 2 and the interval at 0x07D0 (R264, R456), slots IDLE (R275), ports and their lanes enabled with class weights and PCP
map (R312, R321), spares 4 (R318), the largest payload 8,192 (R320), congestion constants (R331), Tidepool quotas (R356), the swatch
configuration (R457), `PWR` (R488), nothing logged and no transaction open (R418, R448). -/
def Sys2Proof.Stated.ResetHoldsTheStatedValues : Prop :=
  State.reset.frame = 0
  ∧ (∀ c : Fin 16, State.reset.ctxs[c].st = .free ∧ State.reset.ctxs[c].answer = 2 ∧ State.reset.ctxs[c].cfg.interval = 0x07D0
      ∧ State.reset.ctxs[c].cfg.sealed = 0 ∧ State.reset.ctxs[c].flags = [] ∧ State.reset.ctxs[c].progress = 0)
  ∧ (∀ n : Fin 64, State.reset.slots[n].st = .idle ∧ State.reset.slots[n].busy = false ∧ State.reset.slots[n].doneCnt = 0)
  ∧ (∀ n : Fin 32, State.reset.fab.ports[n].laneEn = 0xFF ∧ State.reset.fab.ports[n].pfcEn = false ∧ State.reset.fab.ports[n].mode = 0
      ∧ State.reset.fab.ports[n].en = true)
  ∧ (∀ n : Fin 8, State.reset.fab.strands[n].spares = 4)
  ∧ State.reset.fab.largest = 8192 ∧ State.reset.fab.cong = { gainDen := 16, decNs := 4000, decayNum := 15, decayDen := 16, incNs := 8000, incDen := 256, floorDen := 4096 }
  ∧ (∀ d : Fin 2, State.reset.tdp[d].quota[0] = 16 ∧ ∀ c : Fin 16, c ≠ 0 → State.reset.tdp[d].quota[c] = 0)
  ∧ State.reset.swt.exp = 5 ∧ State.reset.swt.trLimit = 3 ∧ State.reset.swt.trWin = 0x18
  ∧ State.reset.pwr.cap = 0x0ED8 ∧ State.reset.pwr.tcap = 0x64 ∧ State.reset.pwr.st = 5 ∧ State.reset.pwr.cause = 0 ∧ State.reset.pwr.event = 0
  ∧ State.reset.wrk.seq = 0 ∧ State.reset.wrk.dumpWin = 0 ∧ (∀ f : Fin 16, State.reset.host.txn[f].st = 0 ∧ State.reset.host.txn[f].result = 0)

/-- Reset leaves memory canonical and the values the register tables state: the statements `ResetMemoryIsCanonical` and
`ResetHoldsTheStatedValues` together. -/
def Obligations.ResetHoldsTheStatedValues : Prop := Stated.ResetMemoryIsCanonical ∧ Stated.ResetHoldsTheStatedValues

/-! ### Power, the edge, wear and counters (spec/19) -/

/-- THROTTLE_WINDOW (R482): the power count, the thermal count, the skip count in force, the window's measurements and the events of
counts that rose above 0. Without a running tick there is no window. -/
def Obligations.ThrottleWindowSetsTheCounts : Prop :=
  ∀ (watts a b : Nat) (s : State),
    (s.tickRun = false → exec (.throttleWindow watts a b) s = .next s)
    ∧ (s.tickRun = true → Runs (.throttleWindow watts a b) s fun t =>
        t.pwr.np = (if s.pwr.cap.toNat < watts then min 64 (s.pwr.np + max 1 ((64 * (watts - s.pwr.cap.toNat) + watts - 1) / watts))
          else if 100 * watts < 98 * s.pwr.cap.toNat then s.pwr.np - 1 else s.pwr.np)
        ∧ t.pwr.nt = (if 105 ≤ max a b then 60 else if s.pwr.tcap.toNat < max a b then min 64 (s.pwr.nt + 4)
          else if max a b + 3 < s.pwr.tcap.toNat then s.pwr.nt - 1 else s.pwr.nt)
        ∧ t.pwr.skipN = (if s.pwr.st = 2 then 64 else max (max t.pwr.np t.pwr.nt) (if 1 < s.pwr.floorLeft then 32 else 0))
        ∧ t.pwr.pin = BitVec.ofNat 16 watts ∧ t.pwr.tja = BitVec.ofNat 8 a ∧ t.pwr.tjb = BitVec.ofNat 8 b
        ∧ t.pwr.event = s.pwr.event ||| (if s.pwr.nt = 0 ∧ 0 < t.pwr.nt then BitVec.ofNat 64 (2 ^ 62) else 0)
            ||| (if s.pwr.np = 0 ∧ 0 < t.pwr.np then BitVec.ofNat 64 (2 ^ 61) else 0)
        ∧ t.pwr.cap = s.pwr.cap ∧ t.pwr.tcap = s.pwr.tcap ∧ t.pwr.st = s.pwr.st
        ∧ Only (.pwr :: .pins :: .wrk :: .fresh :: Raised) s t)

/-- HEARTBEAT (R405), TOKEN_REFILL (R474), FOREIGN_FRAME_DROP (R319), PFC_PAUSE_FRAME (R312), D_STATE_CHANGE (R441): one register
or one set moves and nothing else. -/
def Sys2Proof.Stated.SimpleEventsMoveOneRegister : Prop :=
  (∀ s : State, s.pins.pwrGood = true → exec .heartbeat s = .next { s with esc := { s.esc with heartbeat := s.esc.heartbeat + 1 } })
  ∧ (∀ s : State, exec .tokenRefill s = .next { s with sec := { s.sec with tokens := if s.sec.tokens < 64 then s.sec.tokens + 1 else 64 } })
  ∧ (∀ (sub : Nat) (s : State), s.fab.foreign ≠ BitVec.allOnes 64 →
      exec (.foreignFrameDrop sub) s = .next { s with fab := { s.fab with foreign := s.fab.foreign + 1 } })
  ∧ (∀ (n : Fin 32) (classes : BitVec 8) (s : State),
      (s.fab.ports[n].pfcEn = false → exec (.pfcPauseFrame n classes) s = .next s)
      ∧ (s.fab.ports[n].pfcEn = true → s.fab.ports[n].waitq = [] → exec (.pfcPauseFrame n classes) s =
          .next { s with fab := { s.fab with ports := s.fab.ports.set n { s.fab.ports[n] with pfcPause := classes } } })
      ∧ (∀ w, s.fab.ports[n].pfcEn = true → s.fab.ports[n].waitq = [w] → w.sub / 8 = n →
          (classes.getLsbD (nth 0 s.fab.ports[n].pcp (LS.tc w.pkt.hdr)) = true → exec (.pfcPauseFrame n classes) s =
            .next { s with fab := { s.fab with ports := s.fab.ports.set n { s.fab.ports[n] with pfcPause := classes } } })
          ∧ (classes.getLsbD (nth 0 s.fab.ports[n].pcp (LS.tc w.pkt.hdr)) = false → Runs (.pfcPauseFrame n classes) s fun t =>
            t.fab = { s.fab with ports := s.fab.ports.set n { s.fab.ports[n] with pfcPause := classes, waitq := [] } }
            ∧ (∃ g : Frame, t.wire = s.wire ++ [g] ∧ g.sub = w.sub ∧ g.pkt.payload = w.pkt.payload) ∧ Only [.fab, .wire, .fresh] s t)))
  ∧ (∀ (fn : Nat) (d3hot : Bool) (s : State), s.host.link = true → Runs (.dStateChange fn d3hot) s fun t =>
      (∀ f, f ∈ t.host.d3 ↔ (if f = fn then d3hot = true else f ∈ s.host.d3))
      ∧ Only [.host] s t ∧ { t.host with d3 := s.host.d3 } = s.host)

/-- WRACKLINE_FLASH_COPY (R419): flash holds the last 256 entries of the ring, and the ring stays. -/
def Sys2Proof.Stated.FlashCopyHoldsTheLastEntries : Prop :=
  ∀ s : State, s.pins.pwrGood = true → Runs .wracklineFlashCopy s fun t =>
    t.wrk.flash.length ≤ 256
    ∧ (∀ k < 256, k < s.wrk.seq.toNat → tget 0 s.wrk.ring ((s.wrk.seq.toNat - 1 - k) % 32768) ≠ 0 →
        tget 0 s.wrk.ring ((s.wrk.seq.toNat - 1 - k) % 32768) ∈ t.wrk.flash)
    ∧ { t.wrk with flash := s.wrk.flash } = s.wrk ∧ Only [.wrk] s t

/-- WEAR_SAMPLE (R489): the hours; the last sample of a unit gives its drift and fit, and until 500 operating hours `MID` reads
52,560 − `HOURS`, `LOW` 0 and `HIGH` all ones; units without a sample keep theirs. -/
def Sys2Proof.Stated.WearSampleUpdatesTheUnits : Prop :=
  ∀ (hours : Nat) (l : List WearSample) (w : WearSample) (s : State), s.pins.pwrGood = true → s.wer.hours.toNat ≤ hours → hours < 2 ^ 32 →
    Runs (.wearSample hours (l ++ [w])) s fun t =>
      t.wer.hours = BitVec.ofNat 32 hours
      ∧ ((w.cls = 0 ∧ w.index < 2 ∨ w.cls = 1 ∧ w.index < 12 ∨ w.cls = 2 ∧ w.index < 288) →
          tget 0 t.wer.drift (w.cls * 4096 + w.index) = w.drift
          ∧ tget 0 t.wer.mid (w.cls * 4096 + w.index) = (if hours < 500 then BitVec.ofNat 32 (52560 - hours) else w.mid)
          ∧ tget 0 t.wer.low (w.cls * 4096 + w.index) = (if hours < 500 then 0 else w.low)
          ∧ tget 0 t.wer.high (w.cls * 4096 + w.index) = (if hours < 500 then 0xFFFFFFFF else w.high))
      ∧ (∀ k, (∀ x ∈ l ++ [w], x.cls * 4096 + x.index ≠ k) → tget 0 t.wer.drift k = tget 0 s.wer.drift k
          ∧ tget 0 t.wer.mid k = tget 0 s.wer.mid k ∧ tget 0 t.wer.low k = tget 0 s.wer.low k ∧ tget 0 t.wer.high k = tget 0 s.wer.high k)
      ∧ t.wer.sel = s.wer.sel ∧ t.wer.events = s.wer.events
      ∧ Only (.wer :: .wrk :: .fresh :: Raised) s t

/-- PLDM_SENSOR_REQUEST (R490): with input power the management bus answers one reading of 4 bytes; which sensor is which number is
the model's, log 24, and what the spec gives no register for is free. -/
def Sys2Proof.Stated.SensorsAnswerOnTheManagementBus : Prop :=
  ∀ (k : Nat) (s : State), s.pins.vin = true →
    Runs (.pldmSensorRequest k) s fun t => Only [.out, .fresh] s t ∧ ∃ v : Nat,
      t.out = s.out ++ [.mgmt (toLE 4 v)]
      ∧ (k = 0 → v = s.pwr.vin.toNat) ∧ (k = 2 → v = s.pwr.pin.toNat) ∧ (k = 3 → v = s.pwr.tja.toNat) ∧ (k = 4 → v = s.pwr.tjb.toNat)
      ∧ (k = 5 → v = s.pwr.tin.toNat) ∧ (k = 6 → v = s.pwr.tout.toNat)

/-- Heartbeat, tokens, foreign frames, PFC, D-states, flash copy, wear and sensors: the statements `SimpleEventsMoveOneRegister`
and `FlashCopyHoldsTheLastEntries` and `WearSampleUpdatesTheUnits` and `SensorsAnswerOnTheManagementBus` together. -/
def Obligations.EventsMoveTheirRegisters : Prop := Stated.SimpleEventsMoveOneRegister ∧ Stated.FlashCopyHoldsTheLastEntries ∧ Stated.WearSampleUpdatesTheUnits ∧ Stated.SensorsAnswerOnTheManagementBus

/-- INPUT_POWER_APPLIED, PWR_EN_RISE, INPUT_QUALIFIED (R477, R478): standby; S0 begins with a new boot number and cleared measurement
registers, or, during the handshake, the pin only stands for later; the qualified input raises `PWR_GOOD`, another ends S0 with result
0x82. -/
def Sys2Proof.Stated.PowerUpStartsAtStageZero : Prop :=
  (∀ (mv : Nat) (s : State), s.pins.vin = false → exec (.inputPowerApplied mv) s =
    .next { s with pins := { s.pins with vin := true, presentLow := true }, pwr := { s.pwr with vin := BitVec.ofNat 16 (mv / 10) } })
  ∧ (∀ s : State, s.pins.vin = true → s.pins.pwrEn = false → s.pins.handshake = true →
      exec .pwrEnRise s = .next { s with pins := { s.pins with pwrEn := true } })
  ∧ (∀ s : State, s.pins.vin = true → s.pins.pwrEn = false → s.pins.handshake = false → Runs .pwrEnRise s fun t =>
      t.pins = { s.pins with pwrEn := true, trayId := BitVec.ofNat 4 (Config.moduleConst 8) } ∧ t.bru.running = true ∧ t.bru.stage = 0 ∧ t.bru.path = 0 ∧ t.bru.boot = s.bru.boot + 1
      ∧ t.bru.reports = [] ∧ t.bru.ready = false ∧ t.bru.fatal = false ∧ t.pwr.st = 5 ∧ t.sec.meas = Vector.replicate 8 0 ∧ t.sec.log = []
      ∧ t.sec.idLeaf = max s.sec.idLeaf (1024 * s.sec.otp) ∧ t.sec.rk = s.sec.rk ∧ Only [.pins, .bru, .pwr, .sec, .host] s t)
  ∧ (∀ (mv : Nat) (s : State), s.pins.vin = true → s.pins.pwrEn = true → s.pwr.tripped = false → s.pins.handshake = false →
      s.pins.pwrGood = false → s.bru.running = true →
      (56000 ≤ mv → mv ≤ 66000 → exec (.inputQualified mv) s =
        .next { s with pins := { s.pins with pwrGood := true }, pwr := { s.pwr with vin := BitVec.ofNat 16 (mv / 10) } })
      ∧ (mv < 56000 ∨ 66000 < mv → Runs (.inputQualified mv) s fun t =>
          t.pins = s.pins ∧ t.bru.running = false ∧ t.bru.fatal = true
          ∧ (s.bru.reports.length < 32 → ∃ r, t.bru.reports = s.bru.reports ++ [r] ∧ BV.fld r 504 8 = 0 ∧ BV.fld r 496 8 = 0x82)
          ∧ Only (.bru :: .pwr :: .wrk :: .fresh :: Raised) s t))

/-- PERST_DEASSERT, INTERNAL_LINK_RELEASE, PCIE_LINK_TRAINED (R407, R427): the link trains and comes up; S1 follows a finished S0, and
after a full module reset bring-up restarts at S0. -/
def Sys2Proof.Stated.LinkTrainsAndStagesFollow : Prop :=
  (∀ s : State, s.host.training = true → exec .pcieLinkTrained s = .next { s with host := { s.host with link := true, training := false } })
  ∧ (∀ s : State, s.awake = true → s.pins.pwrGood = true → s.pins.perst = false → s.host.link = false →
      exec .internalLinkRelease s = .next { s with host := { s.host with training := true } })
  ∧ (∀ s : State, s.pins.perst = true → s.pins.pwrGood = true → Runs .perstDeassert s fun t =>
      { t.pins with trayId := s.pins.trayId } = { s.pins with perst := false } ∧ t.host.training = true ∧ t.host.link = s.host.link
      ∧ (s.awake = true → s.bru.path = 6 → t.bru.running = true ∧ t.bru.stage = 0 ∧ t.bru.path = 6 ∧ t.bru.boot = s.bru.boot + 1 ∧ t.bru.reports = [])
      ∧ (s.awake = true → s.bru.path = 0 → s.bru.running = true → s.bru.stage = 0 → s.bru.reports ≠ [] → t.bru = { s.bru with stage := 1 })
      ∧ (s.bru.path = 0 → s.bru.running = false → t.bru = s.bru)
      ∧ Only [.pins, .host, .bru, .pwr, .sec, .wrk, .fresh, .out] s t)

/-- Power-up starts at S0 and the PCIe link leads to S1: the statements `PowerUpStartsAtStageZero` and `LinkTrainsAndStagesFollow`
together. -/
def Obligations.PowerUpAndLinkFollowTheirSequence : Prop := Stated.PowerUpStartsAtStageZero ∧ Stated.LinkTrainsAndStagesFollow

/-- POWER_DOWN_HANDSHAKE and its end, INPUT_POWER_LOSS (R478, R419, R423, R425, R488): the handshake stops bring-up and tells the open
streams; its end puts ring and dump into flash, lowers `PWR_GOOD` and removes the rails; loss of input keeps what R423 lists. Keys,
leaf counters, wear and the remap table survive; memory and contexts do not. -/
def Sys2Proof.Stated.PowerDownKeepsWhatSurvives : Prop :=
  (∀ s : State, s.pins.vin = true → s.pins.pwrEn = true → Runs .powerDownHandshake s fun t =>
    t.pins = { s.pins with pwrEn := false, handshake := true } ∧ t.bru = { s.bru with running := false }
    ∧ (∃ l, t.wire = s.wire ++ l) ∧ t.fab.streams = s.fab.streams
    ∧ ((∀ p ∈ s.fab.peers, p.joined = true → entryValid ((s.ctx p.ctx).entry p.rank) = true) → t.fab.peers = s.fab.peers)
    ∧ Only (.pins :: .bru :: Sent) s t)
  ∧ (∀ s : State, s.pins.handshake = true → s.pins.pwrEn = false → Runs .powerDownHandshakeEnd s fun t =>
    t.pins = { s.pins with pwrGood := false, alertLow := false, tripLow := false, handshake := false }
    ∧ t.wrk.flashRing = s.wrk.ring ∧ t.wrk.flashDump = (if s.dump.held then s.dump.recs else []) ∧ t.wrk.flash = s.wrk.flash
    ∧ t.wrk.ring = [] ∧ t.mem = [] ∧ t.pwr.rails = false ∧ t.pwr.cap = s.pwr.cap ∧ t.pwr.tcap = s.pwr.tcap
    ∧ (∀ c : Fin 16, t.ctxs[c].st = .free ∧ (s.ctxs[c].st ≠ .free → t.ctxs[c].gen = s.ctxs[c].gen + 1) ∧ (s.ctxs[c].st = .free → t.ctxs[c].gen = s.ctxs[c].gen))
    ∧ t.sec.idLeaf = s.sec.idLeaf ∧ t.sec.rk = s.sec.rk ∧ t.wer = s.wer ∧ t.remap = { s.remap with resetting := [] } ∧ t.bru.saved = s.bru.saved
    ∧ t.wire = s.wire ∧ t.out = s.out ∧ t.pending = s.pending)
  ∧ (∀ s : State, s.pins.handshake = true → s.pins.pwrEn = true → Runs .powerDownHandshakeEnd s fun t =>
    t.pins.pwrGood = false ∧ t.pins.handshake = false ∧ t.wrk.flashRing = s.wrk.ring ∧ t.mem = []
    ∧ t.bru.running = true ∧ t.bru.stage = 0 ∧ t.bru.path = 0 ∧ t.bru.boot = s.bru.boot + 1)
  ∧ (∀ s : State, s.pins.vin = true → Runs .inputPowerLoss s fun t =>
    t.pins.vin = false ∧ t.pins.pwrGood = false ∧ t.wrk.flashRing = s.wrk.flashRing ∧ t.wrk.flash = s.wrk.flash ∧ t.wrk.seq = s.wrk.seq
    ∧ t.mem = [] ∧ t.pwr.cap = 0x0ED8 ∧ t.pwr.tcap = 0x64 ∧ (∀ c : Fin 16, t.ctxs[c].st = .free)
    ∧ t.sec.idLeaf = s.sec.idLeaf ∧ t.sec.rk = s.sec.rk ∧ t.wer = s.wer ∧ t.bru.boot = s.bru.boot)

/-- INPUT_EXCURSION and THERMAL_TRIP (R479, R484, R494): Dry or tripped at once, contexts and HBM contents lost, the cause, the event
or the pin, and a log entry. -/
def Sys2Proof.Stated.ExcursionAndTripLoseTheContexts : Prop :=
  (∀ s : State, s.awake = true → Runs .inputExcursion s fun t =>
    t.pwr.st = 4 ∧ t.pwr.cause = 1 ∧ t.pwr.event = s.pwr.event ||| BitVec.ofNat 64 (2 ^ 63) ∧ t.pins.alertLow = true ∧ t.pwr.rails = false
    ∧ t.tickRun = false ∧ t.mem = [] ∧ (∀ c : Fin 16, t.ctxs[c].st = .free) ∧ (∀ n : Fin 64, t.slots[n].st = .idle)
    ∧ t.bru.running = false ∧ t.pwr.cap = s.pwr.cap ∧ t.pwr.tcap = s.pwr.tcap ∧ t.sec.idLeaf = s.sec.idLeaf ∧ t.sec.rk = s.sec.rk ∧ t.wer.hours = s.wer.hours)
  ∧ (∀ s : State, s.awake = true → Runs .thermalTrip s fun t =>
    t.pwr.st = 6 ∧ t.pwr.cause = 2 ∧ t.pwr.tripped = true ∧ t.pins.tripLow = true ∧ t.bru.ready = false ∧ t.pwr.rails = false
    ∧ t.tickRun = false ∧ t.mem = [] ∧ (∀ c : Fin 16, t.ctxs[c].st = .free) ∧ (∀ n : Fin 64, t.slots[n].st = .idle)
    ∧ t.pwr.cap = s.pwr.cap ∧ t.pwr.tcap = s.pwr.tcap ∧ t.sec.idLeaf = s.sec.idLeaf ∧ t.sec.rk = s.sec.rk ∧ t.wer.hours = s.wer.hours)

/-- Power-down, loss of input, excursion and trip keep what survives and lose the rest: the statements
`PowerDownKeepsWhatSurvives` and `ExcursionAndTripLoseTheContexts` together. -/
def Obligations.PowerLossKeepsWhatSurvives : Prop := Stated.PowerDownKeepsWhatSurvives ∧ Stated.ExcursionAndTripLoseTheContexts

/-- PWR_REQ_OPERATING, SLACK_REQUEST, NEAP_REQUEST, DRY_REQUEST (R485 to R487): a request whose entry condition holds starts its
transition; one that fails it, or comes during a transition, is refused with `REFUSED`; during a reset it waits. -/
def Sys2Proof.Stated.PowerStateRequestsFollowTheirConditions : Prop :=
  ∀ s : State, s.hostUp 0 = true → s.awake = true →
    (s.esc.active = 0 → s.pwr.target = none →
      (s.pwr.st = 1 → exec .slackRequest s = .next { s with pwr := { s.pwr with target := some 2, resume := 0, cause := 0 } })
      ∧ (s.pwr.st = 1 ∨ s.pwr.st = 2 → (∀ c < 16, s.outWrites c 0 = false ∧ s.outWrites c 1 = false) →
          (∀ n : Fin 64, s.slots[n].st ≠ .admitting ∧ s.slots[n].st ≠ .running) →
          exec .neapRequest s = .next { s with pwr := { s.pwr with st := 5, target := some 3, resume := 0, cause := 0 } })
      ∧ (s.pwr.st ≠ 4 → s.pwr.st ≠ 5 → (∀ c : Fin 16, s.ctxs[c].st = .free) →
          exec .dryRequest s = .next { s with pwr := { s.pwr with st := 5, target := some 4, resume := 0, cause := 0 } })
      ∧ (s.pwr.st = 2 → exec .pwrReqOperating s = .next { s with pwr := { s.pwr with target := some 1, resume := 3, cause := 0 } })
      ∧ (s.pwr.st = 3 → exec .pwrReqOperating s = .next { s with pwr := { s.pwr with st := 5, target := some 1, resume := 0, cause := 0 } })
      ∧ (s.pwr.st = 4 → Runs .pwrReqOperating s fun t => t.bru.running = true ∧ t.bru.path = 5 ∧ t.bru.boot = s.bru.boot + 1 ∧ t.pwr.st = 5
          ∧ Only [.pwr, .bru, .host, .wrk, .fresh, .out] s t))
    ∧ (s.esc.active = 0 → (s.pwr.target ≠ none ∨ s.pwr.st = 5 ∨ (s.pwr.st ≠ 4 ∧ ∃ c : Fin 16, s.ctxs[c].st ≠ .free)) → Runs .dryRequest s fun t =>
        t.pwr = { s.pwr with event := s.pwr.event ||| BitVec.ofNat 64 (2 ^ 59) } ∧ t.pins = { s.pins with alertLow := true }
        ∧ Only (.pwr :: .pins :: Raised) s t)
    ∧ (s.esc.active = 0 → (s.pwr.target ≠ none ∨ s.pwr.st = 5 ∨ (s.pwr.st ≠ 3 ∧ ∃ n : Fin 64, s.slots[n].st = .admitting ∨ s.slots[n].st = .running)) →
        Runs .neapRequest s fun t => t.pwr = { s.pwr with event := s.pwr.event ||| BitVec.ofNat 64 (2 ^ 59) }
          ∧ t.pins = { s.pins with alertLow := true } ∧ Only (.pwr :: .pins :: Raised) s t)
    ∧ (s.esc.active ≠ 0 → exec .slackRequest s = .next { s with pwr := { s.pwr with waiting := some 2 } })

/-- POWER_STATE_TRANSITION_DONE (R485, R488): Neap stops the tick and holds the frame counter; Dry loses what Headland held; leaving Neap
resumes the tick from the held counter. `STATEDONE` is set. -/
def Sys2Proof.Stated.PowerTransitionsEnd : Prop :=
  ∀ s : State, s.pwr.st = 5 → s.bru.running = false →
    (s.pwr.target = some 3 → Runs .powerStateTransitionDone s fun t =>
      t.pwr = { s.pwr with st := 3, target := none, rails := false, event := s.pwr.event ||| BitVec.ofNat 64 (2 ^ 60) }
      ∧ t.tickRun = false ∧ t.fab.streams = [] ∧ t.ctxs = s.ctxs
      ∧ Only (.pwr :: .pins :: .tickRun :: .fab :: .panels :: Raised) s t)
    ∧ (s.pwr.target = some 4 → Runs .powerStateTransitionDone s fun t =>
      t.pwr.st = 4 ∧ t.pwr.cause = 0 ∧ t.pwr.target = none ∧ t.pwr.rails = false ∧ t.pwr.event = s.pwr.event ||| BitVec.ofNat 64 (2 ^ 60)
      ∧ t.tickRun = false ∧ t.mem = [] ∧ ∀ c : Fin 16, t.ctxs[c].st = .free)
    ∧ (s.pwr.target = some 1 → Runs .powerStateTransitionDone s fun t =>
      t.pwr = { s.pwr with st := 1, target := none, rails := true, event := s.pwr.event ||| BitVec.ofNat 64 (2 ^ 60) }
      ∧ t.tickRun = true ∧ Only (.pwr :: .pins :: .tickRun :: Raised) s t)

/-- Power-state requests follow their entry conditions and transitions end: the statements
`PowerStateRequestsFollowTheirConditions` and `PowerTransitionsEnd` together. -/
def Obligations.PowerStatesFollowTheirConditions : Prop := Stated.PowerStateRequestsFollowTheirConditions ∧ Stated.PowerTransitionsEnd

/-! ### Host access: transactions and registers (spec/17) -/

namespace Sys2Proof.Stated

/-- A state that differs from another in one function's transaction, and in an MSI-X message of that function's vector 5 where
`told`. -/
def TxnOnly (fn : Fin 16) (told : Bool) (s t : State) : Prop :=
  { t.host with txn := s.host.txn } = s.host ∧ (∀ g : Fin 16, g ≠ fn → t.host.txn[g] = s.host.txn[g])
  ∧ t.out = (if told then s.out ++ [.msix fn 5] else s.out) ∧ Only [.host, .out] s t

/-- The write of a register as a transaction holds it. -/
def whole (r : Reg) (v : BitVec 64) : Staged := { reg := r, val := v, lo := true, hi := true }

end Sys2Proof.Stated

/-- TXN_BEGIN, TXN_COMMIT, TXN_ROLLBACK and staged writes (R449): BEGIN from idle opens; while open a write to a transactional register
is staged and not applied, a second one replaces the staged value and leaves `COUNT`, a 257th register is refused with 0x05 and a later
COMMIT with the same result; COMMIT makes it pending, ROLLBACK discards it; BEGIN while open gives 0x04, COMMIT or ROLLBACK while idle
0x06, any command while pending 0x07, and none of these changes the transaction. `TXN_CTRL` of any page the function reaches acts on the
function's one transaction. -/
def Obligations.TransactionsStageUntilTheCommit : Prop :=
  ∀ (fn : Fin 16) (s : State), s.hostUp fn = true →
    (s.host.txn[fn].st = 0 →
      (Runs (.txnBegin fn) s fun t => t.host.txn[fn] = { s.host.txn[fn] with st := 1, count := 0, full := false, staged := [], cmds := [] } ∧ TxnOnly fn false s t)
      ∧ (Runs (.txnCommit fn) s fun t => t.host.txn[fn] = { s.host.txn[fn] with result := 6 } ∧ TxnOnly fn true s t)
      ∧ (Runs (.txnRollback fn) s fun t => t.host.txn[fn] = { s.host.txn[fn] with result := 6 } ∧ TxnOnly fn true s t))
    ∧ (s.host.txn[fn].st = 1 →
      (Runs (.txnBegin fn) s fun t => t.host.txn[fn] = { s.host.txn[fn] with result := 4 } ∧ TxnOnly fn true s t)
      ∧ (s.host.txn[fn].full = false → Runs (.txnCommit fn) s fun t => t.host.txn[fn] = { s.host.txn[fn] with st := 2 } ∧ TxnOnly fn false s t)
      ∧ (s.host.txn[fn].full = true → Runs (.txnCommit fn) s fun t =>
          t.host.txn[fn].st = 0 ∧ t.host.txn[fn].result = 5 ∧ t.host.txn[fn].staged = [] ∧ TxnOnly fn true s t)
      ∧ (Runs (.txnRollback fn) s fun t => t.host.txn[fn].st = 0 ∧ t.host.txn[fn].result = 2 ∧ t.host.txn[fn].staged = [] ∧ t.host.txn[fn].count = 0
          ∧ TxnOnly fn true s t)
      ∧ (∀ (sel : RegSel) (r : Reg) (v : BitVec 64), s.regOf fn sel = some r → r.writable = true → r.exempt = false → s.pageUp r.blk r.inst = true →
          Half.write .both sel r v = some (whole r v) →
          ((∀ w ∈ s.host.txn[fn].staged, w.reg ≠ r) → s.host.txn[fn].staged.length + s.host.txn[fn].cmds.length < 256 → Runs (.registerWrite fn sel .both v) s fun t =>
            t.host.txn[fn] = { s.host.txn[fn] with staged := s.host.txn[fn].staged ++ [whole r v], count := s.host.txn[fn].count + 1 } ∧ TxnOnly fn false s t)
          ∧ ((∃ w ∈ s.host.txn[fn].staged, w.reg = r) → Runs (.registerWrite fn sel .both v) s fun t =>
            t.host.txn[fn] = { s.host.txn[fn] with staged := s.host.txn[fn].staged.map fun w => if w.reg = r then whole r v else w }
            ∧ TxnOnly fn false s t)
          ∧ ((∀ w ∈ s.host.txn[fn].staged, w.reg ≠ r) → 256 ≤ s.host.txn[fn].staged.length + s.host.txn[fn].cmds.length → Runs (.registerWrite fn sel .both v) s fun t =>
            t.host.txn[fn] = { s.host.txn[fn] with result := 5, full := true } ∧ TxnOnly fn true s t)))
    ∧ (1 < s.host.txn[fn].st.toNat →
      ∀ c ∈ [Instr.txnBegin fn, .txnCommit fn, .txnRollback fn], Runs c s fun t => t.host.txn[fn] = { s.host.txn[fn] with result := 7 } ∧ TxnOnly fn true s t)
    ∧ (∀ (sel : RegSel) (r : Reg) (k : Fin 4), s.regOf fn sel = some r → r.ofs = 0x18 → s.pageUp r.blk r.inst = true → mayReach fn (s.owns fn) r = true →
        Half.write .both sel r (BitVec.ofNat 64 k) = some (whole r (BitVec.ofNat 64 k)) → s.host.txn[fn].shadow = false →
        exec (.registerWrite fn sel .both (BitVec.ofNat 64 k)) s
          = (match k.val with | 1 => exec (.txnBegin fn) s | 2 => exec (.txnCommit fn) s | 3 => exec (.txnRollback fn) s | _ => .next s))

/-- REGISTER_WRITE outside a transaction (R450, R451, R176, R488): `PWR_CAP` takes a cap and a thermal point in range at once, one out of
range is ignored and sets `ACCESS`, and reserved bits are not stored; a write that only a commit may make, or to a page the function
does not reach, is ignored and sets `ACCESS`; a write to a page marked live has no defined outcome; a register without a writable field
keeps its value. -/
def Obligations.WritesOutsideATransactionActAtOnce : Prop :=
  ∀ (fn : Fin 16) (sel : RegSel) (r : Reg) (v : BitVec 64) (s : State), s.hostUp fn = true → s.regOf fn sel = some r → s.pageUp r.blk r.inst = true →
    r.exempt = false → s.host.txn[fn].st ≠ 1 → Half.write .both sel r v = some (whole r v) →
    (r.writable = false → exec (.registerWrite fn sel .both v) s = .next s)
    ∧ (r.writable = true →
      (mayReach fn (s.owns fn) r = false ∨ (r.blk = 7 ∧ 16 ≤ r.inst ∧ r.ofs = 0x100 ∧ (v.getLsbD 63 = true ∨ v.getLsbD 62 = true)) →
        exec (.registerWrite fn sel .both v) s = .next (s.access r.blk r.inst))
      ∧ (mayReach fn (s.owns fn) r = true → ¬(r.blk = 7 ∧ 16 ≤ r.inst ∧ r.ofs = 0x100) → s.pageLive r.blk r.inst = true →
        exec (.registerWrite fn sel .both v) s = .fault .liveWrite)
      ∧ (fn = 0 → r = ⟨0x14, 0, 0x110⟩ →
        (1000 ≤ BV.fld v 48 16 → BV.fld v 48 16 ≤ 3800 → 70 ≤ BV.fld v 40 8 → BV.fld v 40 8 ≤ 104 → exec (.registerWrite fn sel .both v) s =
          .next { s with pwr := { s.pwr with cap := BitVec.ofNat 16 (BV.fld v 48 16), tcap := BitVec.ofNat 8 (BV.fld v 40 8) } })
        ∧ (BV.fld v 48 16 < 1000 ∨ 3800 < BV.fld v 48 16 ∨ BV.fld v 40 8 < 70 ∨ 104 < BV.fld v 40 8 →
          exec (.registerWrite fn sel .both v) s = .next (s.access 0x14 0))))

/-- BAD_REGISTER_ACCESS, ERR_CLEAR, ESC_EVENT_CLEAR, PWR_EVENT_CLEAR (R446, R447, R408, R488): `ACCESS` of the page and Unsupported Request for a
read; write-1-clear registers lose the bits written and keep the others, a virtual function only its own bit of `ESC_EVENT`; clearing `DUMP`
releases the dump; `ALERT#` is released when no event is left. -/
def Sys2Proof.Stated.ErrorAndEventBitsAreSetAndCleared : Prop :=
  (∀ (fn : Fin 16) (ofs : Nat) (isRead : Bool) (r : Reg) (s : State), s.hostUp fn = true → s.regAt fn ofs = some r →
    Runs (.badRegisterAccess fn ofs isRead) s fun t =>
      tget 0 t.host.errSum (r.blk * 65536 + r.inst) = tget 0 s.host.errSum (r.blk * 65536 + r.inst) ||| 16
      ∧ (∀ k, k ≠ r.blk * 65536 + r.inst → tget 0 t.host.errSum k = tget 0 s.host.errSum k)
      ∧ t.out = (if isRead then s.out ++ [.unsupported fn] else s.out)
      ∧ { t.host with errSum := s.host.errSum } = s.host ∧ Only [.host, .out] s t)
  ∧ (∀ (fn : Fin 16) (ofs : Nat) (v : BitVec 64) (r : Reg) (s : State), s.hostUp fn = true → s.regAt fn ofs = some r → s.pageUp r.blk r.inst = true →
    Runs (.errClear fn ofs v) s fun t =>
      tget 0 t.host.errSum (r.blk * 65536 + r.inst) = tget 0 s.host.errSum (r.blk * 65536 + r.inst) &&& ~~~v
      ∧ (∀ k, k ≠ r.blk * 65536 + r.inst → tget 0 t.host.errSum k = tget 0 s.host.errSum k)
      ∧ { t.host with errSum := s.host.errSum } = s.host ∧ Only [.host] s t)
  ∧ (∀ (fn : Fin 16) (v : BitVec 64) (s : State), s.hostUp fn = true → Runs (.escEventClear fn v) s fun t =>
      t.esc = { s.esc with event := s.esc.event &&& ~~~(if fn = 0 then v else v &&& BitVec.ofNat 64 (2 ^ fn.val)) }
      ∧ t.dump = (if fn = 0 ∧ v.getLsbD 62 = true ∧ s.dump.held = true then {} else s.dump)
      ∧ (∀ x ∈ t.host.msix, x ∈ s.host.msix) ∧ (t.esc.event = 0 → (0, 0) ∉ t.host.msix)
      ∧ { t.host with msix := s.host.msix } = s.host ∧ Only [.esc, .dump, .host] s t)
  ∧ (∀ (v : BitVec 64) (s : State), s.hostUp 0 = true → Runs (.pwrEventClear v) s fun t =>
      t.pwr = { s.pwr with event := s.pwr.event &&& ~~~v, peak := if v.getLsbD 61 then 0 else s.pwr.peak }
      ∧ t.pins = (if s.pwr.event &&& ~~~v = 0 then { s.pins with alertLow := false } else s.pins)
      ∧ (t.pwr.event = 0 → (0, 3) ∉ t.host.msix) ∧ { t.host with msix := s.host.msix } = s.host ∧ Only [.pwr, .pins, .host] s t)

/-- APERTURE_DATA_ACCESS (R444): `HST_APT_DATA` reads or writes the entry at the index of its function, and `AUTOINC` advances the index. -/
def Sys2Proof.Stated.ApertureDataReachesTheIndexedEntry : Prop :=
  ∀ (fn : Fin 16) (w : Option (BitVec 64)) (s : State), s.hostUp fn = true → Runs (.apertureDataAccess fn w) s fun t =>
    (∀ v, w = some v → tget 0 t.host.apt (fn * 2 ^ 20 + BV.fld s.host.aptIdx[fn] 0 19) = BV.put v 56 6 0 ∧ t.out = s.out
      ∧ ∀ k, k ≠ fn * 2 ^ 20 + BV.fld s.host.aptIdx[fn] 0 19 → tget 0 t.host.apt k = tget 0 s.host.apt k)
    ∧ (w = none → t.host.apt = s.host.apt ∧ t.out = s.out ++ [.read fn (tget 0 s.host.apt (fn * 2 ^ 20 + BV.fld s.host.aptIdx[fn] 0 19))])
    ∧ t.host.aptIdx = (if s.host.aptIdx[fn].getLsbD 63 then s.host.aptIdx.set fn (BV.put s.host.aptIdx[fn] 0 19 ((BV.fld s.host.aptIdx[fn] 0 19 + 1) % 2 ^ 19))
        else s.host.aptIdx)
    ∧ { t.host with apt := s.host.apt, aptIdx := s.host.aptIdx } = s.host ∧ Only [.host, .out] s t

/-- Error and event bits are set and cleared; aperture data reaches the indexed entry: the statements
`ErrorAndEventBitsAreSetAndCleared` and `ApertureDataReachesTheIndexedEntry` together. -/
def Obligations.HostStatusBitsAndApertures : Prop := Stated.ErrorAndEventBitsAreSetAndCleared ∧ Stated.ApertureDataReachesTheIndexedEntry

/-- BAR2_WRITE and BAR2_READ through a valid, writable window of a LIVE context (R444, R304, R289, R276): the bytes of the tensor's committed
copy are written or read, in place, and no other byte of memory changes; through a window that maps nothing a write is dropped and
counted and a read is an Unsupported Request; a write whose page has no frame waits for one (not shown here); a write to a tensor that a graph names is aborted and counted; one that hits an armed
image has no defined outcome. -/
def Obligations.Bar2ReachesTheTensorsBytes : Prop :=
  ∀ (fn : Fin 16) (ofs : Nat) (s : State), s.hostUp fn = true → s.tickRun = true →
    ((s.aperture fn ofs).2.2 = none →
      (∀ data, Runs (.bar2Write fn ofs data) s fun t =>
        t.host = { s.host with drops := s.host.drops.set fn (if s.host.drops[fn] = BitVec.allOnes 64 then s.host.drops[fn] else s.host.drops[fn] + 1) } ∧ Only [.host] s t)
      ∧ ∀ len, exec (.bar2Read fn ofs len) s = .next { s with out := s.out ++ [.unsupported fn] })
    ∧ (∀ (e : BitVec 64) (a : Nat) (r : TRec), s.aperture fn ofs = (e, a, some r) → s.ctxs[fn].st = .live → s.ctxs[fn].resetting = false →
      s.memUp r a = true →
      (∀ len, a + len ≤ r.endOfs → s.farIn fn (r.base + a) len = [] →
        exec (.bar2Read fn ofs len) s = .next { s with out := s.out ++ [.bytes fn ((List.range len).map fun i => tget 0 s.mem (memKey fn (r.base + a) + i))] })
      ∧ (∀ data, e.getLsbD 62 = true → a + data.length ≤ r.endOfs →
        (s.inUse fn r.tid = true → Runs (.bar2Write fn ofs data) s fun t =>
          t.out = s.out ++ [.aborted fn] ∧ (s.ctxs[fn].bar2Abort ≠ BitVec.allOnes 64 → t.ctxs[fn].bar2Abort = s.ctxs[fn].bar2Abort + 1) ∧ Only [.ctxs, .out] s t)
        ∧ (s.inUse fn r.tid = false → s.hitsImage fn (r.base + a) data.length = true → exec (.bar2Write fn ofs data) s = .fault .imageModified)
        ∧ (s.inUse fn r.tid = false → s.hitsImage fn (r.base + a) data.length = false → s.farIn fn (r.base + a) data.length = [] →
          s.hostRoom fn r a data.length = true → Runs (.bar2Write fn ofs data) s fun t =>
            (∀ i (h : i < data.length), tget 0 t.mem (memKey fn (r.base + a) + i) = data[i])
            ∧ (∀ k, k < memKey fn (r.base + a) ∨ memKey fn (r.base + a) + data.length ≤ k → tget 0 t.mem k = tget 0 s.mem k)
            ∧ { t.pager with frames := s.pager.frames, far := s.pager.far } = s.pager ∧ (∀ g ∈ s.pager.far, g.resident = true → g ∈ t.pager.far)
            ∧ Only [.mem, .poison, .pager] s t)))

/-- MAILBOX_DATA_ACCESS, MAILBOX_ABORT and DOE_DISCOVERY (R472, R442): `SEC_MBOX_DATA` reads or writes the 8 buffer bytes at the offset and
`AUTOINC` advances it; ABORT leaves no request and no response of the mailbox; discovery answers each data object type in turn. -/
def Obligations.MailboxBufferAndDiscovery : Prop :=
  (∀ (w : Option (BitVec 64)) (s : State), s.hostUp 0 = true → Runs (.mailboxDataAccess w) s fun t =>
    (∀ v, w = some v → t.out = s.out ∧ (∀ i < 8, tget 0 t.sec.mbox (BV.fld s.sec.mboxOfs 0 13 / 8 * 8 + i) = BitVec.ofNat 8 (v.toNat / 256 ^ i))
      ∧ ∀ k, k < BV.fld s.sec.mboxOfs 0 13 / 8 * 8 ∨ BV.fld s.sec.mboxOfs 0 13 / 8 * 8 + 8 ≤ k → tget 0 t.sec.mbox k = tget 0 s.sec.mbox k)
    ∧ (w = none → t.sec.mbox = s.sec.mbox ∧ ∃ d : BitVec 64, t.out = s.out ++ [.read 0 d]
        ∧ ∀ i < 8, BitVec.ofNat 8 (d.toNat / 256 ^ i) = tget 0 s.sec.mbox (BV.fld s.sec.mboxOfs 0 13 / 8 * 8 + i))
    ∧ t.sec.mboxOfs = (if s.sec.mboxOfs.getLsbD 63 then BV.put s.sec.mboxOfs 0 13 ((BV.fld s.sec.mboxOfs 0 13 / 8 * 8 + 8) % 8192) else s.sec.mboxOfs)
    ∧ { t.sec with mbox := s.sec.mbox, mboxOfs := s.sec.mboxOfs } = s.sec ∧ Only [.sec, .out] s t)
  ∧ (∀ s : State, s.hostUp 0 = true → Runs .mailboxAbort s fun t =>
      t.sec.mboxSt = 0 ∧ t.sec.rlen = 0 ∧ 0 ∉ t.sec.busy ∧ (∀ q ∈ t.sec.queue, q.what ≠ .meas 0 ∧ q ∈ s.sec.queue) ∧ (0, 4) ∉ t.host.msix
      ∧ t.sec.mbox = s.sec.mbox ∧ t.sec.tokens = s.sec.tokens ∧ Only [.sec, .host] s t)
  ∧ (∀ (k : Nat) (s : State), s.host.link = true → ∃ d, exec (.doeDiscovery k) s = .next { s with out := s.out ++ [.doe d] }
      ∧ d.length = 4 ∧ (k = 0 → d = [1, 0, 0, 1]) ∧ (2 ≤ k → d = [0xFF, 0xFF, 0, 0]))


/-! ### A panel: arrivals, landings, row words, checks (spec/03, spec/04, spec/05) -/

namespace Sys2Proof.Stated

/-- A queue of an engine that takes one more entry in a cycle, by R165 and R110. -/
def HasRoom (p : Panel) (c e q : Nat) : Prop :=
  (p.eng e).occ q < 16 ∧ (p.arr.filter fun a => a.cycle = c && a.e = e && a.q = q).length < pushMax q

/-- One operation of kind k is in flight on a panel; its cycle has come, and every queue of the panel takes an entry more. -/
def OneDue (p : Panel) (k : Nat) (f : Fly) : Prop :=
  p.fly.filter (fun x => x.op.kind = k) = [f] ∧ f.due ≤ p.cycle ∧ f.e < 16 ∧ ∀ e < 16, ∀ q < 8, HasRoom p f.due e q

/-- What a panel keeps of the arrivals of a cycle for the test of R165. -/
def arrivals (p : Panel) (f : Fly) : List Arrival :=
  p.arr.filter (fun x => f.due ≤ x.cycle) ++ (f.op.queue.map fun q => { cycle := f.due, e := f.e, q := q, pc := f.pc, tag := f.tag }).toList

/-- The state with that operation landed: its engine is m, and every other operation stays in flight. -/
def landed (s : State) (n : Fin 32) (f : Fly) (m : Engine) : State :=
  { s with panels := s.panels.set n { s.panels[n] with fly := s.panels[n].fly.filter (fun x => x.op.kind ≠ f.op.kind)
                                                       engines := s.panels[n].engines.setIfInBounds f.e m
                                                       arr := arrivals s.panels[n] f } }

/-- The state with k corrected errors counted on a panel's page and shown in its summary (R130). -/
def corrected (s : State) (n : Fin 32) (k : Nat) : State :=
  let t := { s with panels := s.panels.set n { s.panels[n] with counts := { s.panels[n].counts with corrected := s.panels[n].counts.corrected + k } } }
  if k = 0 then s else t.err 2 n 0

/-- An engine's row r holds these words, and every other Skein of the engine is as it was. -/
def RowIs (m0 m : Engine) (row : Nat) (w : Nat → SkeinW) : Prop :=
  ∀ r < 64, ∀ c < 128, m.sk r c = if r = row % 64 then w c else m0.sk r c

/-- What a landing on Skeins leaves of an engine: everything but the Skeins, the CLIMB bits and the in-flight counter, which falls
by one for the row. -/
def SkeinOnly (m0 m : Engine) (row : Nat) : Prop :=
  (∀ r < 64, m.cnt r = if r = row % 64 then m0.cnt r - 1 else m0.cnt r)
  ∧ { m with skeins := m0.skeins, anchors := m0.anchors, infl := m0.infl } = m0

end Sys2Proof.Stated

/-- OPERAND_READ_ARRIVAL, DRAIN_ENTRY_ARRIVAL, ELEMENT_RESULT_PUSH, PARTIAL_SEND_ARRIVAL (R123, R167): the entry stands at the tail of its
queue, for a partial send that of the neighbour's QX; NORM_FINISH_SETTLE: the group's μ, variance and ρ can be read; B_HALF_READY (R111):
the half is ready. A drain also folds its bytes into the engine's stream digest (R373); errors corrected on the way of
an operand are counted (R130). Nothing else changes. -/
def Obligations.ArrivalsReachTheTailOfTheirQueue : Prop :=
  ∀ (n : Fin 32) (s : State) (f : Fly), let m := s.panels[n].eng f.e
    (∀ q x k, f.op = .read q x → q < 7 → OneDue s.panels[n] 0 f → exec (.operandReadArrival ⟨n, k⟩) s = .next (corrected (landed s n f (m.push q x)) n k))
    ∧ (∀ q x, f.op = .drain q x → q < 7 → OneDue s.panels[n] 2 f →
        exec (.drainEntryArrival n) s = .next (landed s n f { m.push q x with digest := Config.digestStep m.digest (toLE 128 x.data.toNat) }))
    ∧ (∀ x, f.op = .elem x → OneDue s.panels[n] 6 f → exec (.elementResultPush n) s = .next (landed s n f { m with qf := m.qf ++ [x] }))
    ∧ (∀ x, f.op = .send x → OneDue s.panels[n] 5 f → exec (.partialSendArrival n) s = .next (landed s n f { m with qx := m.qx ++ [x] }))
    ∧ (∀ g mu var rho, f.op = .normDone g mu var rho → OneDue s.panels[n] 7 f → ∃ nt : Tbl NormG,
        exec (.normFinishSettle n) s = .next (landed s n f { m with norm := nt })
        ∧ ∀ k, tget {} nt k = if k = g then { tget {} m.norm g with mu := mu, var := var, rho := rho } else tget {} m.norm k)
    ∧ (∀ h1, f.op = .halfReady h1 → OneDue s.panels[n] 8 f → exec (.bHalfReady n) s = .next (landed s n f
        (if h1 then { m with half1 := { m.half1 with ready := true } } else { m with half0 := { m.half0 with ready := true } })))

/-- A landing that brings a queue above 16 entries in a cycle in which no word pops is a dropped stitch of kind 0x2 (R165, R172 to R174): the
segment ends, its raises are dropped, the lines it wrote are poisoned, and the record names the engine, the queue and the word of the entry.
In the cycle of the next word the entry stands in the queue, for that word may pop it. -/
def Obligations.QueueOverflowDropsTheStitch : Prop :=
  ∀ (n : Fin 32) (s : State) (f : Fly) (q : Nat) (x : Ent), s.panels[n].fly.filter (fun y => y.op.kind = 0) = [f] → f.due ≤ s.panels[n].cycle →
    f.e < 16 → f.op = .read q x → q < 7 → (s.panels[n].eng f.e).occ q = 16 → s.panels[n].fault = none →
    (∀ e < 16, ∀ k < 8, (e, k) ≠ (f.e, q) → HasRoom s.panels[n] f.due e k) →
    (f.due < s.panels[n].cycle → f.pc < 2 ^ 14 → f.tag < 2 ^ 16 → Runs (.operandReadArrival ⟨n, 0⟩) s fun t =>
      (∃ w, t.panels[n].fault = some w ∧ BV.fld w 60 4 = 2 ∧ BV.fld w 56 4 = f.e ∧ BV.fld w 44 12 = f.due % 4096 ∧ BV.fld w 30 14 = f.pc
        ∧ BV.fld w 14 16 = f.tag ∧ BV.fld w 8 6 = q)
      ∧ t.panels[n].ended = true ∧ t.panels[n].raises = []
      ∧ (∀ l ∈ s.panels[n].written, (tget {} t.panels[n].sram l).poison = true)
      ∧ (∀ l, l ∉ s.panels[n].written → tget {} t.panels[n].sram l = tget {} s.panels[n].sram l)
      ∧ (∀ k : Fin 32, k ≠ n → t.panels[k] = s.panels[k]) ∧ Only [.panels] s t)
    ∧ (f.due = s.panels[n].cycle → s.panels[n].ended = false → s.panels[n].seg ≠ none →
      exec (.operandReadArrival ⟨n, 0⟩) s = .next (landed s n f ((s.panels[n].eng f.e).push q x)))

/-- PRODUCT_VISIBLE (R113), PRELOAD_VISIBLE and NEIGHBOUR_ADD_VISIBLE (R123): every Skein of the row takes the column's sum, the preload
word, or the neighbour's four words in their columns; a compare keeps the winner (R194); the row's in-flight counter falls. A climb of
a column sets CLIMB of its 32-column group (R85). -/
def Obligations.LandingsChangeTheirSkeinRow : Prop :=
  ∀ (n : Fin 32) (s : State) (f : Fly), let m := s.panels[n].eng f.e
    (∀ row add cl, f.op = .product row add cl → OneDue s.panels[n] 1 f → add.length = 128 → Runs (.productVisible n) s fun t =>
      RowIs m (t.panels[n].eng f.e) row (fun c => ((Sk.of (m.sk row c)).add (nth Sk.zero add c)).toW)
      ∧ SkeinOnly m (t.panels[n].eng f.e) row
      ∧ ((∀ c < 128, nth false cl c = false) → (t.panels[n].eng f.e).anchors = m.anchors)
      ∧ (∀ g < 4, ∀ j < 32, nth false cl (g * 32 + j) = true → ((t.panels[n].eng f.e).anc row (g * 32)).climb = true)
      ∧ (∀ e ≠ f.e, t.panels[n].eng e = s.panels[n].eng e) ∧ (∀ k : Fin 32, k ≠ n → t.panels[k] = s.panels[k]) ∧ Only [.panels] s t)
    ∧ (∀ row g prods, f.op = .forerun row g prods → OneDue s.panels[n] 1 f → Runs (.productVisible n) s fun t =>
      RowIs m (t.panels[n].eng f.e) row (fun c => BitVec.ofNat 196 (toF32 (foreStep g (ofF32 ((m.sk row c).toNat % 2 ^ 32)) (nth [] prods c))))
      ∧ SkeinOnly m (t.panels[n].eng f.e) row ∧ (t.panels[n].eng f.e).anchors = m.anchors ∧ Only [.panels] s t)
    ∧ (∀ row isMax vs idx, f.op = .compare row isMax vs idx → OneDue s.panels[n] 1 f → Runs (.productVisible n) s fun t =>
      RowIs m (t.panels[n].eng f.e) row (fun c => match vs[c]? with
        | some v => ((Cmp.of (m.sk row c)).upd isMax v idx).toW
        | none => m.sk row c)
      ∧ SkeinOnly m (t.panels[n].eng f.e) row ∧ (t.panels[n].eng f.e).anchors = m.anchors ∧ Only [.panels] s t)
    ∧ (∀ row ws cl, f.op = .preload row ws cl → OneDue s.panels[n] 3 f → ws.length = 128 → Runs (.preloadVisible n) s fun t =>
      RowIs m (t.panels[n].eng f.e) row (fun c => nth 0 ws c) ∧ SkeinOnly m (t.panels[n].eng f.e) row ∧ Only [.panels] s t)
    ∧ (∀ row x cmp, f.op = .nadd row x cmp → OneDue s.panels[n] 4 f → Runs (.neighbourAddVisible n) s fun t =>
      RowIs m (t.panels[n].eng f.e) row (fun c => if c / 4 = x.grp % 32 then
          (if cmp = 0 then ((Sk.of (m.sk row c)).add (Sk.of (nth 0 x.words (c % 4)))).toW
           else ((Cmp.of (m.sk row c)).comb (cmp = 2) (Cmp.of (nth 0 x.words (c % 4)))).toW)
        else m.sk row c)
      ∧ SkeinOnly m (t.panels[n].eng f.e) row ∧ (t.panels[n].eng f.e).anchors = m.anchors ∧ Only [.panels] s t)

/-- R74: contributions combine by integer addition and OR of the special-state bits, alike in a column's adder tree, in the Skein, in
neighbour exchange and in the pieces of a reduction (the wire and Tidepool), in any order and grouping; the integer part adds on while
any special-state bit is set. -/
def Obligations.ContributionsCombineExactly : Prop :=
  (∀ a b : Sk, a.add b = { nan := a.nan || b.nan, pinf := a.pinf || b.pinf, ninf := a.ninf || b.ninf, sat := a.sat || b.sat, acc := a.acc + b.acc })
  ∧ (∀ (an : Anc) (l l' : List Contrib), l.Perm l' → sliceSum an l = sliceSum an l')
  ∧ (∀ (an : Anc) (l l' : List Contrib), (sliceSum an (l ++ l')).1 = (sliceSum an l).1.add (sliceSum an l').1)
  ∧ (∀ (w x : SkeinW) (a : Sk), Sk.of (((Sk.of ((Sk.of w).add (Sk.of x)).toW).add a).toW) = Sk.of (((Sk.of w).add (Sk.of ((Sk.of x).add a).toW)).toW))
  ∧ (∀ (w x : SkeinW), (Sk.of w).add (Sk.of x) = (Sk.of x).add (Sk.of w))
  ∧ (∀ (t : Tbl SkeinW) (l l' : List (Nat × SkeinW)) (i : Nat), l.Perm l' →
      tget 0 (l.foldl (fun u e => accAdd 0 u e.1 e.2) t) i = tget 0 (l'.foldl (fun u e => accAdd 0 u e.1 e.2) t) i)
  ∧ (∀ (t : Tbl SkeinW) (i j : Nat) (w : SkeinW), tget 0 (accAdd 0 t i w) j = if j = i then ((Sk.of (tget 0 t i)).add (Sk.of w)).toW else tget 0 t j)

/-- R39: a block scale byte c from 0x00 to 0xFE is the exponent c − 127 of every element of its block; 0xFF makes every element read
NaN, whatever its code and its bobbles. Read from a queue entry (scale bytes per word, or per element from a cable) and from a tensor
in memory. -/
def Obligations.BlockScaleBytesScaleOrPoisonTheirBlock : Prop :=
  ∀ f : Fmt, f.scaled = true →
    (∀ (x : Ent) (k : Nat) (cable : Bool), k < x.cut → let c := fld x.sc.toNat (8 * (if cable then k else (x.off * 8 + k * f.width) / 64)) 8
      (c ≠ 0xFF → (x.el f cable k).s = (c : Int) - 127 ∧ -127 ≤ (x.el f cable k).s ∧ (x.el f cable k).s ≤ 127)
      ∧ (c = 0xFF → ∀ i : Int, (x.el f cable k).v.scale i = .nan))
    ∧ (∀ (t : TRec) (m : Tbl Byte) (base row col : Nat), t.f = f → t.raw = false →
      let c := (rdB m (t.key base + t.scaleOfs + row * t.rowScales + col / t.blk)).toNat
      (c ≠ 0xFF → t.val m base row col = (elemVal f 127 (t.code m base row col) (bobbleOf (t.bobWords m base row col) (col % 32))).scale ((c : Int) - 127))
      ∧ (c = 0xFF → t.val m base row col = .nan))

/-- R96: a Skein with `ACC` 0 and its special-state bits clear drains as +0, so a sum of contributions that are all −0 does: code 0 in every
format that is not scaled. -/
def Obligations.ZeroSumsDrainAsPositiveZero : Prop :=
  (∀ (w : SkeinW) (cls : Nat) (T ls : Int), (Sk.of w).acc = 0 → (Sk.of w).nan = false → (Sk.of w).pinf = false → (Sk.of w).ninf = false →
      (Sk.of w).sat = false → ∃ m, m.isZero = true ∧ (Sk.of w).drain cls T ls = .num false m
      ∧ ∀ (f : Fmt) (wm : WrMode) (r : Rnd), f.scaled = false → f ≠ .selv → (f.encElem wm false 0 r (.num false m)).code = 0)
  ∧ (∀ (an : Anc) (es : List Int), (sliceSum an (es.map fun e => Contrib.ofVal (.fin true 0 e))).1 = Sk.zero)

/-- ROW_WORD_ISSUE (R140, R146, R162, R163): one issue of a word without a loop operation takes 1 + `SEQ_HOLD` cycles and is counted, unless a
fault drops the stitch; `SEGEND` ends the segment, any other word leads to the next; `CHRAISE` records its flag and `LPW_EN` writes a loop
count. Shown for a word that reads and writes no Panel SRAM line; the two stops are the undefined cases of R176. -/
def Obligations.RowWordIssuesOneWord : Prop :=
  ∀ (n : Fin 32) (s : State) (g : Seg) (w : Nat), s.panelUp n = true → s.panels[n].seg = some g → s.panels[n].ended = false →
    w = (tget 0 s.panels[n].store (g.prog + s.panels[n].pc)).toNat → RW.lpOp w = 0 →
    (exec (.rowWordIssue n) s = .fault .writePortClash → ∃ k < 4, RW.wen w k = true)
    ∧ (exec (.rowWordIssue n) s = .fault .extentLeft → (∃ k < 4, RW.wen w k = true) ∨ ∃ q < 8, RW.push w q ≠ 0)
    ∧ ((∀ k < 4, RW.wen w k = false) → (∀ q < 8, RW.push w q = 0) → Runs (.rowWordIssue n) s fun t =>
      (t.panels[n].fault = none →
        t.panels[n].cycle = s.panels[n].cycle + 1 + RW.hold w ∧ t.panels[n].counts.words = s.panels[n].counts.words + 1
        ∧ t.panels[n].ended = RW.segend w ∧ t.panels[n].pc = (if RW.segend w then s.panels[n].pc else s.panels[n].pc + 1)
        ∧ t.panels[n].raises = (if RW.chraise w then s.panels[n].raises ++ [RW.chflag w] else s.panels[n].raises)
        ∧ t.panels[n].cnt = (if RW.lpwEn w then s.panels[n].cnt.set (RW.lpwLvl w) (BitVec.ofNat 16 (RW.lpwVal w)) else s.panels[n].cnt)
        ∧ t.panels[n].sram = s.panels[n].sram)
      ∧ t.panels[n].seg = some g ∧ (∀ l, l ∉ s.panels[n].written → tget {} t.panels[n].sram l = tget {} s.panels[n].sram l)
      ∧ (∀ k : Fin 32, k ≠ n → t.panels[k] = s.panels[k])
      ∧ Only (.panels :: .slots :: .tdp :: Sent) s t)

/-- WRITE_TURNAROUND_END (R129) and RESIDUE_CHECK (R171): tags of lines written at least four cycles ago are released; with every queue empty
and nothing in flight the check passes and changes nothing else; an entry left in a queue is a fault of kind 0x9 at cycle 31 and the
queues are empty after; Skeins, anchors and the B halves may hold data. -/
def Obligations.WriteTagsAndResidueAreChecked : Prop :=
  (∀ (n : Fin 32) (s : State), s.panels[n].ended = false → s.panels[n].seg ≠ none → exec (.writeTurnaroundEnd n) s = .next { s with
      panels := s.panels.set n { s.panels[n] with wtags := s.panels[n].wtags.filter fun x => s.panels[n].cycle < x.2 + 4 } })
  ∧ (∀ (n : Fin 32) (s : State), s.panels[n].prev ≠ none → s.panels[n].fly = [] → (∀ e < 16, ∀ q < 8, (s.panels[n].eng e).occ q = 0) →
      exec (.residueCheck n) s = .next { s with panels := s.panels.set n { s.panels[n] with prev := none, lateFault := none, arr := s.panels[n].arr.filter (fun x => 31 ≤ x.cycle) } })
  ∧ (∀ (n : Fin 32) (s : State), s.panels[n].prev ≠ none → s.panels[n].fly = [] → s.panels[n].ranFault = false →
      (∃ e < 16, ∃ q < 8, (s.panels[n].eng e).occ q ≠ 0) → Runs (.residueCheck n) s fun t =>
        (∃ w, t.panels[n].lateFault = some w ∧ BV.fld w 60 4 = 9 ∧ BV.fld w 44 12 = 31) ∧ t.panels[n].prev = none ∧ t.panels[n].ranFault = true
        ∧ (∀ e < 16, ∀ q < 8, (t.panels[n].eng e).occ q = 0)
        ∧ (∀ e < 16, (t.panels[n].eng e).skeins = (s.panels[n].eng e).skeins ∧ (t.panels[n].eng e).anchors = (s.panels[n].eng e).anchors
            ∧ (t.panels[n].eng e).half0 = (s.panels[n].eng e).half0 ∧ (t.panels[n].eng e).half1 = (s.panels[n].eng e).half1)
        ∧ t.panels[n].sram = s.panels[n].sram ∧ t.panels[n].fault = s.panels[n].fault
        ∧ (∀ k : Fin 32, k ≠ n → t.panels[k] = s.panels[k]) ∧ Only [.panels] s t)

namespace Sys2Proof.Stated

/-- What a swatch mismatch with a running training step does (R374, R375): the record kept, an entry in the log, the attempt failed as
replayable with every task that had not completed at status 0x03, nothing else of the units. (A shadow swatch loads the panel's spare as well.) -/
def Mismatch (s t : State) (r : Suspect) : Prop :=
  t.swt.suspects = s.swt.suspects ++ [r] ∧ t.wrk.seq = s.wrk.seq + 1
  ∧ (t.slot r.slot).att.replayBit = true ∧ (t.slot r.slot).stopped = true ∧ (t.slot r.slot).st = .running
  ∧ (∀ i < (s.slot r.slot).tasks.length, TD.typ ((s.slot r.slot).desc i) ≠ 7 → ((s.slot r.slot).task i).finished = false →
      ((t.slot r.slot).task i).status = 3 ∧ ((t.slot r.slot).task i).finished = true)
  ∧ (∀ k : Fin 64, k.val ≠ r.slot → t.slots[k] = s.slots[k])
  ∧ Only (.swt :: .wrk :: .fresh :: .panels :: .slots :: .ctxs :: .mem :: .poison :: .pager :: Raised) s t

/-- A panel whose spare has loaded the engine it shadows in the frame that runs (R136, R137), and no other unit has changed. -/
def Reshaded (s t : State) (n : Fin 32) : Prop :=
  t.panels[n].shadow = s.frame.toNat % 16 ∧ t.panels[n].spare = s.panels[n].eng (s.frame.toNat % 16) ∧ t.panels[n].differ = false
  ∧ t.panels[n].engines = s.panels[n].engines ∧ t.panels[n].sram = s.panels[n].sram ∧ t.panels[n].seg = s.panels[n].seg
  ∧ (∀ k : Fin 32, k ≠ n → t.panels[k] = s.panels[k])

end Sys2Proof.Stated

/-- SHADOW_SWATCH and CROSS_SWATCH (R136, R137, R369, R373 to R375): the spare loads the next engine; results that agree change nothing else but
that the comparison is done and a cross swatch counted; a mismatch, of the states held or because one engine was upset (log 57), is counted and logged, a suspect record is made, and the segment's attempt fails as replayable. -/
def Obligations.SwatchesReportMismatches : Prop :=
  (∀ (n : Fin 32) (dx dy : BitVec 384) (y : Nat) (s : State), s.remap.spare n = some y → s.panelUp n = true → s.panels[n].ranFault = false →
    (∀ k ∈ s.swt.due, k.susp = none) →
    (s.panels[n].shadow ≠ (s.frame.toNat + 15) % 16 ∨ s.panels[n].spareDiffers = false →
      Runs (.shadowSwatch n false dx dy) s fun t => Reshaded s t n ∧ Only [.panels] s t)
    ∧ ∀ (g : Seg) (u : Bool), u = true ∨ (s.panels[n].shadow = (s.frame.toNat + 15) % 16 ∧ s.panels[n].spareDiffers = true) → s.panels[n].ran = some g → g.slot < 64 → (s.slot g.slot).st = .running → (s.slot g.slot).graph.training = true → (s.slot g.slot).cancelled = false →
        s.swt.suspects.length < 64 → Runs (.shadowSwatch n u dx dy) s fun t =>
          Reshaded s t n ∧ t.swt.mmShadow = bump s.swt.mmShadow ∧ t.swt.mmCross = s.swt.mmCross
          ∧ Mismatch s t { slot := g.slot, task := g.task, sigma := g.sigma, attempt := (s.slot g.slot).attempt.toNat
                           tile := (s.frame.toNat + 15) % 16, x := s.remap.eng n ((s.frame.toNat + 15) % 16), y := y, digX := dx, digY := dy })
  ∧ (∀ (n : Fin 32) (e : Fin 16) (dx dy : BitVec 384) (k : Check) (s : State), s.swt.due = [k] → k.panel = n → k.z = none → k.susp = none →
    (s.panel k.primary).ranFault = false →
    exec (.crossSwatch n false e dx dy) s = .next { s with swt := { s.swt with due := [], cross := bump s.swt.cross } }
    ∧ (k.slot < 64 → (s.slot k.slot).st = .running → (s.slot k.slot).graph.training = true → (s.slot k.slot).cancelled = false → s.swt.suspects.length < 64 →
        Runs (.crossSwatch n true e dx dy) s fun t =>
          t.swt.mmCross = bump s.swt.mmCross ∧ t.swt.cross = bump s.swt.cross ∧ t.swt.mmShadow = s.swt.mmShadow ∧ t.swt.due = [] ∧ t.panels = s.panels
          ∧ Mismatch s t { slot := k.slot, task := k.task, sigma := k.sigma, attempt := k.attempt, tile := e
                           x := s.remap.eng k.primary e, y := s.remap.eng n ((e.val + 16 - k.rot) % 16), digX := dx, digY := dy }))


/-! ### Contexts, tensors, graph slots (spec/10, spec/11, spec/00) -/

/-- R16: a create of a FREE context of a ready module takes the offered major 2 and refuses any other value, leaving the context FREE
and the module's own major, 2, as the answer. (Accepting also needs the quotas of R265, R297 and R356 to fit with the context LIVE.) -/
def Obligations.CreationTakesArchitectureMajorTwo : Prop :=
  ∀ (c : Fin 16) (offer : Nat) (re : Bool) (regen : BitVec 8) (s : State), s.tickRun = true → s.bru.ready = true → s.ctxs[c].st = .free →
    (offer ≠ 2 → exec (.create c offer re regen) s = .next (s.setCtx c { s.ctxs[c] with answer := 2 })
      ∧ ((s.setCtx c { s.ctxs[c] with answer := 2 }).ctxs[c]).st = .free ∧ ((s.setCtx c { s.ctxs[c] with answer := 2 }).ctxs[c]).answer = 2)
    ∧ (offer = 2 → re = false → (s.setCtx c { s.ctxs[c] with st := .live }).quotasOk = true →
        Runs (.create c offer re regen) s fun t => t.ctxs[c].st = .live ∧ t.ctxs[c].answer = 2)

/-- CREATE (R264, R424, R428): the context is LIVE under its generation, without tensors, flags or progress, and pages of an orphan are
freed; a reattach takes the orphaned tensors over, contents in place, under the new generation, and needs the orphan's generation; before
the module is ready or for a context that is not FREE the create is refused, and without a running tick the page does not answer (R404). -/
def Sys2Proof.Stated.CreationMakesAContextLive : Prop :=
  ∀ (c : Fin 16) (regen : BitVec 8) (s : State), (s.tickRun = false → ∀ offer re, exec (.create c offer re regen) s = .next s) ∧ (s.tickRun = true →
    (s.bru.ready = false ∨ s.ctxs[c].st ≠ .free → ∀ offer re, Runs (.create c offer re regen) s fun t =>
      t.host.txn[c].result = 3 ∧ t.host.txn[c].errBlock = 7 ∧ t.ctxs = s.ctxs ∧ Only [.host] s t)
    ∧ (s.bru.ready = true → s.ctxs[c].st = .free → s.ctxs[c].orphans = [] → (s.setCtx c { s.ctxs[c] with st := .live }).quotasOk = true →
      Runs (.create c 2 false regen) s fun t =>
        t.ctxs[c].st = .live ∧ t.ctxs[c].gen = s.ctxs[c].gen ∧ t.ctxs[c].tensors = [] ∧ t.ctxs[c].flags = [] ∧ t.ctxs[c].progress = 0
        ∧ t.ctxs[c].orphan = false ∧ t.ctxs[c].cfg = s.ctxs[c].cfg ∧ (∀ k : Fin 16, k ≠ c → t.ctxs[k] = s.ctxs[k]) ∧ Only [.ctxs] s t)
    ∧ (s.bru.ready = true → s.ctxs[c].st = .free → s.ctxs[c].orphan = true → s.ctxs[c].orphGen = regen →
      (s.setCtx c { s.ctxs[c] with st := .live }).quotasOk = true → ({ s.ctxs[c] with tensors := s.ctxs[c].orphans } : Ctx).pagesOk = true →
      Runs (.create c 2 true regen) s fun t =>
        t.ctxs[c].st = .live ∧ t.ctxs[c].tensors = s.ctxs[c].orphans.map (fun t => { t with gen := s.ctxs[c].gen.toNat })
        ∧ t.ctxs[c].orphans = [] ∧ t.ctxs[c].orphan = false ∧ Only [.ctxs] s t)
    ∧ (s.bru.ready = true → s.ctxs[c].st = .free → (s.ctxs[c].orphan = false ∨ s.ctxs[c].orphGen ≠ regen) →
      Runs (.create c 2 true regen) s fun t => t.host.txn[c].result = 3 ∧ Only [.host] s t))

/-- ORPHAN_DISCARD (R424), TEARDOWN, TEARDOWN_DRAIN_COMPLETE, TEARDOWN_TIMEOUT (R289, R290): orphaned tensors go with their pages; a LIVE
context becomes DYING and its slots stop; with no write outstanding it becomes FREE, its generation advances by 1, its tensors and their
bytes go, its slots are IDLE and its function's vector 0 fires; a write still outstanding at the timeout resets the partition that holds
it, or both partitions. -/
def Sys2Proof.Stated.TeardownFreesAContext : Prop :=
  ∀ (c : Fin 16) (s : State),
    (Runs (.orphanDiscard c) s fun t =>
      t.ctxs[c] = { s.ctxs[c] with orphans := [], orphan := false, orphGen := 0 } ∧ (∀ k : Fin 16, k ≠ c → t.ctxs[k] = s.ctxs[k])
      ∧ (∀ o ∈ s.ctxs[c].orphans, ∀ a < o.allPages * 2 ^ 21, tget 0 t.mem (memKey o.ctx o.place + a) = 0)
      ∧ (∀ k, (∀ o ∈ s.ctxs[c].orphans, k < memKey o.ctx o.place ∨ memKey o.ctx o.place + o.allPages * 2 ^ 21 ≤ k) → tget 0 t.mem k = tget 0 s.mem k)
      ∧ Only [.ctxs, .mem, .poison, .pager] s t)
    ∧ (s.ctxs[c].st ≠ .live ∨ s.tickRun = false → exec (.teardown c) s = .next s)
    ∧ (s.ctxs[c].st = .live → s.tickRun = true → s.liveSlots c = [] → exec (.teardown c) s = .next (s.setCtx c { s.ctxs[c] with st := .dying }))
    ∧ (s.ctxs[c].st = .dying → s.outWrites c 0 = false → s.outWrites c 1 = false → (∀ t ∈ s.ctxs[c].tensors, t.ctx = c.val) →
      Runs (.teardownDrainComplete c) s fun t =>
        t.ctxs[c].st = .free ∧ t.ctxs[c].gen = s.ctxs[c].gen + 1 ∧ t.ctxs[c].tensors = [] ∧ t.ctxs[c].flags = []
        ∧ (∀ k : Fin 16, k ≠ c → t.ctxs[k] = s.ctxs[k])
        ∧ (∀ n : Fin 64, s.slots[n].ctx.toNat = c → t.slots[n].st = .idle) ∧ (∀ n : Fin 64, s.slots[n].ctx.toNat ≠ c → t.slots[n] = s.slots[n])
        ∧ (∀ r ∈ s.ctxs[c].tensors, ∀ a < r.allPages * 2 ^ 21, tget 0 t.mem (memKey c r.place + a) = 0)
        ∧ (∀ x ∈ t.fab.streams, x.ctx ≠ c) ∧ (∀ x ∈ t.fab.reds, x.ctx ≠ c) ∧ t.out = s.out ++ [.msix c 0]
        ∧ Only [.ctxs, .slots, .mem, .poison, .pager, .fab, .panels, .sec, .host, .out] s t)
    ∧ (s.ctxs[c].st = .dying → s.awake = true → s.bru.ready = true → s.pwr.st = 1 → s.esc.active = 0 →
      (s.outWrites c 0 = true → s.outWrites c 1 = false →
        exec (.teardownTimeout c) s = .next { s with esc := { s.esc with waiting := s.esc.waiting ++ [(4, 0, 4)] } })
      ∧ (s.outWrites c 0 = false → s.outWrites c 1 = true →
        exec (.teardownTimeout c) s = .next { s with esc := { s.esc with waiting := s.esc.waiting ++ [(4, 1, 4)] } })
      ∧ (s.outWrites c 0 = true → s.outWrites c 1 = true →
        exec (.teardownTimeout c) s = .next { s with esc := { s.esc with waiting := s.esc.waiting ++ [(4, 0, 4), (4, 1, 4)] } }))

/-- Creation makes a context LIVE; a teardown frees it and advances its generation: the statements `CreationMakesAContextLive` and
`TeardownFreesAContext` together. -/
def Obligations.ContextsLiveAndDie : Prop := Stated.CreationMakesAContextLive ∧ Stated.TeardownFreesAContext

/-- A tensor command of function c waits by itself for the next tick (log 59): k, and nothing else. -/
def Sys2Proof.Stated.Waits (s : State) (c : Fin 16) (k : TCmd) : Prop := s.host.txn[c].lone = [k] ∧ s.host.txn[c].st ≠ 2

/-- TENSOR_CREATE, TENSOR_MODIFY, TENSOR_DESTROY (R292, R294, R449): each joins the function's open transaction, with its place among the
writes and counted; outside one it is a transaction of its own (log 59); a 257th entry is refused with 0x05 and one beside a pending commit with
0x07. -/
def Sys2Proof.Stated.TensorCommandsAreStaged : Prop :=
  ∀ (c : Fin 16) (w : BitVec 1024) (tid : Nat) (s : State),
    ∀ x ∈ ([(.tensorCreate c w, { kind := 0, ctx := c, record := w }), (.tensorModify c w, { kind := 1, ctx := c, record := w }),
        (.tensorDestroy c tid, { kind := 2, ctx := c, record := BitVec.ofNat 1024 tid })] : List (Instr × TCmd)),
      (s.host.txn[c].st = 0 → Runs x.1 s fun t => t.host.txn[c] = { s.host.txn[c] with lone := s.host.txn[c].lone ++ [x.2] } ∧ TxnOnly c false s t)
      ∧ (s.host.txn[c].st = 1 → s.host.txn[c].staged.length + s.host.txn[c].cmds.length < 256 → Runs x.1 s fun t =>
          t.host.txn[c] = { s.host.txn[c] with cmds := s.host.txn[c].cmds ++ [{ x.2 with pos := s.host.txn[c].staged.length }], count := s.host.txn[c].count + 1 }
          ∧ TxnOnly c false s t)
      ∧ (s.host.txn[c].st = 1 → 256 ≤ s.host.txn[c].staged.length + s.host.txn[c].cmds.length → Runs x.1 s fun t =>
          t.host.txn[c] = { s.host.txn[c] with result := 5, full := true } ∧ TxnOnly c true s t)
      ∧ (1 < s.host.txn[c].st.toNat → Runs x.1 s fun t => t.host.txn[c] = { s.host.txn[c] with result := 7 } ∧ TxnOnly c true s t)

/-- A create at its tick (R291, R292, R293, R298): with a record the rules allow and room for its pages, the tensor exists with the fields the
command carries, placed at a page boundary of the context's 2^40 bytes clear of every other tensor of it; bytes of other tensors are
unchanged. A record the rules refuse leaves all as it was but for the refused transaction. -/
def Sys2Proof.Stated.CreatedTensorsArePlacedClear : Prop :=
  ∀ (c : Fin 16) (w : BitVec 1024) (s t : State), Waits s c { kind := 0, ctx := c, record := w } → t = s.commit c →
    let r := { TRec.ofWord w with ctx := c.val, gen := s.ctxs[c].gen.toNat, upd := BV.put (TRec.ofWord w).upd 31 1 0 }
    (s.ctxs[c].st = .live → s.ctxs[c].createOk w r = true → s.ctxs[c].orphans = [] → s.ctxs[c].freeing = [] → s.ctxs[c].tensors = [] → r.allPages ≤ 2 ^ 19 →
        (∃ p, t.ctxs[c].tensors = [{ r with place := p * 2 ^ 21 }] ∧ p + r.allPages ≤ 2 ^ 19
          ∧ (∀ k, k < memKey c (p * 2 ^ 21) ∨ memKey c (p * 2 ^ 21) + r.allPages * 2 ^ 21 ≤ k → tget 0 t.mem k = tget 0 s.mem k))
        ∧ t.ctxs[c].flags = s.ctxs[c].flags ∧ (∀ k : Fin 16, k ≠ c → t.ctxs[k] = s.ctxs[k])
        ∧ t.host.txn[c] = { s.host.txn[c] with lone := [] } ∧ Only [.ctxs, .mem, .poison, .pager, .fresh, .host] s t)
    ∧ (∀ r0 ∈ s.ctxs[c].tensors, s.ctxs[c].st = .live → s.ctxs[c].createOk w r = true →
          (t.ctxs ≠ s.ctxs → ∃ p, t.ctxs[c].tensors = s.ctxs[c].tensors ++ [{ r with place := p * 2 ^ 21 }]
            ∧ (0 < r.allPages → 0 < r0.allPages → p + r.allPages ≤ r0.place / 2 ^ 21 ∨ r0.place / 2 ^ 21 + r0.allPages ≤ p))
          ∧ Only [.ctxs, .mem, .poison, .pager, .fresh, .host] s t)
    ∧ (s.ctxs[c].st ≠ .live ∨ s.ctxs[c].createOk w r = false → t.host.txn[c].result = 3 ∧ t.host.txn[c].errBlock = 8 ∧ Only [.host] s t)
    ∧ ((s.ctxs[c].tensors.any (fun u => u.tid = r.tid) = true ∨ r.tid = 0 ∨ 2 ^ 40 < r.elems ∨ r.part = 3 ∨ (r.finEn = true ∧ r.spill = true)
        ∨ (r.raw = true ∧ r.spill = true)) → s.ctxs[c].createOk w r = false)

/-- TENSOR_READ, and a modify or a destroy at its tick (R291, R294): a read answers the 128-byte record; a modify of the fields R294 lists takes
effect while no graph in ADMITTING or RUNNING names the tensor, and a destroy frees its bytes, at once where no write to it is on its way; otherwise
both are refused. -/
def Sys2Proof.Stated.TensorRecordsAreReadModifiedAndDestroyed : Prop :=
  ∀ (c : Fin 16) (r : TRec) (s : State), s.tensor c r.tid = some r →
    exec (.tensorRead c r.tid) s = .next { s with out := s.out ++ [.record c r.word] }
    ∧ (∀ w, (TRec.ofWord w).tid = r.tid → s.inUse c r.tid = true → Waits s c { kind := 1, ctx := c, record := w } →
        (s.commit c).host.txn[c].result = 3 ∧ (s.commit c).ctxs = s.ctxs ∧ Only [.host] s (s.commit c))
    ∧ (∀ w, (TRec.ofWord w).tid = r.tid → s.inUse c r.tid = false → s.ctxs[c].st = .live → Waits s c { kind := 1, ctx := c, record := w } → let n := TRec.ofWord w
        n.fmt &&& BitVec.ofNat 64 (2 ^ 64 - 1 - modFmtMask) = r.fmt &&& BitVec.ofNat 64 (2 ^ 64 - 1 - modFmtMask) →
        n.attn &&& BitVec.ofNat 64 (2 ^ 64 - 1 - modAttnMask) = r.attn &&& BitVec.ofNat 64 (2 ^ 64 - 1 - modAttnMask) →
        n.upd = r.upd → n.e0 = r.e0 → n.e1 = r.e1 → n.e2 = r.e2 → n.e3 = r.e3 → n.spill = r.spill → n.raw = r.raw → r.raw = false →
        n.part ≠ 3 → FW.bad n.fmt = false → recReserved w n = true →
        s.commit c = (s.setTxn c { s.host.txn[c] with lone := [] }).setCtx c { s.ctxs[c] with tensors := s.ctxs[c].tensors.map fun u =>
          if u.tid = r.tid then { r with fmt := n.fmt, attn := n.attn, grad := n.grad, part := n.part } else u })
    ∧ (r.tid < 2 ^ 1024 → Waits s c { kind := 2, ctx := c, record := BitVec.ofNat 1024 r.tid } → let t := s.commit c
      (s.inUse c r.tid = true → t.host.txn[c].result = 3 ∧ t.ctxs = s.ctxs ∧ Only [.host] s t)
      ∧ (s.inUse c r.tid = false → r.ctx = c.val → s.writesTo r = false →
        t.ctxs[c].tensors = s.ctxs[c].tensors.filter (·.tid ≠ r.tid)
        ∧ (∀ a < r.allPages * 2 ^ 21, tget 0 t.mem (memKey c r.place + a) = 0)
        ∧ (∀ k, k < memKey c r.place ∨ memKey c r.place + r.allPages * 2 ^ 21 ≤ k → tget 0 t.mem k = tget 0 s.mem k)
        ∧ (∀ k : Fin 16, k ≠ c → t.ctxs[k] = s.ctxs[k]) ∧ Only [.ctxs, .mem, .poison, .pager, .host] s t)
      ∧ (s.inUse c r.tid = false → r.ctx = c.val → s.writesTo r = true →
        t.ctxs[c].tensors = s.ctxs[c].tensors.filter (·.tid ≠ r.tid) ∧ t.ctxs[c].freeing = s.ctxs[c].freeing ++ [r]
        ∧ (∀ k : Fin 16, k ≠ c → t.ctxs[k] = s.ctxs[k]) ∧ Only [.ctxs, .host] s t))

/-- Tensor commands are staged; tensors are placed clear of others, read, modified and destroyed: the statements `TensorCommandsAreStaged`,
`CreatedTensorsArePlacedClear` and `TensorRecordsAreReadModifiedAndDestroyed` together. -/
def Obligations.TensorsAreCreatedReadAndDestroyed : Prop :=
  Stated.TensorCommandsAreStaged ∧ Stated.CreatedTensorsArePlacedClear ∧ Stated.TensorRecordsAreReadModifiedAndDestroyed

namespace Sys2Proof.Stated

/-- The image of an ADMITTING slot passes the address checks of R276, the header's version, its reserved fields and its limits (R277,
codes 0x01 to 0x03 for the header). -/
def HeaderOk (s : State) (n : Fin 64) : Prop :=
  let x := s.slots[n]
  s.rawRoom x.ctx.toNat x.image.toNat ≠ none ∧ x.graph.addr = x.image.toNat ∧ x.image.toNat < 2 ^ 40 ∧ x.image.toNat % 64 = 0
  ∧ x.cpl.toNat % 64 = 0 ∧ (∃ r, s.rawRoom x.ctx.toNat x.cpl.toNat = some r ∧ 32 * GH.ntask x.graph.hdr ≤ r)
  ∧ fld x.graph.hdr 56 8 = 2 ∧ fld x.graph.hdr 48 8 = 64 ∧ GH.resv0 x.graph.hdr = true ∧ GH.limits x.graph.hdr = true
  ∧ ∃ r, s.rawRoom x.ctx.toNat x.image.toNat = some r ∧ GH.span x.graph.hdr ≤ r

end Sys2Proof.Stated

/-- R15: admission accepts a graph only where every descriptor's version field is 2 and its size field is 128 bytes, and rejects one whose
first descriptor has another version with the version error, code 0x01; the slot is REJECTED at the next tick (R275). -/
def Obligations.AdmissionRejectsOtherDescriptorVersions : Prop :=
  ∀ (n : Fin 64) (s : State), s.slots[n].st = .admitting → s.slots[n].admitted = false → s.slots[n].leave = none →
    s.ctxs[s.slots[n].ctx.toFin].st = .live →
    (∀ i (h : i < s.slots[n].graph.tasks.length), fld s.slots[n].graph.tasks[i] 56 8 ≠ 2 ∨ fld s.slots[n].graph.tasks[i] 48 8 ≠ 128 →
      Runs (.admissionEnd n) s fun t => t.slots[n].admitted = false ∧ ∃ code task, t.slots[n].leave = some (.rejected, code, task))
    ∧ (HeaderOk s n → ∀ (h : 0 < s.slots[n].graph.tasks.length), fld s.slots[n].graph.tasks[0] 56 8 ≠ 2 ∨ fld s.slots[n].graph.tasks[0] 48 8 ≠ 128 →
      Runs (.admissionEnd n) s fun t => t.slots[n].admitted = false ∧ t.slots[n].leave = some (.rejected, 1, 0))
    ∧ (∀ (code task : Nat) (t : State), t.slots[n].leave = some (.rejected, code, task) → (t.leaveDue n).slots[n].st = .rejected
        ∧ (t.leaveDue n).slots[n].errCode = BitVec.ofNat 8 code ∧ (t.leaveDue n).slots[n].errTask = BitVec.ofNat 20 task ∧ (t.leaveDue n).slots[n].leave = none
        ∧ (∀ k : Fin 64, k ≠ n → (t.leaveDue n).slots[k] = t.slots[k]))

/-- ARM and ADMISSION_END (R275 to R277, R279, R284): an arm puts a slot that is not busy into ADMITTING with the addresses its page holds,
and a busy slot only marks BUSY; an arm by a function that does not own the slot is refused; admission of a graph that passes keeps the image's
SHAKE256 hash and clears the graph's flag range, and one that fails is to be REJECTED, with its code and task, at the next tick. -/
def Sys2Proof.Stated.ArmAndAdmission : Prop :=
  ∀ (n : Fin 64) (c : Fin 16) (irq : Bool) (s : State), (s.tickRun = false → exec (.arm n c irq) s = .next s)
    ∧ (s.tickRun = true → s.host.slotOwn[n].toNat ≠ c ∨ s.ctxs[c].st = .dying → Runs (.arm n c irq) s fun t =>
        t.host.txn[0].result = 3 ∧ t.host.txn[0].errBlock = 7 ∧ Only [.host] s t)
    ∧ (s.tickRun = true → s.host.slotOwn[n].toNat = c → s.ctxs[c].st ≠ .dying →
      ((s.slots[n].st = .admitting ∨ s.slots[n].st = .running) → exec (.arm n c irq) s = .next (s.setSlot n { s.slots[n] with busy := true }))
      ∧ (s.slots[n].st ≠ .admitting → s.slots[n].st ≠ .running → Runs (.arm n c irq) s fun t =>
        t.slots[n].st = .admitting ∧ t.slots[n].ctx.toNat = c ∧ t.slots[n].image = s.slots[n].regImage ∧ t.slots[n].cpl = s.slots[n].regCpl
        ∧ t.slots[n].irqEn = irq ∧ t.slots[n].admitted = false ∧ t.slots[n].leave = none ∧ t.slots[n].attempt = 0 ∧ t.slots[n].errCode = 0 ∧ t.slots[n].doneCnt = 0
        ∧ (∀ k : Fin 64, k ≠ n → t.slots[k] = s.slots[k]) ∧ Only [.slots] s t))
    ∧ (s.slots[n].st = .admitting → s.slots[n].admitted = false → s.slots[n].leave = none → s.slots[n].ctx.toNat = c → s.ctxs[c].st = .live →
      (s.admitSlot n = none → Runs (.admissionEnd n) s fun t =>
          t.slots[n].st = .admitting ∧ t.slots[n].admitted = true ∧ t.slots[n].graph = s.slots[n].graph
          ∧ (HeaderOk s n → t.slots[n].hash = BitVec.ofNat 512 (ofLE (shake256 (rdBs s.mem (memKey c s.slots[n].image.toNat) s.slots[n].graph.span) 64)))
          ∧ t.ctxs[c].flags = s.ctxs[c].flags.filter (fun f => f < GH.flagBase s.slots[n].graph.hdr
              ∨ GH.flagBase s.slots[n].graph.hdr + GH.flagCount s.slots[n].graph.hdr ≤ f)
          ∧ (∀ k : Fin 64, k ≠ n → t.slots[k] = s.slots[k]) ∧ Only [.slots, .ctxs] s t)
      ∧ (∀ code task, s.admitSlot n = some (code, task) → Runs (.admissionEnd n) s fun t =>
          t.slots[n].st = .admitting ∧ t.slots[n].admitted = false ∧ t.slots[n].leave = some (.rejected, code, task)
          ∧ (∀ k : Fin 64, k ≠ n → t.slots[k] = s.slots[k]) ∧ Only [.slots] s t))

/-- CANCEL (R282): a RUNNING slot stops; every task that has not completed takes status 0x04; with no segment running the slot is
ABANDONED, else it stays RUNNING until its last segment has finished; a slot in another state is not touched. -/
def Sys2Proof.Stated.CancelStopsARunningSlot : Prop :=
  ∀ (n : Fin 64) (s : State),
    (s.slots[n].st ≠ .running ∨ s.tickRun = false → exec (.cancel n) s = .next s)
    ∧ (s.slots[n].st = .running → s.tickRun = true → s.slots[n].graph.training = false → Runs (.cancel n) s fun t =>
        t.slots[n].st = (if s.runningSegs n then .running else .abandoned) ∧ t.slots[n].stopped = true ∧ t.slots[n].cancelled = true
        ∧ (∀ i < s.slots[n].tasks.length, (s.slots[n].task i).finished = false → (t.slots[n].task i).status = 4 ∧ (t.slots[n].task i).finished = true)
        ∧ (∀ i < s.slots[n].tasks.length, (s.slots[n].task i).finished = true → t.slots[n].task i = s.slots[n].task i)
        ∧ (∀ k : Fin 64, k ≠ n → t.slots[k] = s.slots[k])
        ∧ (∀ r ∈ t.fab.reds, r.slot ≠ n.val) ∧ (∀ p : Fin 32, t.panels[p].seg = s.panels[p].seg)
        ∧ Only [.slots, .ctxs, .mem, .poison, .pager, .fab, .panels, .host, .out] s t)


/-- Arm, admission and cancel move a slot through its states: the statements `ArmAndAdmission` and `CancelStopsARunningSlot`
together. -/
def Obligations.SlotsAreArmedAndCancelled : Prop := Stated.ArmAndAdmission ∧ Stated.CancelStopsARunningSlot

/-! ### Longshore: packets, streams, joins, timers (spec/12) -/

namespace Sys2Proof.Stated

/-- The context, the sender's rank and the class of a received frame. -/
abbrev rxC (f : Frame) : Nat := LS.ctx f.pkt.hdr
abbrev rxR (f : Frame) : Nat := LS.src f.pkt.hdr
abbrev rxT (f : Frame) : Nat := LS.tc f.pkt.hdr

/-- The state as a packet's content acts on it: after the acknowledgement that the packet carries. -/
def arrives (s : State) (f : Frame) : State := if LS.ackv f.pkt.hdr then s.onAck (rxC f) (rxR f) f.pkt.hdr else s

/-- A packet that reaches a module with power and passes the checks of R325. -/
def Checked (s : State) (f : Frame) : Prop := s.pwr.rails = true ∧ s.rxCheck f.pkt = none

/-- One that passes, of a stream of a context that is not in reset. -/
def Passes (s : State) (f : Frame) : Prop := Checked s f ∧ s.esc.active ≠ 4 ∧ (s.ctx (rxC f)).resetting = false

/-- A DATA packet in its stream's window that has not been received (R326, R327). -/
def InWindow (s : State) (f : Frame) : Prop :=
  let x := (arrives s f).stream (rxC f) (rxR f) (rxT f)
  (LS.seq f.pkt.hdr + 2 ^ 32 - x.cum) % 2 ^ 32 < 4096 ∧ LS.seq f.pkt.hdr ∉ x.got

/-- A DATA packet that is taken: it passes, and lies in the window. -/
def Fresh (s : State) (f : Frame) : Prop := Passes s f ∧ LS.typ f.pkt.hdr = 1 ∧ InWindow s f

/-- A stream with a packet received (R327): the window's start advances over what has come. -/
def Received (x : Stream) (f : Frame) : Stream :=
  let got := x.got ++ [LS.seq f.pkt.hdr]
  let adv := (List.range 4097).foldl (fun a _ => if got.contains a then (a + 1) % 2 ^ 32 else a) x.cum
  { x with cum := adv, got := got.filter (fun g => !seqBefore g adv), badSeq := x.badSeq.filter (· ≠ LS.seq f.pkt.hdr), sinceAck := x.sinceAck + 1, ce := x.ce || f.ecn = 3, tsLast := LS.tstamp f.pkt.hdr }

/-- The state with a packet received, and acknowledged where it asks for it or the 16th since the last acknowledgement. -/
def taken (s : State) (f : Frame) : State :=
  let x := Received (s.stream (rxC f) (rxR f) (rxT f)) f
  if 16 ≤ x.sinceAck ∨ LS.ackreq f.pkt.hdr = true then (s.setStream x).sendAck (rxC f) (rxR f) (rxT f) else s.setStream x

/-- No class is paused on any port. -/
def Unpaused (s : State) : Prop := ∀ (n : Fin 32) (tc : Nat), s.fab.ports[n].paused tc = false

/-- Some sub-port serves and has lanes in use, and no class is paused. -/
def Serves (s : State) : Prop := (∃ i < 256, 0 < s.weight i) ∧ Unpaused s

/-- A rank has a valid entry in its context's rank table (R333). -/
def Entered (s : State) (c r : Nat) : Prop := entryValid ((s.ctx c).entry r) = true

/-- The commands of a received frame. -/
def packetCommands (f : Frame) : List Instr :=
  [.stopNotice f, .swashPacket f, .lsDataRx f, .ackRx f, .joinRx f, .joinAckRx f, .resettingRx f, .probeRx f, .raise f, .climb f, .shareEnd f, .grant f,
   .anchorReport f, .agreedAnchor f, .pageData f, .twinDelta f, .twinDeltaClose f, .twinEcho f]

end Sys2Proof.Stated

/-- A packet that fails a check of R325 is discarded and counted at that check and does nothing else, whichever command brings it; checks
are made in order: CRC, version, ranks, context, generation, type. Nothing answers while Headland has no power (R485). -/
def Obligations.FailingPacketsAreCountedAndDropped : Prop :=
  (∀ (f : Frame) (c : Instr) (k : Nat) (s : State), c ∈ packetCommands f → s.rxCheck f.pkt = some k →
    exec c s = .next s ∨ exec c s = .next { s with fab := { s.fab with drops := tset 0 s.fab.drops k (tget 0 s.fab.drops k + 1) } })
  ∧ (∀ (f : Frame) (c : Instr) (s : State), c ∈ packetCommands f → s.pwr.rails = false → exec c s = .next s)
  ∧ (∀ (f : Frame) (k : Nat) (s : State), sigKind f.pkt = some 1 → s.pwr.rails = true → s.rxCheck f.pkt = some k →
    exec (.raise f) s = .next { s with fab := { s.fab with drops := tset 0 s.fab.drops k (tget 0 s.fab.drops k + 1) } })
  ∧ (∀ (p : Packet) (s : State), (LS.crc p.hdr ≠ p.crc → s.rxCheck p = some 1)
      ∧ (LS.crc p.hdr = p.crc → LS.ver p.hdr ≠ 2 → LS.typ p.hdr = 1 → s.rxCheck p = some 2)
      ∧ (LS.crc p.hdr = p.crc → LS.ver p.hdr = 2 → (65535 < LS.src p.hdr ∨ 65535 < LS.dst p.hdr) → s.rxCheck p = some 3)
      ∧ (LS.crc p.hdr = p.crc → LS.ver p.hdr = 2 → LS.src p.hdr ≤ 65535 → LS.dst p.hdr ≤ 65535 → LS.typ p.hdr = 1 →
          s.live (LS.ctx p.hdr) = false → s.rxCheck p = some 4))

/-- DATA outside the window or received before is discarded, counted and acknowledged at once (R327); DATA of a context in reset, or of any
context during a partition reset (log 85), is answered with RESETTING and its bound (R330, R399); and what a DATA packet does happens once: after RAISE has been taken, the same frame is a duplicate. -/
def Sys2Proof.Stated.DataPacketsActOnce : Prop :=
  (∀ (f : Frame) (s : State), sigKind f.pkt = some 1 → Passes s f → ¬InWindow s f →
    exec (.raise f) s = .next (((arrives s f).drop 7).sendAck (rxC f) (rxR f) (rxT f)))
  ∧ (∀ (f : Frame) (s : State), sigKind f.pkt = some 1 → Checked s f → s.esc.active ≠ 4 → (s.ctx (rxC f)).resetting = true →
    exec (.raise f) s = .next ((arrives s f).sendResetting (rxC f) (rxR f) 5))
  ∧ (∀ (f : Frame) (s : State), sigKind f.pkt = some 1 → Checked s f → s.esc.active = 4 →
    exec (.raise f) s = .next ((arrives s f).sendResetting (rxC f) (rxR f) 400))
  ∧ (∀ (f : Frame) (s t : State), sigKind f.pkt = some 1 → Fresh s f → ((arrives s f).stream (rxC f) (rxR f) (rxT f)).cum < 2 ^ 32 →
    exec (.raise f) s = .next t → ¬InWindow t f)

/-- An acknowledgement (R328): the packets before `LS_ACK` and those marked in `LS_SACK` leave the sender's store, the others stay, and
only the streams, the rates and what is sent change. -/
def Sys2Proof.Stated.AcknowledgedPacketsLeaveTheStore : Prop :=
  ∀ (f : Frame) (s : State), LS.typ f.pkt.hdr = 2 → Checked s f → LS.ackv f.pkt.hdr = true → (s.peer (rxC f) (rxR f)).held = false →
    (s.stream (rxC f) (rxR f) (rxT f)).txq = [] →
    Runs (.ackRx f) s fun t =>
      (t.stream (rxC f) (rxR f) (rxT f)).unacked.map (·.1) = ((s.stream (rxC f) (rxR f) (rxT f)).unacked.map (·.1)).filter (fun q =>
        !(seqBefore q (LS.ack f.pkt.hdr)) && !((List.range 64).any fun b => (LS.sack f.pkt.hdr).testBit b
          && (LS.ack f.pkt.hdr + 1 + 64 * LS.sackofs f.pkt.hdr + b) % 2 ^ 32 = q))
      ∧ ((∃ u ∈ (s.stream (rxC f) (rxR f) (rxT f)).unacked, seqBefore u.1 (LS.ack f.pkt.hdr) = true) →
          (t.stream (rxC f) (rxR f) (rxT f)).expiries = 0 ∧ 20000 ≤ (t.stream (rxC f) (rxR f) (rxT f)).rto)
      ∧ (t.stream (rxC f) (rxR f) (rxT f)).cum = (s.stream (rxC f) (rxR f) (rxT f)).cum
      ∧ (∀ c r k, (c, r, k) ≠ (rxC f, rxR f, rxT f) → t.stream c r k = s.stream c r k)
      ∧ t.fab.peers = s.fab.peers ∧ t.fab.reds = s.fab.reds ∧ (Unpaused s → t.fab.ports = s.fab.ports) ∧ (∃ l, t.wire = s.wire ++ l)
      ∧ Only [.fab, .wire, .fresh] s t

/-- A DATA packet acts once; acknowledged packets leave the store: the statements `DataPacketsActOnce` and
`AcknowledgedPacketsLeaveTheStore` together. -/
def Obligations.PacketsActOnceAndAreAcknowledged : Prop := Stated.DataPacketsActOnce ∧ Stated.AcknowledgedPacketsLeaveTheStore

/-- JOIN_RX, JOIN_ACK_RX (R332), RESETTING_RX, PROBE_RX (R330): a JOIN that fits is answered with a JOIN_ACK and restarts the pair's streams;
the answer to this module's JOIN opens the rank, a refusal makes it unreachable; RESETTING holds the streams toward the sender; a PROBE
brings the sender's bitmap and is acknowledged. -/
def Obligations.JoinsHoldsAndProbesFollowTheRankState : Prop :=
  ∀ (f : Frame) (s : State), Checked s f → LS.ackv f.pkt.hdr = false →
    (LS.typ f.pkt.hdr = 3 → Entered s (rxC f) (rxR f) → (nth 0 f.pkt.payload 0).toNat ≤ 2 → 2 ≤ (nth 0 f.pkt.payload 1).toNat → (s.ctx (rxC f)).st = .live →
      (s.ctx (rxC f)).cfg.job.toNat = LS.job f.pkt.hdr → (s.ctx (rxC f)).cfg.rank.toNat = LS.dst f.pkt.hdr →
      s.fab.streams = [] → (s.peer (rxC f) (rxR f)).held = false →
      Runs (.joinRx f) s fun t => let q := t.peer (rxC f) (rxR f)
        q.joined = true ∧ q.joining = false ∧ q.unreachable = false ∧ q.held = false ∧ q.gen = (nth 0 f.pkt.payload 4).toNat
        ∧ q.bitmap = BitVec.ofNat 256 (ofLE ((f.pkt.payload.drop 16).take 32))
        ∧ (Serves s → ∃ g, t.wire = s.wire ++ [g] ∧ LS.typ g.pkt.hdr = 4 ∧ g.pkt.payload = joinPayload 2 0 (s.ctx (rxC f)).gen.toNat s.bitmap)
        ∧ Only [.fab, .wire, .fresh, .pager] s t)
    ∧ (LS.typ f.pkt.hdr = 3 → ((nth 0 f.pkt.payload 0).toNat ≤ 2 ∧ 2 ≤ (nth 0 f.pkt.payload 1).toNat) → (s.ctx (rxC f)).st ≠ .live → Serves s → Entered s (rxC f) (rxR f) →
      Runs (.joinRx f) s fun t => t.fab.peers = s.fab.peers ∧ (∃ g, t.wire = s.wire ++ [g] ∧ LS.typ g.pkt.hdr = 4
        ∧ g.pkt.payload = joinPayload 0 3 (s.ctx (rxC f)).gen.toNat s.bitmap) ∧ Only [.fab, .wire, .fresh] s t)
    ∧ (LS.typ f.pkt.hdr = 4 → (s.peer (rxC f) (rxR f)).joining = true → nth 0 f.pkt.payload 2 = 2 → nth 0 f.pkt.payload 3 = 0 → s.fab.streams = [] →
      Runs (.joinAckRx f) s fun t => let q := t.peer (rxC f) (rxR f)
        q.joined = true ∧ q.joining = false ∧ q.gen = (nth 0 f.pkt.payload 4).toNat ∧ Only [.fab, .wire, .fresh, .pager] s t)
    ∧ (LS.typ f.pkt.hdr = 4 → (s.peer (rxC f) (rxR f)).joining = true → (s.peer (rxC f) (rxR f)).unreachable = false → nth 0 f.pkt.payload 3 ≠ 0 →
      Runs (.joinAckRx f) s fun t => (t.peer (rxC f) (rxR f)).unreachable = true ∧ (t.peer (rxC f) (rxR f)).joining = false
        ∧ Only (.fab :: .wrk :: .fresh :: Raised) s t)
    ∧ (LS.typ f.pkt.hdr = 5 → ofLE (f.pkt.payload.take 4) < 400 → exec (.resettingRx f) s = .next (s.setPeer { s.peer (rxC f) (rxR f) with held := true }))
    ∧ (LS.typ f.pkt.hdr = 5 → 400 ≤ ofLE (f.pkt.payload.take 4) → Runs (.resettingRx f) s fun t =>
        (t.peer (rxC f) (rxR f)).held = true ∧ (∀ g ∈ t.pager.far, ¬(g.ctx = rxC f ∧ g.lender = some (rxR f)))
        ∧ Only (.fab :: .pager :: .poison :: .wrk :: .fresh :: Raised) s t)
    ∧ (LS.typ f.pkt.hdr = 6 → Serves s → Entered s (rxC f) (rxR f) → Runs (.probeRx f) s fun t =>
        t.peer (rxC f) (rxR f) = { s.peer (rxC f) (rxR f) with bitmap := BitVec.ofNat 256 (ofLE (f.pkt.payload.take 32)) }
        ∧ (∃ g, t.wire = s.wire ++ [g] ∧ LS.typ g.pkt.hdr = 2 ∧ LS.ackv g.pkt.hdr = true) ∧ Only [.fab, .wire, .fresh] s t)

/-- RETRANSMIT_TIMER_EXPIRY (R328, R329, R330): the packet goes out again with `F_RETX` and the timeout doubles up to 10 ms; the 16th expiry
without an advance makes the rank unreachable, with its log entry and vector 6; of a held rank, or with no sub-port in service, nothing
happens. ACK_DELAY_EXPIRY (R327): what is received is acknowledged. -/
def Sys2Proof.Stated.RetransmitTimersResendOrGiveUp : Prop :=
  ∀ (c : Fin 16) (r tc q : Nat) (s : State),
    ((s.peer c r).held = true ∨ s.bitmap = 0 ∨ (∀ u ∈ (s.stream c r tc).unacked, u.1 ≠ q) → exec (.retransmitTimerExpiry c r tc q) s = .next s)
    ∧ ((s.peer c r).held = false → Serves s → (∃ u ∈ (s.stream c r tc).unacked, u.1 = q) → (s.stream c r tc).expiries < 15 →
      Runs (.retransmitTimerExpiry c r tc q) s fun t =>
        (t.stream c r tc).expiries = (s.stream c r tc).expiries + 1 ∧ (t.stream c r tc).rto = min 10000000 (2 * (s.stream c r tc).rto)
        ∧ (t.stream c r tc).unacked.map (·.1) = (s.stream c r tc).unacked.map (·.1)
        ∧ (∃ g, t.wire = s.wire ++ [g] ∧ g.pkt.hdr.getLsbD 138 = true) ∧ Only [.fab, .wire, .fresh] s t)
    ∧ ((s.peer c r).held = false → s.bitmap ≠ 0 → (∃ u ∈ (s.stream c r tc).unacked, u.1 = q) → 15 ≤ (s.stream c r tc).expiries →
      (s.peer c r).unreachable = false → Runs (.retransmitTimerExpiry c r tc q) s fun t =>
        (t.peer c r).unreachable = true ∧ t.wire = s.wire ∧ t.wrk.seq = s.wrk.seq + 1 ∧ (c.val, 6) ∈ t.host.msix
        ∧ Only (.fab :: .wrk :: .fresh :: Raised) s t)
    ∧ ((s.stream c r tc).sinceAck = 0 → exec (.ackDelayExpiry c r tc) s = .next s)
    ∧ (0 < (s.stream c r tc).sinceAck → Serves s → Entered s c r → Runs (.ackDelayExpiry c r tc) s fun t =>
        t.stream c r tc = { s.stream c r tc with sinceAck := 0, ce := false }
        ∧ (∃ g, t.wire = s.wire ++ [g] ∧ LS.typ g.pkt.hdr = 2 ∧ LS.ack g.pkt.hdr = (s.stream c r tc).cum % 2 ^ 32) ∧ Only [.fab, .wire, .fresh] s t)

/-- JOIN_RETRY (R332), PROBE_TIMER, HOLD_EXPIRY (R330), NO_SERVICE_TIMEOUT (R316), CONGESTION_DECAY and CONGESTION_INCREASE (R331): a JOIN
repeats until the 100th try, a held rank is probed and given up in the end, without any sub-port in service every joined rank is held,
and α and the rate move by their constants. The units of α and the rate are the model's, log 26. -/
def Sys2Proof.Stated.RankTimersAndRatesMove : Prop :=
  (∀ (c : Fin 16) (r : Nat) (s : State), (s.peer c r).joining = true →
    ((s.peer c r).tries < 100 → Entered s c r → Runs (.joinRetry c r) s fun t =>
      t.peer c r = { s.peer c r with tries := (s.peer c r).tries + 1 } ∧ (Serves s → ∃ g, t.wire = s.wire ++ [g] ∧ LS.typ g.pkt.hdr = 3)
      ∧ Only [.fab, .wire, .fresh] s t)
    ∧ (100 ≤ (s.peer c r).tries → (s.peer c r).unreachable = false → Runs (.joinRetry c r) s fun t =>
      (t.peer c r).unreachable = true ∧ (t.peer c r).joining = false ∧ Only (.fab :: .wrk :: .fresh :: Raised) s t))
  ∧ (∀ (c : Fin 16) (r : Nat) (s : State), (s.peer c r).held = true →
    (Serves s → Entered s c r → Runs (.probeTimer c r) s fun t => (∃ g, t.wire = s.wire ++ [g] ∧ LS.typ g.pkt.hdr = 6 ∧ g.pkt.payload = toLE 32 s.bitmap)
      ∧ t.fab.peers = s.fab.peers ∧ t.fab.streams = s.fab.streams ∧ Only [.fab, .wire, .fresh] s t)
    ∧ ((s.peer c r).unreachable = false → Runs (.holdExpiry c r) s fun t => (t.peer c r).unreachable = true ∧ (t.peer c r).held = false
      ∧ Only (.fab :: .wrk :: .fresh :: Raised) s t))
  ∧ (∀ s : State, s.bitmap = 0 → exec .noServiceTimeout s = .next { s with fab := { s.fab with noService := true, peers := s.fab.peers.map fun p => if p.joined then { p with held := true } else p } })
  ∧ (∀ s : State, s.bitmap ≠ 0 → exec .noServiceTimeout s = .next s)
  ∧ (∀ (c r tc : Nat) (s : State), tc ∈ [2, 3, 5, 6] →
    (Runs (.congestionDecay c r tc) s fun t => t.rate c r tc = { s.rate c r tc with alpha := (s.rate c r tc).alpha * s.fab.cong.decayNum / s.fab.cong.decayDen }
      ∧ Only [.fab] s t)
    ∧ (Runs (.congestionIncrease c r tc) s fun t => t.rate c r tc = { s.rate c r tc with r := min (2 ^ 32) ((s.rate c r tc).r + 2 ^ 32 / s.fab.cong.incDen) }
      ∧ Only [.fab] s t))

/-- Transport timers resend, give up, probe and move the rates: the statements `RetransmitTimersResendOrGiveUp` and
`RankTimersAndRatesMove` together. -/
def Obligations.TransportTimersMoveTheRanks : Prop := Stated.RetransmitTimersResendOrGiveUp ∧ Stated.RankTimersAndRatesMove

/-! ### Ports and lasers (spec/12) -/

/-- LANE_SIGNAL_LOSS, FEC_ERROR_BURST, EXCLUDED_RETRY, RETRAIN, RETRAIN_END (R314, R315, R317): a sub-port of an enabled port retrains with no
lane in use; training that ends with every lane good leaves it UP with its lanes, with none EXCLUDED, with fewer DEGRADED on its largest
good group, and logs the last two but for a retry. Shown without joined ranks and without packets waiting at the port. -/
def Sys2Proof.Stated.SubPortsRetrainToTheirLanes : Prop :=
  ∀ (n : Fin 32) (k : Fin 8) (s : State), (∀ p ∈ s.fab.peers, p.joined = false) → s.fab.ports[n].waitq = [] → s.fab.ports[n].hasSub k = true → s.fab.ports[n].en = true →
    let up := { s with fab := { s.fab with ports := s.fab.ports.set n (s.fab.ports[n].setSub k 5 0) } }
    (∀ lane, s.fab.ports[n].subOf lane = k.val → exec (.laneSignalLoss n lane) s = .next up) ∧ exec (.fecErrorBurst n k) s = .next up
    ∧ (s.fab.ports[n].sub k = 6 → exec (.excludedRetry n k) s = .next { s with fab := { s.fab with ports := s.fab.ports.set n (Port.setSub { s.fab.ports[n] with retry := s.fab.ports[n].retry ||| BitVec.ofNat 8 (2 ^ k.val) } k 5 0) } })
    ∧ (s.fab.ports[n].sub k = 5 → s.fab.ports[n].retry.getLsbD k = false → (∀ x ∈ s.fab.strands.toList, x.wearQ = []) →
        (∀ (good g : BitVec 8), g = laneGroup (k * modeLanes s.fab.ports[n].mode) (modeLanes s.fab.ports[n].mode)
            (fun l => good.getLsbD l && s.fab.ports[n].laneEn.getLsbD l && !s.fab.ports[n].badLanes.getLsbD l) →
          Runs (.retrainEnd n k good) s fun t =>
            t.fab.ports = s.fab.ports.set n (s.fab.ports[n].setSub k
              (if g = laneMask (k * modeLanes s.fab.ports[n].mode) (modeLanes s.fab.ports[n].mode) then 3 else if g = 0 then 6 else 4) g)
            ∧ t.wrk.seq = (if g = laneMask (k * modeLanes s.fab.ports[n].mode) (modeLanes s.fab.ports[n].mode) then s.wrk.seq else s.wrk.seq + 1)
            ∧ Only (.fab :: .wrk :: .fresh :: Raised) s t))

/-- RETRAIN (R312, R315, R450): PF0's write of the trigger, outside a transaction and while the page is not live, retrains every sub-port of
the port's mode; a live page has no defined outcome (R176). -/
def Sys2Proof.Stated.RetrainTriggersEverySubPort : Prop :=
  ∀ (n : Fin 32) (s : State), s.hostUp 0 = true → s.pageUp 0x0C n = true → (∀ p ∈ s.fab.peers, p.joined = false) → s.fab.ports[n].waitq = [] → s.host.txn[0].st ≠ 1 →
    (s.pageLive 0x0C n = true → exec (.retrain 0 n) s = .fault .liveWrite)
    ∧ (s.pageLive 0x0C n = false → s.fab.ports[n].en = true → Runs (.retrain 0 n) s fun t =>
        (∀ k : Fin 8, t.fab.ports[n].sub k = (if s.fab.ports[n].hasSub k then 5 else 0)) ∧ (∀ m : Fin 32, m ≠ n → t.fab.ports[m] = s.fab.ports[m])
        ∧ Only [.fab] s t)

/-- Sub-ports retrain to their lanes, on events and on PF0's trigger: the statements `SubPortsRetrainToTheirLanes` and
`RetrainTriggersEverySubPort` together. -/
def Obligations.SubPortsRetrain : Prop := Stated.SubPortsRetrainToTheirLanes ∧ Stated.RetrainTriggersEverySubPort

/-- LASER_FAILURE and LASER_WEAR (R318): a spare is switched in while the Strand engine has one, counted as a wear event and logged; a
failed lane without a spare is lost, a worn one stays; a worn laser waits while a sub-port retrains. -/
def Sys2Proof.Stated.LasersSwitchToSpares : Prop :=
  ∀ (n : Fin 32) (lane : Fin 8) (s : State), (∀ p ∈ s.fab.peers, p.joined = false) → s.fab.ports[n].waitq = [] → s.fab.ports[n].en = true →
    s.fab.ports[n].hasSub (s.fab.ports[n].subOf lane) = true → let e : Fin 8 := ⟨n.val / 4, by omega⟩
    (s.fab.strands[e].spares ≠ 0 → Runs (.laserFailure n lane) s fun t =>
      t.fab.strands[e].spares = s.fab.strands[e].spares - 1 ∧ t.fab.strands[e].spent = s.fab.strands[e].spent + 1
      ∧ t.fab.ports[n] = s.fab.ports[n].setSub (s.fab.ports[n].subOf lane) 5 0
      ∧ t.wrk.seq = s.wrk.seq + 1 ∧ t.wer = { s.wer with events := bump s.wer.events } ∧ Only (.fab :: .wer :: .bru :: .wrk :: .fresh :: Raised) s t)
    ∧ (s.fab.strands[e].spares = 0 → Runs (.laserFailure n lane) s fun t =>
      t.fab.ports[n] = { s.fab.ports[n] with badLanes := s.fab.ports[n].badLanes ||| BitVec.ofNat 8 (2 ^ lane.val) }.setSub (s.fab.ports[n].subOf lane) 5 0
      ∧ t.fab.strands = s.fab.strands ∧ Only [.fab] s t)
    ∧ (s.fab.strands[e].spares = 0 → exec (.laserWear n lane) s = .next s)
    ∧ (s.fab.strands[e].spares ≠ 0 → s.fab.strands[e].switching = none → s.retraining = false → Runs (.laserWear n lane) s fun t =>
      t.fab.strands[e].spares = s.fab.strands[e].spares - 1 ∧ t.fab.strands[e].switching = some (8 * n.val + s.fab.ports[n].subOf lane)
      ∧ t.fab.ports[n] = s.fab.ports[n].setSub (s.fab.ports[n].subOf lane) 5 0
      ∧ t.wrk.seq = s.wrk.seq + 1 ∧ Only (.fab :: .wer :: .bru :: .wrk :: .fresh :: Raised) s t)
    ∧ (s.fab.strands[e].spares ≠ 0 → s.fab.strands[e].switching ≠ none ∨ s.retraining = true → 8 * n.val + lane.val ∉ s.fab.strands[e].wearQ →
      exec (.laserWear n lane) s = .next { s with fab := { s.fab with strands := s.fab.strands.set e { s.fab.strands[e] with wearQ := s.fab.strands[e].wearQ ++ [8 * n.val + lane.val] } } })

/-- ARP_REQUEST and NEIGHBOUR_SOLICITATION (R311): a sub-port answers for its own address with its own MAC address, and only so. -/
def Sys2Proof.Stated.SubPortsAnswerForTheirOwnAddress : Prop :=
  ∀ (sub ip : Nat) (s : State), let a := tget 0 s.fab.addrs sub
    (exec (.arpRequest sub ip) s = .next (if BV.fld a 48 32 = ip then { s with out := s.out ++ [.arp sub ip (BV.fld a 0 48)] } else s))
    ∧ (exec (.neighbourSolicitation sub ip) s = .next (if BV.fld a 80 128 = ip then { s with out := s.out ++ [.neighbour sub ip (BV.fld a 0 48)] } else s))


/-- Lasers switch to spares; sub-ports answer for their own address: the statements `LasersSwitchToSpares` and
`SubPortsAnswerForTheirOwnAddress` together. -/
def Obligations.LasersSwitchAndAddressesAnswer : Prop := Stated.LasersSwitchToSpares ∧ Stated.SubPortsAnswerForTheirOwnAddress

/-! ### Reductions and transfers on arrival (spec/12, spec/13, spec/14) -/

namespace Sys2Proof.Stated

/-- Chunk of a received frame. -/
abbrev rxChunk (f : Frame) : Nat := LS.chunk f.pkt.hdr

/-- The commands that take a DATA packet of a reduction: contributions, CLIMB, SHARE_END, GRANT, reports and agreed words. -/
def reductionCommands (f : Frame) : List Instr :=
  if sigKind f.pkt = some 2 then [.climb f]
  else if sigKind f.pkt = some 3 ∧ LS.redid f.pkt.hdr ≠ 0 then [.shareEnd f]
  else if sigKind f.pkt = some 4 ∧ LS.redid f.pkt.hdr ≠ 0 then [.grant f]
  else if LS.tc f.pkt.hdr = 2 ∧ LS.pfmt f.pkt.hdr ≠ 1 then [.lsDataRx f]
  else if LS.tc f.pkt.hdr = 4 ∧ LS.pfmt f.pkt.hdr = 4 then [.anchorReport f, .agreedAnchor f]
  else []

/-- A DATA packet that is taken, of an open reduction of a running slot in the packet's epoch. -/
def OfRed (s : State) (f : Frame) (r : Red) : Prop :=
  Fresh s f ∧ s.red (rxC f) (LS.redid f.pkt.hdr) = some r ∧ (s.slot r.slot).st = .running ∧ r.epoch % 16 = LS.epoch f.pkt.hdr

/-- Does a flag of a context lie in the range of an admitted graph? -/
def FlagOwned (s : State) (c g : Nat) : Prop :=
  (s.ctx c).st = .live ∧ ∃ n < 64, ((s.slot n).st = .admitting ∨ (s.slot n).st = .running) ∧ (s.slot n).ctx.toNat = c ∧ (s.slot n).admitted = true
    ∧ (s.slot n).range.1 ≤ g ∧ g < (s.slot n).range.1 + (s.slot n).range.2

end Sys2Proof.Stated

/-- DATA of a reduction is taken in its epoch only (R364, R325, R327): 1 to 8 epochs behind it is acknowledged and discarded; of a
reduction not open here, or of a later epoch, it stays unacknowledged and nothing but the acknowledgement it carries happens. -/
def Obligations.EpochsSortReductionPackets : Prop :=
  ∀ (f : Frame) (c : Instr) (s : State), c ∈ reductionCommands f → Fresh s f →
    (s.red (rxC f) (LS.redid f.pkt.hdr) = none → exec c s = .next (arrives s f))
    ∧ (∀ r, s.red (rxC f) (LS.redid f.pkt.hdr) = some r → (s.slot r.slot).st = .running → let behind := (r.epoch + 16 - LS.epoch f.pkt.hdr) % 16
        (1 ≤ behind ∧ behind ≤ 8 → exec c s = .next (taken (arrives s f) f)) ∧ (8 < behind → exec c s = .next (arrives s f)))
    ∧ (∀ r, s.red (rxC f) (LS.redid f.pkt.hdr) = some r → (s.slot r.slot).st ≠ .running → exec c s = .next (arrives s f))

/-- RAISE (R284, R363) raises a flag in an admitted graph's range and is counted elsewhere; CLIMB (R92) records its block once;
GRANT (R346) opens a chunk's reports, or a piece, whose outbound partials then leave; a SHARE_END (R349) is recorded with its count and ledger in
place of an earlier one of its member. -/
def Sys2Proof.Stated.ChunkSignalsAct : Prop :=
  (∀ (f : Frame) (s : State), Fresh s f → sigKind f.pkt = some 1 →
    (FlagOwned s (rxC f) (rxChunk f) →
      exec (.raise f) s = .next (taken ((arrives s f).setCtx (rxC f) { s.ctx (rxC f) with flags := sins (s.ctx (rxC f)).flags (rxChunk f) }) f))
    ∧ (¬FlagOwned s (rxC f) (rxChunk f) →
      exec (.raise f) s = .next (taken ((arrives s f).setCtx (rxC f) { s.ctx (rxC f) with dropRaise := bump (s.ctx (rxC f)).dropRaise }) f)))
  ∧ (∀ (f : Frame) (r : Red) (s : State), OfRed s f r →
    (sigKind f.pkt = some 2 → let b := rxChunk f * r.chunkN / 32 + sigCount f.pkt
      exec (.climb f) s = .next (taken ((arrives s f).setRed (if b ∈ r.climbed then r else { r with climbed := r.climbed ++ [b] })) f))
    ∧ (sigKind f.pkt = some 4 → LS.redid f.pkt.hdr ≠ 0 → sigPiece f.pkt = 0xFFFF →
      exec (.grant f) s = .next (taken ((arrives s f).setRed { r with grantA := sins r.grantA (rxChunk f) }) f))
    ∧ (sigKind f.pkt = some 4 → LS.redid f.pkt.hdr ≠ 0 → sigPiece f.pkt ≠ 0xFFFF →
      let g := { r with grantP := sins r.grantP (rxChunk f * 65536 + sigPiece f.pkt) }
      ∃ t, (t = (arrives s f).flushPiece g (r.enter (rxChunk f)) (rxChunk f) (sigPiece f.pkt))
        ∧ (r.outOf (rxChunk f) (sigPiece f.pkt) = [] → t = (arrives s f, g))
        ∧ exec (.grant f) s = .next (taken (t.1.setRed t.2) f))
    ∧ (sigKind f.pkt = some 3 → LS.redid f.pkt.hdr ≠ 0 → rxChunk f ∈ r.done → exec (.shareEnd f) s = .next (taken (arrives s f) f))
    ∧ (∀ m q, sigKind f.pkt = some 3 → LS.redid f.pkt.hdr ≠ 0 → rxChunk f ∉ r.done → memberOf r.ranks (rxR f) = some m →
      r.piece (rxChunk f) (sigPiece f.pkt) (grpStageOf r.grp m r.self) = some q → sigDigest f.pkt = s.homeDigest r q.chunk q.idx →
      exec (.shareEnd f) s = .next (taken ((arrives s f).setRed (r.setPiece { q with ends := q.ends.filter (fun x => x.member ≠ m)
        ++ [{ member := m, count := sigCount f.pkt, digest := sigDigest f.pkt, ledger := LS.ledger f.pkt.hdr }] })) f)))

/-- A SHARE_END whose mask digest differs from the home's (R349) is recorded, counted on the piece's Tidepool partition and logged, and the
attempt fails (R232; that it does is the model's reading, log 71). -/
def Sys2Proof.Stated.DigestMismatchesAreCounted : Prop :=
  ∀ (f : Frame) (r : Red) (m : Nat) (q : Piece) (s : State), OfRed s f r → sigKind f.pkt = some 3 → LS.redid f.pkt.hdr ≠ 0 → rxChunk f ∉ r.done →
    memberOf r.ranks (rxR f) = some m → r.piece (rxChunk f) (sigPiece f.pkt) (grpStageOf r.grp m r.self) = some q → Entered s (rxC f) (rxR f) →
    sigDigest f.pkt ≠ s.homeDigest r q.chunk q.idx → let part : Fin 2 := ⟨(q.chunk + q.idx) % 2, by omega⟩
    Runs (.shareEnd f) s fun t => t.tdp = s.tdp.set part { s.tdp[part] with digestmm := bump s.tdp[part].digestmm }
      ∧ t.wrk.seq = s.wrk.seq + 1
      ∧ (∃ r' q', t.red (rxC f) (LS.redid f.pkt.hdr) = some r' ∧ r'.piece q.chunk q.idx q.stage = some q'
          ∧ m ∈ q'.mismatch ∧ (m ∈ r.feeds q.stage → t.pieceComplete r' q' = false))
      ∧ (t.slot r.slot).att.replayBit = true ∧ (t.slot r.slot).stopped = true
      ∧ Only (.tdp :: .slots :: Sent) s t

/-- RAISE, CLIMB, GRANT and SHARE_END act; a mask digest that differs is counted: the statements `ChunkSignalsAct` and
`DigestMismatchesAreCounted` together. -/
def Obligations.ChunkSignalsActAndMasksAgree : Prop := Stated.ChunkSignalsAct ∧ Stated.DigestMismatchesAreCounted

/-- Contributions (R349, R355, R360, R382): the words of a verified packet are added into the claimed piece, those of padding and of rows the
home's mask drops are not, the packet is counted with its ledger; a malformed payload poisons its piece's blocks and is counted; a first
ledger difference is counted and left unacknowledged, a second on the same number fails the attempt. -/
def Obligations.ContributionsReachTheirPiece : Prop :=
  ∀ (f : Frame) (r : Red) (m : Nat) (q : Piece) (s : State), OfRed s f r → LS.tc f.pkt.hdr = 2 → LS.pfmt f.pkt.hdr ≠ 1 → rxChunk f ∉ r.done →
    memberOf r.ranks (rxR f) = some m →
    r.piece (rxChunk f) (LS.offset f.pkt.hdr / (if LS.pfmt f.pkt.hdr = 5 then 32 else 16) / r.pieceN) (grpStageOf r.grp m r.self) = some q →
    q.claimed = true → q.drained = false →
    let at' (i : Nat) := q.chunk * r.chunkN + i
    let keeps (i : Nat) := r.padding (s.redOut r) (at' i) = false ∧ (q.stage + 1 = r.stages → s.redKeeps r (r.rowOf (s.redOut r) (at' i)) = true)
    (∀ l, contribWords f.pkt = some l →
      (if LS.pfmt f.pkt.hdr = 5 then 0 else s.redLedger r (l.map fun x => (rxChunk f * r.chunkN + x.1, x.2))) = LS.ledger f.pkt.hdr →
      Runs (.lsDataRx f) s fun t => (∃ r' q', t.red (rxC f) (LS.redid f.pkt.hdr) = some r' ∧ r'.piece q.chunk q.idx q.stage = some q'
          ∧ tget 0 q'.got m = tget 0 q.got m + 1 ∧ tget 0 q'.led m = (tget 0 q.led m + LS.ledger f.pkt.hdr) % ledM
          ∧ (∀ x ∈ l, keeps x.1 → tget 0 q'.acc x.1 = (if s.redCmp r = 0 then ((Sk.of (tget 0 q.acc x.1)).add (Sk.of x.2)).toW
              else (Cmp.comb (decide (s.redCmp r = 2)) (Cmp.of (tget 0 q.acc x.1)) (Cmp.of x.2)).toW))
          ∧ (∀ i, (¬keeps i ∨ ∀ x ∈ l, x.1 ≠ i) → tget 0 q'.acc i = tget 0 q.acc i)
          ∧ (LS.poison f.pkt.hdr = true → ∀ x ∈ l, at' x.1 / 32 ∈ q'.poison) ∧ (LS.poison f.pkt.hdr = false → q'.poison = q.poison)
          ∧ (∀ i, q'.ends = q.ends ∧ tget 0 q'.got i = (if i = m then tget 0 q.got m + 1 else tget 0 q.got i)))
        ∧ ((∀ x ∈ l, keeps x.1) → t.tdp = s.tdp) ∧ Only (.tdp :: Sent) s t)
    ∧ (contribWords f.pkt = none → Runs (.lsDataRx f) s fun t => t.fab.poisonedPay = bump s.fab.poisonedPay
        ∧ (∃ r' q', t.red (rxC f) (LS.redid f.pkt.hdr) = some r' ∧ r'.piece q.chunk q.idx q.stage = some q' ∧ q'.acc = q.acc
          ∧ tget 0 q'.got m = tget 0 q.got m + 1
          ∧ (∀ b, at' (LS.offset f.pkt.hdr / (if LS.pfmt f.pkt.hdr = 5 then 32 else 16)) / 32 ≤ b →
              b ≤ at' ((r.span q.idx q.chunk).1 + (r.span q.idx q.chunk).2 - 1) / 32 → b ∈ q'.poison))
        ∧ Only Sent s t)
    ∧ (∀ l, contribWords f.pkt = some l →
      (if LS.pfmt f.pkt.hdr = 5 then 0 else s.redLedger r (l.map fun x => (rxChunk f * r.chunkN + x.1, x.2))) ≠ LS.ledger f.pkt.hdr →
      ∀ x, x = (arrives s f).stream (rxC f) (rxR f) 2 →
        (LS.seq f.pkt.hdr ∉ x.badSeq → exec (.lsDataRx f) s = .next (((arrives s f).drop 8).setStream { x with badSeq := x.badSeq ++ [LS.seq f.pkt.hdr] }))
        ∧ (LS.seq f.pkt.hdr ∈ x.badSeq → Runs (.lsDataRx f) s fun t => (t.slot r.slot).att.replayBit = true ∧ (t.slot r.slot).stopped = true
            ∧ tget 0 t.fab.drops 8 = tget 0 s.fab.drops 8 + 1))


/-! ### Agreement, ends and drains of reductions (spec/03, spec/07, spec/13, spec/14) -/

/-- ANCHOR_REPORT (R82, R211, R353, R362): of the members that report to this one it keeps the largest report of each block, and once all are
whole the home's agreed words are those maxima, while another member reports the maxima in its turn; sounding reports of query rows alike.
AGREED_ANCHOR: a member takes the agreed words of a chunk from the member it reports to, and from nobody else. -/
def Obligations.AgreementTakesTheMaximum : Prop :=
  ∀ (f : Frame) (r : Red) (m : Nat) (s : State), OfRed s f r → agreePkt f.pkt = true →
    memberOf r.ranks (rxR f) = some m → let ch := rxChunk f; let blks := r.chunkBlocks ch
    (m ∈ r.down ch → LS.last f.pkt.hdr = false →
      let whole := blks.length ≤ tget 0 r.arrived ((2 ^ 20 + m) * 2 ^ 20 + ch) + f.pkt.payload.length / 2
      let allIn := ∀ q ∈ r.self :: r.down ch, (q, ch) ∈ r.reports ∨ (q = m ∧ whole)
      Runs (.anchorReport f) s fun t => ∃ r', t.red (rxC f) (LS.redid f.pkt.hdr) = some r'
        ∧ (∀ k < f.pkt.payload.length / 2, ∀ b, blks[LS.offset f.pkt.hdr / 2 + k]? = some b → let v := ofLE ((f.pkt.payload.drop (2 * k)).take 2)
            tget (-40000) r'.repMax b = (if v = 0x8000 then tget (-40000) r.repMax b else max (tget (-40000) r.repMax b) (sext v 16)))
        ∧ (∀ b, b ∉ blks → tget (-40000) r'.repMax b = tget (-40000) r.repMax b)
        ∧ (r.home ch = r.self → allIn → ∀ b ∈ blks,
            (b, if tget (-40000) r'.repMax b = -40000 then 0 else max (-32768) (min 32767 (tget (-40000) r'.repMax b))) ∈ r'.agreed)
        ∧ (¬allIn ∨ r.home ch ≠ r.self → r'.agreed = r.agreed)
        ∧ (allIn → r.home ch ≠ r.self → t = taken (((arrives s f).setRed r').lsSendAll r.ctx (nth 0 r.ranks (r.up ch))
            ((arrives s f).anchorMsgs r' ch (blks.map fun b => if tget (-40000) r'.repMax b = -40000 then none else some (tget (-40000) r'.repMax b)))) f)
        ∧ Only Sent s t)
    ∧ (m ∈ r.down ch → LS.last f.pkt.hdr = true →
      let rows := r.attnRows ch
      let whole := rows.length ≤ tget 0 r.arrived ((2 * 2 ^ 20 + m) * 2 ^ 20 + ch) + f.pkt.payload.length / 8
      let allIn := ∀ q ∈ r.self :: r.down ch, (q, ch) ∈ r.soundRep ∨ (q = m ∧ whole)
      Runs (.anchorReport f) s fun t => ∃ r', t.red (rxC f) (LS.redid f.pkt.hdr) = some r'
        ∧ (∀ k < f.pkt.payload.length / 8, ∀ b, rows[LS.offset f.pkt.hdr / 8 + k]? = some b →
            tget soundNone r'.soundMax b = max (tget soundNone r.soundMax b) (sext (ofLE ((f.pkt.payload.drop (8 * k)).take 8)) 64))
        ∧ (r.home ch = r.self → allIn → ∀ b ∈ rows, (b, tget soundNone r'.soundMax b) ∈ r'.mhat)
        ∧ (¬allIn ∨ r.home ch ≠ r.self → r'.mhat = r.mhat)
        ∧ Only Sent s t)
    ∧ (m ∉ r.down ch → exec (.anchorReport f) s = .next (taken (arrives s f) f))
    ∧ (r.home ch ≠ r.self → m = r.up ch → LS.last f.pkt.hdr = false →
      Runs (.agreedAnchor f) s fun t => (∃ r', t.red (rxC f) (LS.redid f.pkt.hdr) = some r'
        ∧ (∀ k < f.pkt.payload.length / 2, ∀ b, blks[LS.offset f.pkt.hdr / 2 + k]? = some b →
            (b, sext (ofLE ((f.pkt.payload.drop (2 * k)).take 2)) 16) ∈ r'.agreed)
        ∧ (∀ x ∈ r'.agreed, x ∈ r.agreed ∨ x.1 ∈ blks) ∧ (∀ x ∈ r.agreed, x.1 ∉ blks → x ∈ r'.agreed) ∧ r'.mhat = r.mhat)
        ∧ Only Sent s t)
    ∧ (r.home ch ≠ r.self → m = r.up ch → LS.last f.pkt.hdr = true →
      Runs (.agreedAnchor f) s fun t => (∃ r', t.red (rxC f) (LS.redid f.pkt.hdr) = some r'
        ∧ (∀ k < f.pkt.payload.length / 8, ∀ b, (r.attnRows ch)[LS.offset f.pkt.hdr / 8 + k]? = some b →
            (b, sext (ofLE ((f.pkt.payload.drop (8 * k)).take 8)) 64) ∈ r'.mhat)
        ∧ r'.agreed = r.agreed) ∧ Only Sent s t)
    ∧ ((r.home ch = r.self ∨ m ≠ r.up ch) → exec (.agreedAnchor f) s = .next (taken (arrives s f) f))

/-- ANCHOR_AGREEMENT_START (R83, R362): a granted chunk is reported once, when the contributors' tags exist; in a group of one the agreed words are
this member's own. SHARE_END_SEND (R348, R93, R383, R385): once per piece and epoch, when every contributor has drained and no block of the chunk climbs: what is still outbound leaves,
the ledger joins the attempt's A, and the end is recorded here or sent to the member that gathers the piece. -/
def Obligations.MembersReportAndEndOnce : Prop :=
  (∀ (c : Fin 16) (rid ch : Nat) (r : Red) (s : State), s.red c rid = some r →
    (ch ∉ r.grantA ∨ ch ∈ r.repSent ∨ r.chunks ≤ ch ∨ s.tagsExist r = false → exec (.anchorAgreementStart c rid ch) s = .next s)
    ∧ (ch ∈ r.grantA → ch ∉ r.repSent → ch < r.chunks → s.tagsExist r = true →
      Runs (.anchorAgreementStart c rid ch) s fun t => ∃ r', t.red c rid = some r' ∧ ch ∈ r'.repSent
        ∧ (r.declared.isSome = true → r.attn = false → t = s.setRed { r with repSent := sins r.repSent ch })
        ∧ (r.declared = none → r.attn = false → r.ranks.length = 1 → r.self = 0 → r.repMax = [] →
            (∀ b ∈ r.chunkBlocks ch, ∀ g, s.localAnchor r b = some g → -32768 ≤ g) →
            ∀ b ∈ r.chunkBlocks ch, (b, anchorOf (s.localAnchor r b)) ∈ r'.agreed)
        ∧ Only Sent s t))
  ∧ (∀ (c rid ch p : Nat) (r : Red) (s : State), s.red c rid = some r → let key := ch * 65536 + p
    (s.contribDone r = false ∨ r.chunkClimbs ch = true ∨ key ∈ r.ended ∨ ch ∈ r.done ∨ r.chunks ≤ ch ∨ r.npieces ch ≤ p →
      exec (.shareEndSend c rid ch p) s = .next s)
    ∧ (s.contribDone r = true → r.chunkClimbs ch = false → key ∉ r.ended → ch ∉ r.done → ch < r.chunks → p < r.npieces ch →
      let k := r.enter ch
      let h := r.holder k (r.home ch)
      let cd := (s.slot r.slot).graph.tasks.find? fun d => TD.typ d = 0 ∧ TD.redid d = rid
      let digest (u : State × Red) : Nat := match cd with
        | some d => u.1.maskDigest u.2 (u.1.tensor c (TD.tref d 4)) (TD.maskMode d) ch p
        | none => u.1.homeDigest u.2 ch p
      ∀ (u : State × Red) (led : Nat) (x : State), u = s.flushPiece r k ch p → led = tget 0 u.2.sentL key →
        x = u.1.setSlot r.slot { u.1.slot r.slot with att := { (u.1.slot r.slot).att with ledA := ((u.1.slot r.slot).att.ledA + led) % ledM } } →
        (h ≠ r.self → key ∉ r.grantP → exec (.shareEndSend c rid ch p) s = .next s)
        ∧ (h ≠ r.self → key ∈ r.grantP → exec (.shareEndSend c rid ch p) s = .next ((x.setRed { u.2 with ended := u.2.ended ++ [key] }).lsSend c (nth 0 r.ranks h)
            (signalMsg 3 rid ch p (tget 0 u.2.sentN key) (digest u) r.epoch led)))
        ∧ (∀ q, h = r.self → u.2.piece ch p k = some q → digest u = u.1.homeDigest u.2 ch p →
            exec (.shareEndSend c rid ch p) s = .next (x.setRed (Red.setPiece { u.2 with ended := u.2.ended ++ [key] }
              { q with led := tset 0 q.led r.self led, ends := q.ends.filter (fun e => e.member ≠ r.self)
                  ++ [{ member := r.self, count := 0, digest := u.1.homeDigest u.2 ch p, ledger := led }] })))))

/-- PIECE_DRAIN (R349, R350, R351, R383, R385): an incomplete piece stays; a complete one whose ledgers agree drains into the output, frees its
area, makes the next piece but one due, counts in the attempt's totals and, the last of its chunk, raises the chunk's flag; one whose
ledgers disagree makes the attempt fail as replayable. -/
def Obligations.PiecesDrainWhenWhole : Prop :=
  ∀ (c rid ch p : Nat) (r : Red) (s : State), s.red c rid = some r →
    (r.pieces.find? (fun q => q.chunk = ch && q.idx = p && q.claimed && !q.drained && s.pieceComplete r q) = none → exec (.pieceDrain c rid ch p) s = .next s)
    ∧ (∀ q, r.pieces.find? (fun q => q.chunk = ch && q.idx = p && q.claimed && !q.drained && s.pieceComplete r q) = some q →
      let led := s.redLedger r (q.acc.map fun x => (ch * r.chunkN + x.1, x.2))
      let good := r.cmp = true ∨ ((∀ e ∈ q.ends, tget 0 q.led e.member = e.ledger) ∧ (q.pre + sumN (q.ends.map fun e => e.ledger)) % ledM = led)
      (good → q.stage + 1 = r.stages → r.attn = false → (s.slot r.slot).st = .running →
        Runs (.pieceDrain c rid ch p) s fun t => (∃ r', t.red c rid = some r'
            ∧ (∃ q', r'.piece ch p q.stage = some q' ∧ q'.drained = true ∧ q'.area = [] ∧ q'.outLed = led)
            ∧ (∀ y ∈ r'.pieces, y.chunk = ch → y.idx = p + 2 → y.stage = q.stage → y.due = true)
            ∧ ((∀ y ∈ r.pieces, y.chunk = ch → r.stages ≤ y.stage + 1 → y.drained = true ∨ (y.idx = p ∧ y.stage = q.stage)) → ch ∈ r'.done))
          ∧ ((∀ y ∈ r.pieces, y.chunk = ch → r.stages ≤ y.stage + 1 → y.drained = true ∨ (y.idx = p ∧ y.stage = q.stage)) → FlagOwned s c (s.chunkFlag r ch) →
              s.chunkFlag r ch ∈ (t.ctx c).flags)
          ∧ t.mem = (s.drainPiece r q).mem
          ∧ (t.slot r.slot).att.ledH = ((s.slot r.slot).att.ledH + led) % ledM ∧ (t.slot r.slot).att.ledA = ((s.slot r.slot).att.ledA + q.pre) % ledM
          ∧ Only (.mem :: .poison :: .pager :: .slots :: .ctxs :: .tdp :: Sent) s t)
      ∧ (good → q.stage + 1 < r.stages → Runs (.pieceDrain c rid ch p) s fun t => (∃ r' q', t.red c rid = some r' ∧ r'.piece ch p q.stage = some q' ∧ q'.drained = true)
          ∧ Only (.tdp :: Sent) s t)
      ∧ (¬good → (s.slot r.slot).st = .running → Runs (.pieceDrain c rid ch p) s fun t => (t.slot r.slot).att.replayBit = true ∧ (t.slot r.slot).stopped = true
          ∧ (∀ i < (s.slot r.slot).tasks.length, TD.typ ((s.slot r.slot).desc i) ≠ 7 → ((t.slot r.slot).task i).finished = true)))

/-- EPOCH_END (R91 to R93, R364): a reduction with climbing blocks whose contributors have drained begins its next epoch: each of those
blocks rises once by 16, the sums of the chunks whose flags have not risen are cleared, and its contributor tasks run again; the tasks of a
reduction that no REDUCE task gathers, once all their segments have ended, repeat together, each climb logged; without a climb nothing happens. -/
def Obligations.ClimbsRepeatTheReduction : Prop :=
  (∀ (n i : Nat) (r : Red) (s : State), (s.slot n).st = .running → i < (s.slot n).tasks.length → TD.typ ((s.slot n).desc i) = 5 →
    s.fab.reds.find? (fun r => r.slot = n ∧ r.task = i ∧ !r.isGather) = some r →
    (r.climbed = [] ∨ s.contribDone r = false → exec (.epochEnd n i) s = .next s)
    ∧ (r.climbed ≠ [] → r.climbed.Nodup → s.contribDone r = true → s.red r.ctx r.redid = some r →
        TD.premem ((s.slot n).desc i) ≠ 0xFFFFF →
      Runs (.epochEnd n i) s fun t => (∃ r', t.red r.ctx r.redid = some r' ∧ r'.epoch = r.epoch + 1 ∧ r'.climbed = [] ∧ r'.done = r.done
          ∧ (∀ b, tget 0 r'.rises b = tget 0 r.rises b + (if b ∈ r.climbed then 1 else 0))
          ∧ (∀ b ∈ r.climbed, r.anchor b ≤ 32751 → r'.anchor b = r.anchor b + 16) ∧ (∀ b, b ∉ r.climbed → r'.anchor b = r.anchor b)
          ∧ (∀ q ∈ r'.pieces, q.chunk ∉ r.done → q.acc = [] ∧ q.ends = [] ∧ q.got = [] ∧ q.drained = false) ∧ r'.pieces.length = r.pieces.length
          ∧ (∀ k ∈ r'.ended, k / 65536 ∈ r.done))
        ∧ (∀ j < (s.slot n).tasks.length, TD.typ ((s.slot n).desc j) ≤ 1 → TD.redid ((s.slot n).desc j) = r.redid →
            ((t.slot n).task j).next = 0 ∧ ((t.slot n).task j).segdone = 0 ∧ ((t.slot n).task j).finished = false)
        ∧ Only (.slots :: .ctxs :: Sent) s t))
  ∧ (∀ (n i : Nat) (s : State), (s.slot n).st = .running → i < (s.slot n).tasks.length → TD.typ ((s.slot n).desc i) ≤ 1 →
    let task (j : Nat) := (s.slot n).task j
    let doneAll (j : Nat) : Prop := (task j).running = [] ∧ (task j).wb = 0 ∧ (task j).segdone = TD.segments ((s.slot n).desc j)
    ((∃ j ∈ s.mates n i, ¬doneAll j) ∨ (∀ j ∈ s.mates n i, (task j).climbs = []) → exec (.epochEnd n i) s = .next s)
    ∧ ((∀ j ∈ s.mates n i, doneAll j) → (∃ j ∈ s.mates n i, (task j).climbs ≠ []) → Runs (.epochEnd n i) s fun t =>
        (∀ j ∈ s.mates n i, let u := (t.slot n).task j
          u.climbs = [] ∧ u.next = 0 ∧ u.segdone = 0 ∧ u.finished = false ∧ u.epoch = (task j).epoch + 1
          ∧ ∀ b, tget 0 u.rises b = tget 0 (task j).rises b + (if ∃ k ∈ s.mates n i, b ∈ (task k).climbs then 1 else 0))
        ∧ (∀ j < (s.slot n).tasks.length, j ∉ s.mates n i → (t.slot n).task j = task j)
        ∧ (∀ m, m ≠ n → t.slot m = s.slot m)
        ∧ t.wrk.seq = s.wrk.seq + BitVec.ofNat 32 ((s.mates n i).flatMap fun j => (task j).climbs).eraseDups.length
        ∧ Only (.slots :: .wrk :: .fresh :: Raised) s t))


/-! ### Gathers, transfers and pages (spec/11, spec/13, spec/14) -/

/-- LS_DATA_RX of bytes (R351, R365, R384): a part of a gathered chunk is written into the output and counted, the whole chunk raises its flag;
a part of a transfer is written into the receiving window and counted. SHARE_END and GRANT of a transfer tell its packet count and let the window
leave. COLL_TASK_COMPLETE of a transfer ends it when every counted packet has arrived, or every packet sent has been acknowledged. -/
def Obligations.GathersAndTransfersLand : Prop :=
  (∀ (f : Frame) (r : Red) (ch : Nat) (s : State), Fresh s f → LS.tc f.pkt.hdr = 2 → LS.pfmt f.pkt.hdr = 1 →
    s.gatherRed (rxC f) (LS.redid f.pkt.hdr) (rxChunk f) = some (r, ch) → (s.slot r.slot).st = .running → ch ∉ r.done → ch < r.chunks →
    ledger (s.ctx r.ctx).cfg.seed.toNat (s.slot r.slot).step.toNat (s.redOut r).tid (bytes8 (LS.offset f.pkt.hdr / 8) f.pkt.payload) = LS.ledger f.pkt.hdr →
    let n := tget 0 r.arrived ch + f.pkt.payload.length
    let whole := (r.blocksOf (s.redOut r) ch).length * (s.redOut r).blockLen ≤ n
    Runs (.lsDataRx f) s fun t =>
      (∃ r' ∈ t.fab.reds, r'.slot = r.slot ∧ r'.task = r.task ∧ tget 0 r'.arrived ch = n ∧ (ch ∈ r'.done ↔ whole))
      ∧ (whole → FlagOwned s (rxC f) (s.chunkFlag r ch) → s.chunkFlag r ch ∈ (t.ctx (rxC f)).flags)
      ∧ t.mem = ((arrives s f).putStream (s.redOut r) (r.blocksOf (s.redOut r) ch) (0, (s.redOut r).e0) (LS.offset f.pkt.hdr) f.pkt.payload
          (LS.poison f.pkt.hdr)).mem
      ∧ (t.slots = s.slots ∨ (whole ∧ (s.redOut r).grad = true)) ∧ Only (.ctxs :: .slots :: .mem :: .poison :: .pager :: Sent) s t)
  ∧ (∀ (f : Frame) (x : P2P) (tr : TRec) (blocks : List (Nat × Nat)) (cols : Nat × Nat) (s : State), Fresh s f → LS.tc f.pkt.hdr = 3 →
    s.fab.p2p.find? (fun y => y.ctx = rxC f ∧ y.peer = rxR f ∧ y.tag = rxChunk f ∧ y.recv) = some x → s.p2pBlocks x.slot x.task = some (tr, blocks, cols) →
    ledger (s.ctx x.ctx).cfg.seed.toNat (s.slot x.slot).step.toNat tr.tid (bytes8 (LS.offset f.pkt.hdr / 8) f.pkt.payload) = LS.ledger f.pkt.hdr →
    ∀ w, w = (arrives s f).putWindow x tr blocks cols (LS.offset f.pkt.hdr) f.pkt.payload (LS.poison f.pkt.hdr) → Runs (.lsDataRx f) s fun t =>
      t.fab.p2p = s.fab.p2p.map (fun y => if y.slot = x.slot ∧ y.task = x.task ∧ y.peer = x.peer ∧ y.tag = x.tag ∧ y.recv = x.recv then
        { x with packets := x.packets + 1, bytes := x.bytes + f.pkt.payload.length, buf := w.2.buf } else y)
      ∧ t.mem = w.1.mem ∧ (tr.selv = false → w.2 = x) ∧ Only (.mem :: .poison :: .pager :: Sent) s t)
  ∧ (∀ (f : Frame) (x : P2P) (s : State), Fresh s f → sigKind f.pkt = some 3 → LS.redid f.pkt.hdr = 0 →
    s.fab.p2p.find? (fun y => y.ctx = rxC f ∧ y.peer = rxR f ∧ y.tag = rxChunk f ∧ y.recv) = some x →
    exec (.shareEnd f) s = .next (taken ((arrives s f).setP2P { x with total := some (sigCount f.pkt) }) f))
  ∧ (∀ (f : Frame) (s : State), Fresh s f → sigKind f.pkt = some 4 → LS.redid f.pkt.hdr = 0 →
    (s.fab.p2p.find? (fun y => y.ctx = rxC f ∧ y.peer = rxR f ∧ y.tag = rxChunk f ∧ !y.recv) = none → Runs (.grant f) s fun t =>
      t.fab.p2p = s.fab.p2p ++ [{ ctx := rxC f, slot := 64, task := 0, peer := rxR f, tag := rxChunk f, recv := false, granted := true }]
      ∧ Only Sent s t)
    ∧ (∀ x, s.fab.p2p.find? (fun y => y.ctx = rxC f ∧ y.peer = rxR f ∧ y.tag = rxChunk f ∧ !y.recv) = some x → x.granted = false → Runs (.grant f) s fun t =>
      t.fab.p2p = s.fab.p2p.map (fun y => if y.slot = x.slot ∧ y.task = x.task ∧ y.peer = x.peer ∧ y.tag = x.tag ∧ y.recv = x.recv then
        { x with granted := true, sentAll := true } else y)
      ∧ Only Sent s t))

/-- PAGE_DATA (R307): a lender with room takes the parts of an evicted page and answers a request with the page it holds; an owner
collects the parts of a recalled page until the last, which brings the checksum, makes the page whole. -/
def Sys2Proof.Stated.PagesTravelInParts : Prop :=
  ∀ (f : Frame) (s : State), Fresh s f → LS.tc f.pkt.hdr = 5 →
    let mine (l : Lent) : Prop := l.ctx = rxC f ∧ l.rank = rxR f ∧ l.page = rxChunk f
    (LS.redid f.pkt.hdr = 0 → (∀ l ∈ s.pager.lent, ¬mine l) → s.pager.reserve.toNat ≤ s.pager.lent.length → exec (.pageData f) s = .next (arrives s f))
    ∧ (LS.redid f.pkt.hdr = 0 → (∀ l ∈ s.pager.lent, ¬mine l) → s.pager.lent.length < s.pager.reserve.toNat → LS.last f.pkt.hdr = false →
      Runs (.pageData f) s fun t => (∃ (d : Nat) (l : Lent), d < 2 ∧ t.pager = { s.pager with lent := s.pager.lent ++ [l] }
          ∧ l = { rank := rxR f, ctx := rxC f, gen := (s.peer (rxC f) (rxR f)).gen, page := rxChunk f, die := d, parts := [(LS.offset f.pkt.hdr, f.pkt.payload)] }) ∧ Only (.pager :: Sent) s t)
    ∧ (∀ l, LS.redid f.pkt.hdr = 1 →
      s.pager.lent.find? (fun l => l.ctx = rxC f && l.rank = rxR f && l.page = rxChunk f) = some l →
      exec (.pageData f) s = .next (taken ((arrives s f).lsSendAll (rxC f) (rxR f) ((arrives s f).pageMsgs 2 l.page l.parts (l.sum.getD 0))) f))
    ∧ (∀ g, 2 ≤ LS.redid f.pkt.hdr → (∀ x ∈ g.parts, x.1 < 2 ^ 21) → LS.last f.pkt.hdr = false → LS.offset f.pkt.hdr < 2 ^ 21 →
      s.pager.far.find? (fun g => g.ctx = rxC f && g.page = rxChunk f && g.lender = some (rxR f) && g.recalling) = some g →
      exec (.pageData f) s = .next (taken ((arrives s f).setFar { g with parts := g.parts ++ [(LS.offset f.pkt.hdr, f.pkt.payload)] }) f))
    ∧ (∀ g, 2 ≤ LS.redid f.pkt.hdr → (∀ x ∈ g.parts, x.1 < 2 ^ 21) → partsLen g.parts = 2 ^ 21 → LS.last f.pkt.hdr = true →
      s.pager.far.find? (fun g => g.ctx = rxC f && g.page = rxChunk f && g.lender = some (rxR f) && g.recalling) = some g →
      Runs (.pageData f) s fun t => (t.frameOf g.num).isSome = true
        ∧ (BitVec.ofNat 64 (ofLE f.pkt.payload) = g.sum → Config.pageSum (partsPage g.parts) = g.sum →
            t.poison = s.poison ∧ (∀ i < 2 ^ 21, tget 0 t.mem (g.num * 2 ^ 21 + i) = nth 0 (partsPage g.parts) i)
            ∧ (∀ a, a < g.num * 2 ^ 21 ∨ (g.num + 1) * 2 ^ 21 ≤ a → tget 0 t.mem a = tget 0 s.mem a))
        ∧ (BitVec.ofNat 64 (ofLE f.pkt.payload) ≠ g.sum → (∀ b < 2 ^ 15, g.num * 2 ^ 15 + b ∈ t.poison) ∧ (∀ x ∈ t.pager.far, x.num ≠ g.num)
            ∧ t.mem = s.mem ∧ (Entered s (rxC f) (rxR f) → t.wrk.seq = s.wrk.seq + 1))
        ∧ Only (.pager :: .mem :: .poison :: Sent) s t)

/-- PAGE_EVICT (R306, R307), PAGE_RECALL (R305, R307), HOST_SPILL_REGION_UNREACHABLE (R308): a page leaves its frame, its contents kept,
when fewer than four are free and there is room; a far page comes back into a frame, or poisoned, or is asked for; the pages in a host
region that is gone are lost and poisoned. -/
def Sys2Proof.Stated.PagesLeaveAndReturn : Prop :=
  ∀ (c : Fin 16) (s : State),
    (∀ lender, ((s.ctx c).st ≠ .live ∨ (s.residentPages c).length + 4 ≤ (s.ctx c).cfg.hbmQ.toNat ∨ (s.ctx c).cfg.spillQ.toNat ≤ (s.farPages c).length) →
      exec (.pageEvict c lender) s = .next s)
    ∧ (∀ lender p, (s.ctx c).st = .live → (s.ctx c).cfg.hbmQ.toNat < (s.residentPages c).length + 4 → (s.farPages c).length < (s.ctx c).cfg.spillQ.toNat →
      (∀ r, lender = some r → r ∈ (s.ctx c).cfg.lenders) → (lender = none → ((s.farPages c).filter fun f => f.lender.isNone).length < (s.ctx c).cfg.hostPages.toNat) →
      s.victim c = some p → Runs (.pageEvict c lender) s fun t => t.frameOf p = none ∧ (∀ q, q ≠ p → t.frameOf q = s.frameOf q)
        ∧ (∃ g ∈ t.pager.far, g.num = p ∧ g.resident = false ∧ g.data = s.pageCells p)
        ∧ ((∃ g ∈ s.pager.far, g.num = p ∧ g.resident = true ∧ g.data = s.pageCells p) → t.wire = s.wire ∧ t.out = s.out)
        ∧ ((∀ g ∈ s.pager.far, g.num ≠ p) → (∃ g ∈ t.pager.far, g.num = p ∧ g.lender = lender ∧ g.sum = Config.pageSum (s.pageBytes p))
            ∧ (lender = none → t.out = s.out ++ [.spill c (((s.pageTensor p).map (·.tid)).getD 0) (p % 2 ^ 19) (s.pageBytes p)]))
        ∧ Only (.pager :: Sent) s t)
    ∧ (((s.ctx c).st ≠ .live ∨ (s.ctx c).cfg.hbmQ.toNat ≤ (s.residentPages c).length ∨ (∀ g ∈ s.farPages c, s.nextUse c g.num = none)) →
      exec (.pageRecall c) s = .next s)
    ∧ ((s.ctx c).st = .live → (s.residentPages c).length < (s.ctx c).cfg.hbmQ.toNat → (∃ g ∈ s.farPages c, g.recalling = false ∧ s.nextUse c g.num ≠ none) →
      Runs (.pageRecall c) s fun t => ∃ g ∈ s.farPages c, ∃ k, s.nextUse c g.num = some k
        ∧ (∀ y ∈ s.farPages c, y.recalling = false → ∀ j, s.nextUse c y.num = some j → k ≤ j)
        ∧ (g.lender.isSome = true → (∃ g' ∈ t.pager.far, g'.num = g.num ∧ g'.recalling = true) ∧ t.pager.frames = s.pager.frames ∧ t.poison = s.poison)
        ∧ (g.lender = none → (t.frameOf g.num).isSome = true ∧ (t.poison = s.poison ∨ ∀ b < 2 ^ 15, g.num * 2 ^ 15 + b ∈ t.poison))
        ∧ Only (.pager :: .poison :: Sent) s t)
    ∧ Runs (.hostSpillRegionUnreachable c) s (fun t => (∀ g ∈ t.pager.far, ¬(g.ctx = c ∧ g.lender = none))
        ∧ (∀ g ∈ s.farPages c, g.lender = none → ∀ b < 2 ^ 15, g.num * 2 ^ 15 + b ∈ t.poison)
        ∧ ((∀ g ∈ s.pager.far, ¬(g.ctx = c ∧ g.lender = none)) → t = s) ∧ Only (.pager :: .poison :: .wrk :: .fresh :: Raised) s t)

/-- Pages leave their frames, travel in parts and come back: the statements `PagesTravelInParts` and `PagesLeaveAndReturn`
together. -/
def Obligations.PagesLeaveTravelAndReturn : Prop := Stated.PagesTravelInParts ∧ Stated.PagesLeaveAndReturn

/-- UNCORRECTABLE_ERROR (R309, R130) and PATROL_SCRUB (R309): the block hit is poisoned, or a block of the piece; an HBM frame
so hit, or with more corrected errors than the threshold, is retired, to a spare frame while there is one, and as a wear event after. An error
inside a panel is kept with the line, the Skein, the entry or the record and faults nothing until it is read. -/
def Obligations.MemoryErrorsPoisonAndRetire : Prop :=
  (∀ (c a : Nat) (s : State), c < 16 → a < 2 ^ 40 → Runs (.uncorrectableError (.hbm c a)) s fun t =>
      memKey c a / 64 ∈ t.poison ∧ (∀ b, b ≠ memKey c a / 64 → (b ∈ t.poison ↔ b ∈ s.poison)) ∧ t.pager.retired = s.pager.retired ++ [memKey c a / 2 ^ 21]
      ∧ (s.pager.sparesUsed < Config.moduleConst 4 → t.pager.sparesUsed = s.pager.sparesUsed + 1 ∧ t.wer = s.wer)
      ∧ (Config.moduleConst 4 ≤ s.pager.sparesUsed → t.wer = { s.wer with events := bump s.wer.events })
      ∧ t.wrk.seq = s.wrk.seq + 2 ∧ Only (.poison :: .pager :: .wer :: .wrk :: .fresh :: Raised) s t)
  ∧ (∀ (p l w : Nat) (s : State), p < 32 → Runs (.uncorrectableError (.sram p l w)) s fun t =>
      tget {} (t.panel p).sram l = { tget {} (s.panel p).sram l with ecc := (tget {} (s.panel p).sram l).ecc ||| BitVec.ofNat 16 (2 ^ w) }
      ∧ (∀ k, k ≠ l → tget {} (t.panel p).sram k = tget {} (s.panel p).sram k) ∧ { t.panel p with sram := (s.panel p).sram } = s.panel p
      ∧ (∀ q, q ≠ p → t.panel q = s.panel q) ∧ Only [.panels] s t)
  ∧ (∀ (p e : Nat) (loc : MemLoc) (s : State), p < 32 → e < 16 →
      (∃ a b, loc = .skein p e a b ∨ loc = .queue p e a b ∨ loc = .bHalf p e a b ∨ loc = .anchor p e a b) → Runs (.uncorrectableError loc) s fun t =>
        (∀ r k, loc = .skein p e r k → (t.panel p).eng e = { (s.panel p).eng e with badSk := sins ((s.panel p).eng e).badSk (r % 64 * 128 + k % 128) })
        ∧ (∀ r k, loc = .anchor p e r k → (t.panel p).eng e = { (s.panel p).eng e with badAnc := sins ((s.panel p).eng e).badAnc (r % 64 * 4 + k % 4) })
        ∧ (∀ k, loc = .bHalf p e 0 k → (t.panel p).eng e = { (s.panel p).eng e with half0 := { ((s.panel p).eng e).half0 with ecc := some k } })
        ∧ (∀ h k, loc = .bHalf p e (h + 1) k → (t.panel p).eng e = { (s.panel p).eng e with half1 := { ((s.panel p).eng e).half1 with ecc := some k } })
        ∧ (∀ k x, loc = .queue p e 0 k → ((s.panel p).eng e).qa[k]? = some x →
            ((t.panel p).eng e).qa = ((s.panel p).eng e).qa.set k { x with ecc := true } ∧ { (t.panel p).eng e with qa := ((s.panel p).eng e).qa } = (s.panel p).eng e)
        ∧ (t.panel p).fault = (s.panel p).fault ∧ (∀ f, f ≠ e → (t.panel p).eng f = (s.panel p).eng f)
        ∧ (∀ q, q ≠ p → t.panel q = s.panel q) ∧ Only [.panels] s t)
  ∧ (∀ (c rid ch pc : Nat) (r : Red) (q : Piece) (s : State), s.red c rid = some r → q ∈ r.pieces → q.chunk = ch → q.idx = pc →
      Runs (.uncorrectableError (.tidepool c rid ch pc)) s fun t => (∃ r' b, t.red c rid = some r' ∧ ∀ y ∈ r'.pieces, y.chunk = ch → y.idx = pc → b ∈ y.poison)
        ∧ t.wrk.seq = s.wrk.seq + 1 ∧ Only (.fab :: .wrk :: .fresh :: Raised) s t)
  ∧ (∀ (l : List (Nat × Nat)) (bad : List Nat) (s : State), Runs (.patrolScrub l bad) s fun t =>
      (∀ b ∈ bad, b < 2 ^ 38 → b ∈ t.poison ∧ b / 2 ^ 15 ∈ t.pager.retired) ∧ (∀ b, b ∈ t.poison → b ∈ s.poison ∨ b ∈ bad)
      ∧ (∀ x ∈ l, s.pager.threshold.toNat < x.2 → x.1 ∈ t.pager.retired) ∧ Only (.poison :: .pager :: .wer :: .wrk :: .fresh :: Raised) s t)
  ∧ (∀ (p n : Nat) (s : State), tget 0 s.pager.corrected p + n ≤ s.pager.threshold.toNat → exec (.patrolScrub [(p, n)] []) s
      = .next { (if n = 0 then s else s.err 8 (p / 2 ^ 19 % 16) 0) with pager := { s.pager with corrected := tset 0 s.pager.corrected p (tget 0 s.pager.corrected p + n) } })


/-! ### Twins and adoption (spec/15) -/

/-- TWIN_DELTA (R382, R415, R416): a line whose ledger agrees goes into the shadow copy of its reserve tensor, whose shadows hold the committed
contents before the first line, or into the committed copy while a pull runs, and joins the delta's ledger; a first difference is counted and the
packet left unacknowledged. -/
def Sys2Proof.Stated.TwinLinesReachTheirCopy : Prop :=
  ∀ (f : Frame) (u : TRec) (s : State), Fresh s f → deltaPkt f.pkt false = true →
    s.tensor (rxC f) (LS.redid f.pkt.hdr % 4096 * 2 ^ 20 + rxChunk f) = some u →
    let x := s.ctx (rxC f)
    let step := if x.cfg.adState = 1 then x.cfg.adStep else (u.finStep + 1) % 2 ^ 32
    let led := lineLedger x.cfg.seed.toNat step (LS.redid f.pkt.hdr % 4096 * 2 ^ 20 + rxChunk f) (LS.offset f.pkt.hdr) f.pkt.payload
    (led ≠ LS.ledger f.pkt.hdr → LS.seq f.pkt.hdr ∉ ((arrives s f).stream (rxC f) (rxR f) 6).badSeq → Runs (.twinDelta f) s fun t =>
      tget 0 t.fab.drops 8 = tget 0 s.fab.drops 8 + 1 ∧ LS.seq f.pkt.hdr ∈ (t.stream (rxC f) (rxR f) 6).badSeq ∧ Only [.fab, .wire, .fresh] s t)
    ∧ (led = LS.ledger f.pkt.hdr → x.cfg.adState ≠ 1 → x.twinOn = true →
      exec (.twinDelta f) s = .next (taken (((arrives s f).setCtx (rxC f) { x with twinLed := (x.twinLed + led) % ledM }).store (rxC f)
        (u.shadowBase + 128 * LS.offset f.pkt.hdr) f.pkt.payload false) f))
    ∧ (led = LS.ledger f.pkt.hdr → x.cfg.adState ≠ 1 → x.twinOn = false →
      exec (.twinDelta f) s = .next (taken ((((arrives s f).twinOpen (rxC f)).setCtx (rxC f) { x with twinOn := true, twinLed := led % ledM }).store (rxC f)
        (u.shadowBase + 128 * LS.offset f.pkt.hdr) f.pkt.payload false) f))
    ∧ (led = LS.ledger f.pkt.hdr → x.cfg.adState = 1 →
      exec (.twinDelta f) s = .next (taken (((arrives s f).setCtx (rxC f) { x with twinOn := true, twinLed := ((if x.twinOn then x.twinLed else 0) + led) % ledM }).store (rxC f)
        (u.base + 128 * LS.offset f.pkt.hdr) f.pkt.payload false) f))

/-- TWIN_DELTA_CLOSE (R415, R416): it waits for every packet before it; at a twin it flips the reserve tensors to the delta's step and is echoed,
or, its ledger differing, nothing flips and the echo is poisoned; at a spare it ends the pull as done, refused or failed, logged. -/
def Sys2Proof.Stated.TwinDeltasCloseOrAreRefused : Prop :=
  ∀ (f : Frame) (s : State), Fresh s f → deltaPkt f.pkt true = true →
    let c := rxC f
    let x := s.ctx c
    let sum := if x.twinOn then x.twinLed else 0
    let inOrder := ((arrives s f).stream c (rxR f) 6).cum = LS.seq f.pkt.hdr
    (¬inOrder → exec (.twinDeltaClose f) s = .next (arrives s f))
    ∧ (inOrder → x.cfg.adState ≠ 1 → sum ≠ LS.ledger f.pkt.hdr →
      exec (.twinDeltaClose f) s = .next (taken (((arrives s f).setCtx c { x with twinOn := false, twinLed := 0 }).lsSend c (rxR f)
        { tc := 6, pfmt := 7, offset := LS.offset f.pkt.hdr, ledger := LS.ledger f.pkt.hdr, last := true, poison := true }) f))
    ∧ (inOrder → x.cfg.adState ≠ 1 → sum = LS.ledger f.pkt.hdr → (x.tensors.map (·.tid)).Nodup → Runs (.twinDeltaClose f) s fun t =>
        (∀ tid u, s.tensor c tid = some u → ∃ v, t.tensor c tid = some v
          ∧ (u.finEn = true → v.finCopy = 1 - u.finCopy ∧ v.finStep = LS.offset f.pkt.hdr % 2 ^ 32) ∧ (u.finEn = false → v = u))
        ∧ (t.ctx c).twinOn = false ∧ (t.ctx c).twinLed = 0 ∧ (x.twinOn = true → t.mem = s.mem)
        ∧ Only (.ctxs :: .mem :: .pager :: Sent) s t)
    ∧ (inOrder → x.cfg.adState = 1 → (x.tensors.map (·.tid)).Nodup → Runs (.twinDeltaClose f) s fun t =>
        (t.ctx c).cfg.adState = (if LS.poison f.pkt.hdr then 3 else if sum ≠ LS.ledger f.pkt.hdr then 4 else 2)
        ∧ (∀ tid u, s.tensor c tid = some u → ∃ v, t.tensor c tid = some v ∧ v.finCopy = u.finCopy
          ∧ ((LS.poison f.pkt.hdr = true ∨ sum ≠ LS.ledger f.pkt.hdr ∨ u.finEn = false) → v = u)
          ∧ (LS.poison f.pkt.hdr = false → sum = LS.ledger f.pkt.hdr → u.finEn = true → v.finStep = x.cfg.adStep))
        ∧ (Entered s c (rxR f) → t.wrk.seq = s.wrk.seq + 1) ∧ Only (.ctxs :: Sent) s t)

/-- Twin deltas reach their copy and close or are refused: the statements `TwinLinesReachTheirCopy` and
`TwinDeltasCloseOrAreRefused` together. -/
def Obligations.TwinDeltasReachTheirCopyAndClose : Prop := Stated.TwinLinesReachTheirCopy ∧ Stated.TwinDeltasCloseOrAreRefused

/-- TWIN_ECHO (R415): the twin's echo of the awaited step ends the wait; a poisoned one sends the delta again, three times, and then stops
mirroring with a log entry; another echo changes nothing. AD_GO and ADOPTION_PULL_REQUEST (R416): the pull starts, in a request whose form is the model's
(log 22), and is answered with every line of the reserve tensors at that step, or refused. -/
def Obligations.TwinEchoesAndPulls : Prop :=
  (∀ (f : Frame) (s : State), Fresh s f → deltaPkt f.pkt true = true → let c := rxC f; let x := s.ctx c
    (x.twinWait ≠ some (LS.offset f.pkt.hdr) ∨ LS.src f.pkt.hdr ≠ x.cfg.twRank → exec (.twinEcho f) s = .next (taken (arrives s f) f))
    ∧ (x.twinWait = some (LS.offset f.pkt.hdr) → LS.src f.pkt.hdr = x.cfg.twRank → LS.poison f.pkt.hdr = false →
      exec (.twinEcho f) s = .next (taken ((arrives s f).setCtx c { x with twinWait := none, twinTries := 0, twinLines := [], cfg := { x.cfg with twinStep := BitVec.ofNat 64 (LS.offset f.pkt.hdr * 2 ^ 32) } }) f))
    ∧ (x.twinWait = some (LS.offset f.pkt.hdr) → LS.src f.pkt.hdr = x.cfg.twRank → LS.poison f.pkt.hdr = true → x.twinTries < 3 →
      exec (.twinEcho f) s = .next (taken (((arrives s f).setCtx c { x with twinTries := x.twinTries + 1 }).lsSendAll c x.cfg.twRank
        (s.deltaMsgs c (LS.offset f.pkt.hdr) x.cfg.twCtx x.twinLines false)) f))
    ∧ (x.twinWait = some (LS.offset f.pkt.hdr) → LS.src f.pkt.hdr = x.cfg.twRank → LS.poison f.pkt.hdr = true → 3 ≤ x.twinTries → Runs (.twinEcho f) s fun t =>
      (t.ctx c).cfg.finTwin.getLsbD 63 = false ∧ (t.ctx c).twinWait = none ∧ (Entered s c (rxR f) → t.wrk.seq = s.wrk.seq + 1)
      ∧ Only (.ctxs :: Sent) s t))
  ∧ (∀ (c : Fin 16) (s : State), let x := s.ctx c
    (x.st ≠ .live ∨ x.cfg.adState = 1 → exec (.adGo c) s = .next s)
    ∧ (x.st = .live → x.cfg.adState ≠ 1 → Runs (.adGo c) s fun t => (t.ctx c).cfg.adState = 1 ∧ (t.ctx c).twinOn = false
        ∧ (∀ d : Nat, d ≠ c → t.ctx d = s.ctx d) ∧ t.out = s.out ++ [.adoptPull c x.cfg.adRank x.cfg.adCtx x.cfg.adStep] ∧ Only [.ctxs, .out] s t))
  ∧ (∀ (r : Nat) (c : Fin 16) (step : Nat) (s : State), let x := s.ctx c
    (x.st ≠ .live → exec (.adoptionPullRequest r c step) s = .next s)
    ∧ (x.st = .live → (∃ u ∈ x.tensors, u.finEn = true ∧ u.finStep ≠ step % 2 ^ 32) →
      exec (.adoptionPullRequest r c step) s = .next (s.lsSendAll c r (s.deltaMsgs c step (BV.fld (x.entry r) 108 4) [] true)))
    ∧ (x.st = .live → (∀ u ∈ x.tensors, u.finEn = true → u.finStep = step % 2 ^ 32) →
      exec (.adoptionPullRequest r c step) s = .next (s.lsSendAll c r (s.deltaMsgs c step (BV.fld (x.entry r) 108 4)
        ((x.tensors.filter (·.finEn)).flatMap fun u => (s.copyLines u).map fun l => (u.tid, l.1, l.2)) false))))


/-! ### The tick (spec/10, spec/17, spec/19) -/

namespace Sys2Proof.Stated

/-- A tick runs, and nothing waits for it but a commit of function 0 and, where `adm` is `some`, the slot that has been admitted: no reset, no
segment, no reduction, no fence, no host access or tensor command held, no page to free. -/
def Still (s : State) (adm : Option (Fin 64)) : Prop :=
  s.tickRun = true ∧ (∀ fn : Fin 16, fn ≠ 0 → s.host.txn[fn].st ≠ 2) ∧ (∀ fn : Fin 16, s.host.txn[fn].lone = []) ∧ s.esc.waiting = []
  ∧ s.swt.checking = [] ∧ s.remap.atTick = [] ∧ s.remap.failedEng = [] ∧ s.remap.failedPan = [] ∧ s.fab.reds = [] ∧ s.host.held = []
  ∧ (∀ c : Fin 16, s.ctxs[c].freeing = [])
  ∧ (∀ n : Fin 64, s.slots[n].leave = none ∧ (some n ≠ adm → s.slots[n].st ≠ .admitting ∧ s.slots[n].st ≠ .running))
  ∧ (∀ p : Fin 32, s.panels[p].seg = none ∧ s.panels[p].held = none)

/-- The panels over the end of a frame in which none ran: what is in flight lands 4,096 cycles earlier in the next frame's count. -/
def turned (s : State) : Vector Panel 32 :=
  s.panels.map fun p => { p with fly := p.fly.map (fun f => { f with due := f.due - 4096 }), arr := [], ranFault := false }

/-- The skip count in force in Operating (R482). -/
def skipsOf (p : Pwr) : Nat := max (max p.np p.nt) (if 0 < p.floorLeft then 32 else 0)

/-- The number of the frame after this one. -/
def nextFrame (s : State) : Nat := (s.frame + 1).toNat

end Sys2Proof.Stated

/-- TIDE_TICK (R27, R285, R476, R483, R485): without a running tick nothing happens; in a still module the frame counter advances, the
bit-reversed low six bits of the frame number below the skip count skip the frame, an average above 4,300 W puts the floor in force with its event
and log entry, Slack is reached at the tick after its request and left at the third, and skips every frame. -/
def Obligations.TicksAdvanceTheFrameAndSkip : Prop :=
  ∀ (watts : Nat) (s : State), (s.tickRun = false → exec (.tideTick watts) s = .next s)
    ∧ (Still s none → s.host.txn[0].st ≠ 2 →
      (s.pwr.st = 1 → s.pwr.target = none → watts ≤ 4300 → exec (.tideTick watts) s =
        .next { s with frame := s.frame + 1, panels := turned s, pwr := { s.pwr with peak := if s.pwr.peak.toNat < watts then BitVec.ofNat 16 watts else s.pwr.peak, skipN := skipsOf s.pwr, skips := if bitRev 6 (nextFrame s % 64) < skipsOf s.pwr then bump s.pwr.skips else s.pwr.skips } })
      ∧ (s.pwr.st = 1 → s.pwr.target = none → 4300 < watts → Runs (.tideTick watts) s fun t =>
          t.frame = s.frame + 1 ∧ t.panels = turned s ∧ t.pwr.floorLeft = 2 ∧ t.pwr.skipN = max (max s.pwr.np s.pwr.nt) 32
          ∧ (bitRev 6 (nextFrame s % 64) < 32 → t.pwr.skips = bump s.pwr.skips)
          ∧ (s.pwr.floorLeft = 0 → t.pwr.event = s.pwr.event ||| BitVec.ofNat 64 (2 ^ 61) ∧ t.pins.alertLow = true ∧ t.wrk.seq = s.wrk.seq + 1)
          ∧ (0 < s.pwr.floorLeft → t.pwr.event = s.pwr.event ∧ t.wrk.seq = s.wrk.seq)
          ∧ Only (.frame :: .panels :: .pwr :: .pins :: .wrk :: .fresh :: Raised) s t)
      ∧ (s.pwr.st = 1 → s.pwr.target = some 2 → watts ≤ 4300 → Runs (.tideTick watts) s fun t =>
          t.frame = s.frame + 1 ∧ t.pwr.st = 2 ∧ t.pwr.target = none ∧ t.pwr.event = s.pwr.event ||| BitVec.ofNat 64 (2 ^ 60)
          ∧ t.pwr.skips = bump s.pwr.skips ∧ Only (.frame :: .panels :: .pwr :: .pins :: Raised) s t)
      ∧ (s.pwr.st = 2 → s.pwr.target = none → watts ≤ 4300 → Runs (.tideTick watts) s fun t =>
          t.frame = s.frame + 1 ∧ t.pwr.st = 2 ∧ t.pwr.skips = bump s.pwr.skips ∧ Only [.frame, .panels, .pwr] s t)
      ∧ (s.pwr.st = 2 → s.pwr.target = some 1 → watts ≤ 4300 → Runs (.tideTick watts) s fun t =>
          t.frame = s.frame + 1 ∧ t.pwr.st = (if s.pwr.resume ≤ 1 then 1 else 2) ∧ (1 < s.pwr.resume → t.pwr.resume = s.pwr.resume - 1 ∧ t.pwr.target = some 1)
          ∧ (s.pwr.resume ≤ 1 → t.pwr.target = none ∧ t.pwr.event = s.pwr.event ||| BitVec.ofNat 64 (2 ^ 60))
          ∧ Only (.frame :: .panels :: .pwr :: .pins :: Raised) s t))

/-- A tick applies a pending commit whole or not at all (R285, R451, R457): here PF0's writes of the largest payload and of the swatch
configuration, with the result, the frame of the tick, vector 5, and of a refused commit the first write that broke a rule. A slot whose admitted
graph has no task is DONE at its first tick (R279, R288) and fires its vector. -/
def Obligations.TicksCommitWholeOrNotAtAll : Prop :=
  (∀ (watts : Nat) (v w : BitVec 64) (s : State), Still s none → s.pwr.st = 1 → s.pwr.target = none → watts ≤ 4300 → s.host.txn[0].st = 2 →
    s.host.txn[0].cmds = [] → s.host.txn[0].staged = [whole Reg.largest v, whole ⟨0x0F, 0, 0x100⟩ w] →
    let okL := 1024 ≤ BV.fld v 0 14 ∧ BV.fld v 0 14 ≤ 8192 ∧ BV.fld v 0 14 % 1024 = 0
    let okS := 3 ≤ BV.fld w 60 4 ∧ BV.fld w 60 4 ≤ 12 ∧ BV.fld w 56 4 ≠ 0 ∧ BV.fld w 40 16 ≠ 0
    (okL ∧ okS → Runs (.tideTick watts) s fun t =>
      t.fab = { s.fab with largest := BitVec.ofNat 14 (BV.fld v 0 14) }
      ∧ t.swt = { s.swt with exp := BitVec.ofNat 4 (BV.fld w 60 4), trLimit := BitVec.ofNat 4 (BV.fld w 56 4), trWin := BitVec.ofNat 16 (BV.fld w 40 16) }
      ∧ t.host.txn[0].st = 0 ∧ t.host.txn[0].result = 1 ∧ t.host.txn[0].staged = [] ∧ t.host.txn[0].cframe = BitVec.ofNat 32 (nextFrame s)
      ∧ t.out = s.out ++ [.msix 0 5] ∧ t.frame = s.frame + 1 ∧ Only [.frame, .panels, .pwr, .fab, .swt, .host, .out] s t)
    ∧ (¬(okL ∧ okS) → Runs (.tideTick watts) s fun t =>
      t.host.txn[0].st = 0 ∧ t.host.txn[0].result = 3 ∧ t.host.txn[0].staged = []
      ∧ t.host.txn[0].errBlock = (if okL then 0x0F else 0x0B) ∧ t.host.txn[0].errIndex = (if okL then 1 else 0)
      ∧ t.out = s.out ++ [.msix 0 5] ∧ t.frame = s.frame + 1 ∧ Only [.frame, .panels, .pwr, .host, .out] s t))
  ∧ (∀ (watts : Nat) (n : Fin 64) (s : State), Still s (some n) → s.host.txn[0].st ≠ 2 → s.pwr.st = 1 → s.pwr.target = none → watts ≤ 4300 →
    s.slots[n].st = .admitting → s.slots[n].admitted = true → s.slots[n].graph.tasks = [] → Runs (.tideTick watts) s fun t =>
      t.slots[n].st = .done ∧ t.slots[n].tasks = [] ∧ t.slots[n].stopped = false ∧ (∀ k : Fin 64, k ≠ n → t.slots[k] = s.slots[k])
      ∧ t.out = (if s.slots[n].irqEn then s.out ++ [.msix s.slots[n].ctx.toNat (8 + n.val % 56)] else s.out)
      ∧ Only [.frame, .panels, .pwr, .slots, .ctxs, .out] s t)

/-! ### Staging, writeback and tasks that take no panel (spec/09, spec/10, spec/11, spec/13) -/

/-- WINDOW_STAGE (R283, R300, R301, R141, R176): a segment that a RUNNING slot has not dispatched is staged, at most once on a panel, where its grant
and its program fit, its lines as HBM holds them and its pages in frames; a window staged here unchanged is not fetched again; with a page held far,
or no room in the quota, it waits; a tag of a ready task that software understated has no defined outcome. -/
def Obligations.WindowsAreStagedForReadyTasks : Prop :=
  ∀ (p : Fin 32) (n i k : Nat) (s : State), let g := s.buildSeg n i k
    let pages := ((g.refs.filter fun r => !s.reuses s.panels[p] r).flatMap (·.pages)).eraseDups
    let e := s.taskEnv n i
    let room := s.panels[p].makeResident g.ctx (PE.tid e.pe) (PE.ofs e.pe) e.prog.words
    (s.mayStage n i k = false ∨ s.panelUp p = false ∨ s.panels[p].knows n i k = true → exec (.windowStage p n i k) s = .next s)
    ∧ ((∃ q ∈ pages, s.isFar q = true) ∨ s.roomFor g.ctx pages = false → exec (.windowStage p n i k) s = .next s)
    ∧ (s.mayStage n i k = true → s.panelUp p = true → s.panels[p].knows n i k = false → (∀ q ∈ pages, s.isFar q = false) → s.roomFor g.ctx pages = true →
      (s.ready n i = true → (∃ r ∈ g.refs, s.understated r = true) → exec (.windowStage p n i k) s = .fault .tagUnderstated)
      ∧ ((s.ready n i = false ∨ ∀ r ∈ g.refs, s.understated r = false) → (s.panels[p].grant g.granules = none ∨ room = none) →
        exec (.windowStage p n i k) s = .next s)
      ∧ (∀ map b q, (s.ready n i = false ∨ ∀ r ∈ g.refs, s.understated r = false) → s.panels[p].grant g.granules = some map → room = some (b, q) →
        let h := { g with map := map, prog := b }
        Runs (.windowStage p n i k) s fun t => t.panels[p].staged = s.panels[p].staged ++ [h] ∧ t.panels[p].store = q.store
          ∧ (∀ ph, (∀ r ∈ g.refs, ∀ l ∈ r.lines, h.phys l.1 ≠ ph) → tget {} t.panels[p].sram ph = tget {} s.panels[p].sram ph)
          ∧ (∀ r ∈ g.refs, ∀ l ∈ r.lines, ∃ r' ∈ g.refs, ∃ l' ∈ r'.lines, h.phys l'.1 = h.phys l.1
              ∧ tget {} t.panels[p].sram (h.phys l.1) = s.fetchLine r' l'.2.1 l'.2.2)
          ∧ (∀ q ∈ pages, (t.frameOf q).isSome = true) ∧ (∀ q, q ∉ pages → t.frameOf q = s.frameOf q)
          ∧ (∀ m : Fin 32, m ≠ p → t.panels[m] = s.panels[m]) ∧ Only [.panels, .pager] s t))

/-- WRITEBACK (R302): the oldest finished segment of a panel leaves its queue with its output windows in HBM; the running segment once it has
ended; else nothing. A faulted attention segment leaves poison. -/
def Obligations.WritebacksReachMemory : Prop :=
  ∀ (p : Fin 32) (s : State),
    (∀ d rest, s.panels[p].wbq = d :: rest → Runs (.writeback p) s fun t => { t.panels[p] with counts := s.panels[p].counts } = { s.panels[p] with wbq := rest }
      ∧ (d.seg.typ ≠ 1 → t.panels[p].counts = s.panels[p].counts) ∧ (∀ m : Fin 32, m ≠ p → t.panels[m] = s.panels[m])
      ∧ (d.seg.typ ≠ 1 → t.mem = (s.storeOut s.panels[p] d).mem ∧ t.poison = (s.storeOut s.panels[p] d).poison)
      ∧ (d.seg.typ = 1 → d.fault.isSome = true → t.mem = s.mem ∧ ∀ r ∈ d.seg.refs, r.out = true → ∀ x ∈ r.ranges, 0 < x.2 → x.1 / 64 ∈ t.poison))
    ∧ (s.panels[p].wbq = [] → s.panels[p].seg = none → exec (.writeback p) s = .next s)
    ∧ (∀ g, s.panels[p].wbq = [] → s.panels[p].seg = some g → s.panels[p].ended = false ∨ s.panels[p].backed = true → exec (.writeback p) s = .next s)
    ∧ (∀ g, s.panels[p].wbq = [] → s.panels[p].seg = some g → s.panels[p].ended = true → s.panels[p].backed = false →
        Runs (.writeback p) s fun t => { t.panels[p] with counts := s.panels[p].counts } = { s.panels[p] with backed := true }
          ∧ (g.typ ≠ 1 → t.panels[p].counts = s.panels[p].counts)
          ∧ (g.typ ≠ 1 → t.mem = (s.storeOut s.panels[p] (s.panels[p].done g (s.slot g.slot).attempt.toNat)).mem))

namespace Sys2Proof.Stated

/-- A dispatched task of a running slot that has not ended. -/
def Going (s : State) (n i typ : Nat) : Prop :=
  (s.slot n).st = .running ∧ i < (s.slot n).tasks.length ∧ TD.typ ((s.slot n).desc i) = typ ∧ ((s.slot n).task i).dispatched = true
  ∧ ((s.slot n).task i).finished = false ∧ ((s.slot n).task i).ends = none

/-- A task has ended with a status that it takes as the frame retires (R285); no task completes before, and no other task of its slot ends. -/
def Ended (s t : State) (n i status : Nat) : Prop :=
  ((t.slot n).task i).ends = some status ∧ (t.slot n).st = .running ∧ (∀ j, j ≠ i → ((t.slot n).task j).ends = ((s.slot n).task j).ends)
  ∧ (∀ j, ((t.slot n).task j).status = ((s.slot n).task j).status ∧ ((t.slot n).task j).finished = ((s.slot n).task j).finished)
  ∧ (∀ m, m ≠ n → t.slot m = s.slot m)

end Sys2Proof.Stated

/-- UPDATE_PROGRAM_RUN (R251, R258, R308) and MOVE_COMPLETE (R274, R308): a dispatched UPDATE task whose norm is known where its program clips,
or a dispatched MOVE, ends with status 0x01, or, having read poison, with 0x03, which it takes as the frame retires (R285); other tasks
are not touched. -/
def Sys2Proof.Stated.UpdatesAndMovesComplete : Prop :=
  ∀ (n i : Nat) (s : State), let e := s.taskEnv n i; let u := nth 0 (s.slot n).graph.uprogs (TD.prog ((s.slot n).desc i))
    let bad := ((UP.reads (nth 0 (s.slot n).graph.uprogs (TD.prog e.d))).filterMap fun k => e.r k).any fun t => (List.range t.rows).any fun row => s.updRow e row && s.poisoned (t.key t.base + row * t.pitch) t.pitch
    (¬Going s n i 6 ∨ (UP.clips u = true ∧ (s.slot n).att.norm = none) → exec (.updateProgramRun n i) s = .next s)
    ∧ (Going s n i 6 → (UP.clips u = true → (s.slot n).att.norm ≠ none) → bad = false →
      Runs (.updateProgramRun n i) s fun t => Ended s t n i 1 ∧ Only [.slots, .mem, .poison, .pager] s t)
    ∧ (Going s n i 6 → (UP.clips u = true → (s.slot n).att.norm ≠ none) → bad = true → Runs (.updateProgramRun n i) s fun t =>
        Ended s t n i 3 ∧ Only [.slots] s t)
    ∧ (¬Going s n i 4 → exec (.moveComplete n i) s = .next s)
    ∧ (Going s n i 4 → Runs (.moveComplete n i) s fun t =>
        Ended s t n i (if s.movePoison n i then 3 else 1) ∧ Only [.slots, .ctxs, .mem, .poison, .pager, .fresh, .out] s t
        ∧ (bitOf ((s.slot n).desc i) 1021 = false → t.out = s.out ∧ t.fresh = s.fresh)
        ∧ ((bitOf ((s.slot n).desc i) 1023 = false ∧ bitOf ((s.slot n).desc i) 1022 = false) → t.ctxs = s.ctxs))

/-- COLL_TASK_COMPLETE (R352, R365): a REDUCE or GATHER task ends when every chunk it waits for is done, its own ends are sent and every
packet it sent is acknowledged; a receiving transfer when every counted packet has arrived, with status 0x03 where the bytes differ from the window;
a sending one when all is sent and acknowledged; else nothing happens. A transfer that ended is forgotten. The status is taken as the frame retires (R285). -/
def Sys2Proof.Stated.CollectivesCompleteWhenOver : Prop :=
  ∀ (n i : Nat) (s : State), (¬Going s n i 5 → exec (.collTaskComplete n i) s = .next s)
    ∧ (∀ r, Going s n i 5 → TD.variant ((s.slot n).desc i) ≤ 1 → s.fab.reds.find? (fun r => r.slot = n ∧ r.task = i) = some r →
      (s.collDone r = false → exec (.collTaskComplete n i) s = .next s)
      ∧ (s.collDone r = true → Runs (.collTaskComplete n i) s fun t => Ended s t n i 1 ∧ (t.slot n).att = (s.slot n).att ∧ Only [.slots] s t))
    ∧ (∀ x tr l cols, Going s n i 5 → 1 < TD.variant ((s.slot n).desc i) → s.fab.p2p.find? (fun x => x.slot = n ∧ x.task = i) = some x →
      s.p2pBlocks n i = some (tr, l, cols) →
      let over' (t : State) : Prop := t.fab = { s.fab with p2p := s.fab.p2p.filter fun y => !(y.slot = n && y.task = i) }
      (x.recv = true → x.total ≠ some x.packets → exec (.collTaskComplete n i) s = .next s)
      ∧ (x.recv = true → x.total = some x.packets → x.bytes = l.length * tr.blockLen → x.slot = n → Runs (.collTaskComplete n i) s fun t => Ended s t n i 1
          ∧ (tr.grad = false → (t.slot n).att = (s.slot n).att)
          ∧ ((t.slot n).att.ovf = true ↔ (s.slot n).att.ovf = true ∨ (tr.grad = true ∧ ∃ y ∈ l, ∃ j < min 32 (tr.e0 - 32 * y.2),
              (tr.val s.mem tr.base y.1 (32 * y.2 + j)).isFin = false)) ∧ over' t ∧ Only [.slots, .fab] s t)
      ∧ (x.recv = true → x.total = some x.packets → x.bytes ≠ l.length * tr.blockLen → Runs (.collTaskComplete n i) s fun t => Ended s t n i 3 ∧ over' t ∧ Only [.slots, .fab] s t)
      ∧ (x.recv = false → (x.sentAll = false ∨ s.allAcked x.ctx x.sent = false) → exec (.collTaskComplete n i) s = .next s)
      ∧ (x.recv = false → x.sentAll = true → s.allAcked x.ctx x.sent = true → Runs (.collTaskComplete n i) s fun t => Ended s t n i 1 ∧ over' t ∧ Only [.slots, .fab] s t))
    ∧ (∀ r y f, s.allAcked r.ctx (s.redPacket r) = true → y ∈ s.fab.streams → y.ctx = r.ctx → f ∈ y.txq ++ y.unacked.map (·.2.2) → r.redid ≠ 0 →
        LS.redid f.hdr = r.redid → LS.tc f.hdr ≠ 2 ∧ LS.tc f.hdr ≠ 4)

/-- UPDATE, MOVE and COLL tasks complete when their work is over: the statements `UpdatesAndMovesComplete` and
`CollectivesCompleteWhenOver` together. -/
def Obligations.UpdatesMovesAndCollectivesComplete : Prop := Stated.UpdatesAndMovesComplete ∧ Stated.CollectivesCompleteWhenOver

/-! ### The end of a training step (spec/09, spec/13, spec/14) -/

namespace Sys2Proof.Stated

/-- The outcome of a vote of a job of one rank, whose MAX and MIN are one another (R391): 3 not replayable, 4 step skew, 2 replay, 5 sealed with
overflow, 1 sealed. -/
def oneRankOutcome (s : State) (n : Nat) : Nat :=
  let a := (s.slot n).att
  if a.stopBit then 3 else if s.skews n ≠ [] then 4 else if a.replayBit ∨ a.ledA % ledM ≠ a.ledH % ledM then 2 else if a.ovf then 5 else 1

end Sys2Proof.Stated

/-- GRADIENT_NORM_START, SEAL_VOTE_ISSUE (R257, R388 to R391, R402): the norm starts once, for the lowest-step training slot whose gradients are
complete; a vote is issued once, clean when every check is done, or at once after a failure but not during an engine, panel or partition reset;
in a job of one rank the outcome follows from its own lanes in the order of R391. -/
def Obligations.VotesAreIssuedAndDecided : Prop :=
  ∀ (c : Fin 16) (s : State),
    (s.trainSlot c = none → exec (.gradientNormStart c) s = .next s ∧ exec (.sealVoteIssue c) s = .next s)
    ∧ (∀ n, s.trainSlot c = some n → let x := s.slot n
      ((x.graph.normTasks = [] ∨ x.att.normPhase ≠ 0 ∨ x.att.voted = true ∨ x.stopped = true ∨ s.gradsDone n = false) → exec (.gradientNormStart c) s = .next s)
      ∧ (x.graph.normTasks ≠ [] → x.att.normPhase = 0 → x.att.voted = false → x.stopped = false → s.gradsDone n = true →
          Runs (.gradientNormStart c) s fun t => (t.slot n).att.normOn = true ∧ (t.slot n).att.normPhase ≠ 0 ∧ (t.slot n).att.voted = false
            ∧ Only (.slots :: .ctxs :: .mem :: .poison :: .pager :: .fab :: .wrk :: .wire :: .fresh :: Raised) s t)
      ∧ (x.att.voted = true → exec (.sealVoteIssue c) s = .next s)
      ∧ (x.att.voted = false → (x.att.replayBit = true ∨ x.att.stopBit = true) → 2 ≤ s.esc.active → s.esc.active ≤ 4 → exec (.sealVoteIssue c) s = .next s)
      ∧ (x.att.voted = false → x.att.replayBit = false → x.att.stopBit = false → s.voteClean n = false → exec (.sealVoteIssue c) s = .next s)
      ∧ (x.att.voted = false → (((x.att.replayBit = true ∨ x.att.stopBit = true) ∧ ¬(2 ≤ s.esc.active ∧ s.esc.active ≤ 4))
            ∨ (x.att.replayBit = false ∧ x.att.stopBit = false ∧ s.voteClean n = true)) →
          Runs (.sealVoteIssue c) s fun t => (t.slot n).att.voted = true ∧ (t.slot n).att.skewDone = true
            ∧ ((s.ctx c).ranksN = 1 → (s.ctx c).cfg.rank = 0 → s.fab.sw = [] → x.att.skewDone = false → x.att.vote = [] → x.att.voteFail = false →
                x.graph.normTasks = [] → (t.slot n).att.sealing = oneRankOutcome s n)
            ∧ Only (.slots :: .ctxs :: .fab :: .wrk :: .wire :: .fresh :: Raised) s t))

/-- STOP_NOTICE, SWASH_PACKET, REPLAY_START (R367, R368, R390, R392): a notice of the current step and attempt stops the slot, joins its bits and
forces the vote, any other only goes on; a child's operands are kept once, the parent's result ends the operation and what waited goes on; a
replay begins an attempt with every task pending, once no segment of the last one runs. -/
def Obligations.NoticesResultsAndReplays : Prop :=
  (∀ (f : Frame) (s : State), Fresh s f → LS.tc f.pkt.hdr = 1 → LS.poison f.pkt.hdr = true →
    let word (k : Nat) := ofLE ((f.pkt.payload.drop (8 * k)).take 8)
    let ranks := s.swGroup (rxC f) 64
    let mine (n : Nat) : Prop := (s.slot n).st = .running ∧ (s.slot n).graph.training = true ∧ (s.slot n).step.toNat = word 1 ∧ (s.slot n).attempt.toNat = word 2
    (memberOf ranks (s.ctx (rxC f)).cfg.rank.toNat).isSome = true → (memberOf ranks (rxR f)).isSome = true →
      (∀ n, (s.liveSlots (rxC f)).find? (fun n => let x := s.slot n; x.st = .running && x.graph.training && decide (x.step.toNat = word 1 ∧ x.attempt.toNat = word 2)) = some n →
        (s.slot n).att.voted = false → Runs (.stopNotice f) s fun t => (t.slot n).stopped = true ∧ (t.slot n).att.voted = true
          ∧ (t.slot n).att.replayBit = ((s.slot n).att.replayBit || bitOf (word 0) 0) ∧ (t.slot n).att.stopBit = ((s.slot n).att.stopBit || bitOf (word 0) 1)
          ∧ (∀ m, m ≠ n → t.slot m = s.slot m) ∧ Only (.slots :: .ctxs :: .fab :: .wrk :: .wire :: .fresh :: Raised) s t)
      ∧ ((∀ n ∈ s.liveSlots (rxC f), ¬mine n) → Runs (.stopNotice f) s fun t => Only (.fab :: .wrk :: .wire :: .fresh :: Raised) s t))
  ∧ (∀ (f : Frame) (op : SwOp) (me k : Nat) (s : State), Fresh s f → LS.tc f.pkt.hdr = 1 → LS.poison f.pkt.hdr = false →
    let o := LS.offset f.pkt.hdr
    let grp := if bitOf o 17 then 64 else fld o 18 6
    let ranks := s.swGroup (rxC f) grp
    memberOf ranks (s.ctx (rxC f)).cfg.rank.toNat = some me → memberOf ranks (rxR f) = some k → s.swFind (rxC f) grp (rxChunk f) = some op →
      (k ∈ swKids ranks.length me → (∃ x ∈ op.kids, x.1 = k) → exec (.swashPacket f) s = .next (taken (arrives s f) f))
      ∧ (k ∈ swKids ranks.length me → (∀ x ∈ op.kids, x.1 ≠ k) → op.own = none → exec (.swashPacket f) s =
          .next (taken ((arrives s f).setSw { op with kids := op.kids ++ [(k, fld o 28 4, fld o 24 4, swLanes (fld o 28 4) (fld o 24 4) f.pkt.payload)] }) f))
      ∧ (k ∉ swKids ranks.length me → op.use = 7 → (s.slot op.slot).st = .running → op.task < (s.slot op.slot).tasks.length →
          ((s.slot op.slot).task op.task).finished = false → ((s.slot op.slot).task op.task).ends = none → Runs (.swashPacket f) s fun t =>
            Ended s t op.slot op.task (if fld o 28 4 = 0 then 3 else 1) ∧ t.swFind (rxC f) grp (rxChunk f) = none ∧ t.fab.swOps = bump s.fab.swOps
            ∧ t.fab.swFails = (if fld o 28 4 = 0 then bump s.fab.swFails else s.fab.swFails)))
  ∧ (∀ (n : Fin 64) (s : State), let x := s.slots[n]
    (x.st ≠ .running ∨ x.att.sealing ≠ 2 ∨ 3 ≤ x.attempt.toNat ∨ s.runningSegs n = true ∨ s.writesWait n = true → exec (.replayStart n) s = .next s)
    ∧ (x.st = .running → x.att.sealing = 2 → x.attempt.toNat < 3 → s.runningSegs n = false → s.writesWait n = false → Runs (.replayStart n) s fun t =>
        t.slots[n] = { x with attempt := x.attempt + 1, stopped := false, att := { e := x.att.e }, tasks := x.graph.tasks.map (fun _ => {}), parts := [], doneCnt := 0 }
        ∧ (∀ k : Fin 64, k ≠ n → t.slots[k] = s.slots[k])
        ∧ (∀ g ∈ (t.ctx x.ctx.toNat).flags, g < GH.flagBase x.graph.hdr ∨ GH.flagBase x.graph.hdr + GH.flagCount x.graph.hdr ≤ g)
        ∧ Only (.slots :: .ctxs :: .mem :: .poison :: .pager :: .panels :: .fab :: .wrk :: .wire :: .fresh :: Raised) s t))

/-! ### Resets, dumps and bring-up (spec/15, spec/16, spec/17) -/

namespace Sys2Proof.Stated

/-- What a reset command asks for: level, domain and cause (R398, R399, R406). -/
def asked (s : State) : Instr → Option (Nat × Nat × Nat)
  | .contextReset c => some (1, c, 2)
  | .engineReset p e => some (2, s.remap.eng p e, 2)
  | .panelReset p => some (3, p, 2)
  | .partitionReset d => some (4, d, 2)
  | .moduleFastPathReset => some (5, 0, 2)
  | .fullModuleReset => some (6, 0, 2)
  | .hardwareFault (.ctx c) => some (1, c, 1)
  | .hardwareFault (.panel p) => some (3, p, 1)
  | .hardwareFault (.part d) => some (4, d, 1)
  | .hardwareFault .module => some (5, 0, 1)
  | _ => none

/-- A module fast path has begun: its status, its bring-up, and what it loses (R399, R404, R423). -/
def FastPathBegun (s t : State) : Prop :=
  t.esc.active = 5 ∧ t.esc.domain = 0 ∧ t.bru.path = 1 ∧ t.bru.running = true ∧ t.bru.ready = false ∧ t.bru.stage = 1
  ∧ t.bru.boot = s.bru.boot + 1 ∧ t.frame = 0 ∧ t.tickRun = false ∧ t.pwr.st = 5
  ∧ (∀ c : Fin 16, t.ctxs[c].st = .free ∧ t.ctxs[c].gen = (if s.ctxs[c].st = .free then s.ctxs[c].gen else s.ctxs[c].gen + 1))
  ∧ (∀ n : Fin 64, t.slots[n].st = .idle) ∧ t.fab.streams = [] ∧ t.fab.reds = []
  ∧ (s.dump.held = false → t.dump.collecting = true) ∧ (s.dump.held = true → t.dump = s.dump)

/-- A full module reset has begun: the host link is down, HBM is lost, bring-up stands at S0 (R399, R407). -/
def FullResetBegun (s t : State) : Prop :=
  t.esc.active = 6 ∧ t.bru.path = 6 ∧ t.bru.running = true ∧ t.bru.ready = false ∧ t.bru.stage = 0 ∧ t.bru.boot = s.bru.boot + 1
  ∧ t.host.link = false ∧ t.host.training = false ∧ t.mem = [] ∧ t.frame = 0 ∧ t.tickRun = false
  ∧ (∀ c : Fin 16, t.ctxs[c].st = .free) ∧ (∀ n : Fin 64, t.slots[n].st = .idle ∧ t.host.slotOwn[n] = 0)

/-- The reset commands and faults (R398, R399, R401, R406, R409, R438): at rest levels 0x1 to 0x4 wait for the next tide tick and levels 0x5
and 0x6 act at once; a request that comes while the link is down does nothing; before S8 levels 0x1 to 0x4 are ignored and counted
and level 0x5 waits for S8; in Neap and Dry levels 0x1 to 0x4 are ignored and counted (R487; for a fault the model's choice, log 89); during another
reset an unrelated fault is queued and a related one, or a sixteenth, becomes a reset one level above. -/
def ResetRequestsActWaitOrQueue : Prop :=
  ∀ (c : Instr) (l d cause : Nat) (s : State), asked s c = some (l, d, cause) → s.awake = true →
    (cause = 2 → s.hostUp 0 = false → exec c s = .next s)
    ∧ ((cause = 2 → s.hostUp 0 = true) →
      (l ≤ 4 → s.bru.ready = true → s.pwr.st ≠ 3 → s.pwr.st ≠ 4 → s.esc.active = 0 →
        exec c s = .next { s with esc := { s.esc with waiting := s.esc.waiting ++ [(l, d, cause)] } })
      ∧ (l = 5 → s.bru.ready = true → s.esc.active = 0 → Runs c s fun t => FastPathBegun s t ∧ BV.fld t.esc.status 44 4 = cause)
      ∧ (l = 6 → Runs c s fun t => FullResetBegun s t ∧ BV.fld t.esc.status 44 4 = cause)
      ∧ (l ≤ 4 → s.pwr.st = 3 ∨ s.pwr.st = 4 → s.esc.ignored ≠ BitVec.allOnes 64 →
        exec c s = .next { s with esc := { s.esc with ignored := s.esc.ignored + 1 } })
      ∧ (s.bru.ready = false → s.pwr.st ≠ 3 → s.pwr.st ≠ 4 →
        (l ≤ 4 → s.bru.ignored ≠ BitVec.allOnes 64 → exec c s = .next { s with bru := { s.bru with ignored := s.bru.ignored + 1 } })
        ∧ (l = 5 → s.esc.active ≠ 5 → exec c s = .next { s with bru := { s.bru with deferred := true } })
        ∧ (l = 5 → s.esc.active = 5 → Runs c s fun t => FastPathBegun s t))
      ∧ (l ≤ 4 → s.bru.ready = true → s.pwr.st ≠ 3 → s.pwr.st ≠ 4 → s.esc.active ≠ 0 →
        (s.remap.domIn (s.esc.active, s.esc.domain) (l, d) = false → s.remap.domIn (l, d) (s.esc.active, s.esc.domain) = false →
          s.esc.queue.length < 15 → Runs c s fun t =>
            t.esc = { s.esc with queue := s.esc.queue ++ [(l, d, cause)] } ∧ t.wrk.seq = s.wrk.seq + 1 ∧ Only [.esc, .wrk, .fresh, .out] s t)
        ∧ (s.esc.active ≤ 4 → s.remap.domIn (s.esc.active, s.esc.domain) (l, d) = true ∨ s.remap.domIn (l, d) (s.esc.active, s.esc.domain) = true →
          Runs c s fun t => BV.fld t.esc.status 44 4 = 5 ∧ t.esc.escal = true
            ∧ (max s.esc.active l = 4 → FastPathBegun s t)
            ∧ (max s.esc.active l = 3 → t.esc.active = 4 ∧ t.bru.path = 2 ∧ t.bru.running = true ∧ t.fab.streams = []))))

/-- HARDWARE_FAULT of an engine, FLR_PF0, FLR_VF and PERST_ASSERT (R398, R404, R443, R452, R407): a faulty engine poisons its panel's segment and
asks for its reset; a function-level reset discards the function's transaction with result 0x08 and asks for level 0x5 or for its context;
PERST# takes the link down and, once power is good, starts a full module reset. -/
def FaultsAndFunctionResetsAskForResets : Prop :=
  (∀ (p : Fin 32) (e : Fin 16) (s : State), s.awake = true → s.bru.ready = true → s.pwr.st ≠ 3 → s.pwr.st ≠ 4 → s.esc.active = 0 →
    exec (.hardwareFault (.engine p e)) s =
      .next { s with panels := s.panels.set p { s.panels[p] with tainted := s.panels[p].tainted || s.panels[p].seg.isSome }
                     esc := { s.esc with waiting := s.esc.waiting ++ [(2, s.remap.eng p e, 1)] } })
  ∧ (∀ (fn : Fin 16) (s : State), s.host.link = true →
      (fn = 0 → s.host.txn[fn].st = 0 → s.host.txn[fn].lone = [] → 0 ∉ s.host.d3 → exec .flrPf0 s = exec .moduleFastPathReset s)
      ∧ (fn = 0 → s.awake = true → s.bru.ready = true → s.esc.active = 0 → Runs .flrPf0 s fun t => FastPathBegun s t)
      ∧ (fn ≠ 0 → s.host.txn[fn].st = 0 → s.host.txn[fn].lone = [] → 0 ∉ s.host.d3 → exec (.flrVf fn) s = exec (.contextReset fn) s)
      ∧ (fn ≠ 0 → s.host.txn[fn].st ≠ 0 → s.awake = true → s.bru.ready = true → s.pwr.st ≠ 3 → s.pwr.st ≠ 4 → s.esc.active = 0 →
        Runs (.flrVf fn) s fun t =>
          t.host.txn[fn].st = 0 ∧ t.host.txn[fn].result = 8 ∧ t.host.txn[fn].staged = [] ∧ (∀ g : Fin 16, g ≠ fn → t.host.txn[g] = s.host.txn[g])
          ∧ t.out = s.out ++ [.msix fn 5] ∧ t.esc = { s.esc with waiting := s.esc.waiting ++ [(1, fn.val, 2)] }
          ∧ { t.host with txn := s.host.txn } = s.host ∧ Only [.host, .out, .esc] s t))
  ∧ (∀ s : State, s.pins.perst = false →
      (s.pins.pwrGood = false → exec .perstAssert s =
        .next { s with pins := { s.pins with perst := true }, host := { s.host with link := false, training := false } })
      ∧ (s.pins.pwrGood = true → s.awake = true → Runs .perstAssert s fun t =>
          FullResetBegun s t ∧ t.pins = { s.pins with perst := true, trayId := BitVec.ofNat 4 (Config.moduleConst 8) } ∧ BV.fld t.esc.status 44 4 = 2))

/-- RESET_COMPLETE and RESET_BOUND_EXPIRY (R399, R401, R408 to R411, R434): a completed reset leaves `LAST`, `RESULT` and `ELAPSED`, ends its
domain's state and hands the first queued fault to the next tick; an engine whose known-answer digests differ, or a panel that fails its tests, is
replaced at the next frame boundary; one not complete at its bound becomes the reset one level above, and at
level 0x5 sets `HOSTNEED`, with `RESULT` 4, and waits for the host. -/
def ResetsCompleteOrClimb : Prop :=
  (∀ (passed : Bool) (flaws : List Flaw) (elapsed : Nat) (s : State), s.awake = true → s.resetOver = true → s.pwr.waiting = none → s.esc.active < 16 →
    Runs (.resetComplete ⟨passed, flaws⟩ elapsed) s fun t =>
      t.esc.active = 0 ∧ t.esc.domain = 0 ∧ t.esc.tests = [] ∧ t.esc.escal = false ∧ t.esc.queue = s.esc.queue.drop 1 ∧ t.esc.waiting = s.esc.waiting ++ s.esc.queue.take 1
      ∧ BV.fld t.esc.status 52 4 = s.esc.active ∧ BV.fld t.esc.status 48 4 = (if s.esc.escal then 2 else 1) ∧ BV.fld t.esc.status 0 32 = elapsed % 2 ^ 32
      ∧ BV.fld t.esc.status 44 4 = BV.fld s.esc.status 44 4
      ∧ (s.esc.active = 1 → ∀ c : Fin 16, c.val = s.esc.domain → t.ctxs[c].resetting = false ∧ t.ctxs[c].flags = [] ∧ t.ctxs[c].st = s.ctxs[c].st
          ∧ ∀ n : Fin 64, s.slots[n].busyNow = true → s.slots[n].ctx.toNat = c.val →
              t.slots[n] = { s.slots[n] with leave := some (.abandoned, 0, 0) })
      ∧ (s.esc.active = 2 → s.esc.domain ∉ t.remap.resetting ∧ t.remap.fencedEng = s.remap.fencedEng
          ∧ (kaFails flaws s.esc.domain ≠ 0 → s.esc.domain ∈ t.remap.failedEng)
          ∧ (kaFails flaws s.esc.domain = 0 → s.esc.tests = [] → t.remap.failedEng = s.remap.failedEng))
      ∧ (s.esc.active = 3 → t.remap.panelOf = s.remap.panelOf
          ∧ (passed = false ∨ (∃ e < 17, kaFails flaws (17 * s.remap.panel s.esc.domain + e) ≠ 0) → s.esc.domain ∈ t.remap.failedPan)
          ∧ (passed = true → (∀ e < 17, kaFails flaws (17 * s.remap.panel s.esc.domain + e) = 0) → s.esc.tests = [] → t.remap.failedPan = s.remap.failedPan))
      ∧ (s.esc.active = 5 → t.ctxs = s.ctxs ∧ t.slots = s.slots ∧ t.remap.resetting = [] ∧ t.remap.engOf = s.remap.engOf
          ∧ (s.esc.tests = [] → { t.remap with resetting := s.remap.resetting } = s.remap)))
  ∧ (∀ (flaws : List Flaw) (x : Nat), (∀ w ∈ flaws, w.engine ≠ x) → kaFails flaws x = 0)
  ∧ (∀ (flaws : List Flaw) (x f : Nat), f < 3 → (∃ w ∈ flaws, w.engine = x) →
      (bitOf (kaFails flaws x) f = true ↔ shake256 (kaDrained flaws x f) 32 ≠ kaRef f))
  ∧ (∀ (passed : Bool) (flaws : List Flaw) (elapsed : Nat) (s : State), s.resetOver = false → exec (.resetComplete ⟨passed, flaws⟩ elapsed) s = .next s)
  ∧ (∀ s : State, s.awake = true →
      (s.esc.active = 5 → Runs .resetBoundExpiry s fun t =>
        t.esc.active = 5 ∧ t.esc.domain = s.esc.domain ∧ BV.fld t.esc.status 48 4 = 4 ∧ t.esc.event = s.esc.event ||| BitVec.ofNat 64 (2 ^ 63)
        ∧ Only [.esc, .host, .out] s t)
      ∧ (s.esc.active = 4 → Runs .resetBoundExpiry s fun t => FastPathBegun s t ∧ BV.fld t.esc.status 44 4 = 3 ∧ t.esc.escal = true)
      ∧ (s.esc.active = 3 → Runs .resetBoundExpiry s fun t =>
        t.esc.active = 4 ∧ t.esc.domain = s.esc.domain / 16 ∧ BV.fld t.esc.status 44 4 = 3 ∧ t.esc.escal = true ∧ t.bru.path = 2 ∧ t.bru.running = true)
      ∧ (s.esc.active = 1 → s.outWrites s.esc.domain 0 = true → s.outWrites s.esc.domain 1 = false → Runs .resetBoundExpiry s fun t =>
        t.esc.active = 4 ∧ t.esc.domain = 0 ∧ BV.fld t.esc.status 44 4 = 3 ∧ t.esc.escal = true)
      ∧ (s.esc.active = 1 → s.outWrites s.esc.domain 0 = true → s.outWrites s.esc.domain 1 = true → Runs .resetBoundExpiry s fun t =>
        t.esc.active = 4 ∧ t.esc.domain = 0 ∧ BV.fld t.esc.status 44 4 = 3 ∧ t.esc.escal = true ∧ (4, 1, 3) ∈ t.esc.queue)
      ∧ (s.esc.active = 1 → s.outWrites s.esc.domain 0 = false → s.outWrites s.esc.domain 1 = false → exec .resetBoundExpiry s = .next s))

/-- CRASH_DUMP_ONLY, DUMP_UNIT_TIMEOUT and CRASH_DUMP_COMPLETE (R420, R421): a dump waits for the tick, or starts at once where no tick runs,
and is skipped with a log entry while one is held; a unit that does not answer is recorded unreachable, or its ring broken before it, and collection
goes on; a complete dump has a record of every unit and sets `DUMP`. -/
def DumpsAreCollectedAndHeld : Prop :=
  (∀ s : State, s.hostUp 0 = true → s.awake = true →
    (s.tickRun = true → exec .crashDumpOnly s = .next { s with esc := { s.esc with waiting := s.esc.waiting ++ [(7, 0, 2)] } })
    ∧ (s.tickRun = false → Runs .crashDumpOnly s fun t => Only [.dump, .wrk, .fresh, .out] s t
        ∧ (s.dump.held = false → t.dump = { held := false, collecting := true, next := 0, recs := [] } ∧ t.wrk.seq = s.wrk.seq + 1)
        ∧ (s.dump.held = true → t.dump = s.dump ∧ t.wrk.seq = s.wrk.seq + 2)))
  ∧ (∀ s : State, s.dump.collecting = true → s.dump.next < s.dumpUnits.length → Runs .dumpUnitTimeout s fun t =>
      ∃ l r, t.dump = { s.dump with next := s.dump.next + l.length + 1, recs := s.dump.recs ++ l ++ [r] }
        ∧ s.dump.next + l.length < s.dumpUnits.length ∧ (r.status = 1 ∨ r.status = 3) ∧ r.len = 16 ∧ (∀ x ∈ l, x.status ∈ [0, 2, 4, 5])
        ∧ (∀ k x, (l ++ [r])[k]? = some x → s.dumpUnits[s.dump.next + k]? = some (x.cls, x.logical, x.phys)) ∧ Only [.dump, .fresh] s t)
  ∧ (∀ s : State, s.dump.collecting = true → s.dump.next ≤ s.dumpUnits.length → Runs .crashDumpComplete s fun t =>
      ∃ l, t.dump = { held := true, collecting := false, next := s.dumpUnits.length, recs := s.dump.recs ++ l }
        ∧ s.dump.next + l.length = s.dumpUnits.length ∧ (∀ x ∈ l, x.status ∈ [0, 2, 4, 5])
        ∧ (∀ x ∈ l, x.status = 2 ↔ x.cls ≠ 7 ∧ s.pwr.rails = false)
        ∧ (∀ k x, l[k]? = some x → s.dumpUnits[s.dump.next + k]? = some (x.cls, x.logical, x.phys))
        ∧ t.esc = { s.esc with event := s.esc.event ||| BitVec.ofNat 64 (2 ^ 62) } ∧ Only (.dump :: .esc :: .fresh :: Raised) s t)

/-- BRINGUP_STAGE_END (R426, R427, R432, R434, R439, R440): the stage writes its report and bring-up goes on with the next stage its path runs; S1 waits
for PERST# and finds the spare lasers that are left; S6 fences the engines whose known-answer digests differ; S5 starts the tick with the frame counter at 0; S7 is followed by S8, where the module is ready in Tide or Slack; a fatal result
stops it. -/
def BringUpRunsItsStages : Prop :=
  ∀ (f : StageFacts) (s : State), s.bru.running = true → s.awake = true → s.pins.pwrGood = true → s.bru.reports.length ≤ 20 →
    (s.bru.stage = 0 → s.bru.reports ≠ [] → exec (.bringupStageEnd f) s = .next s)
    ∧ (s.bru.stage = 0 → s.bru.reports = [] → s.bru.path = 0 ∨ s.bru.path = 6 → f.fatal = none → Runs (.bringupStageEnd f) s fun t =>
        (∃ r, t.bru.reports = [r] ∧ BV.fld r 504 8 = 0 ∧ BV.fld r 496 8 = 0 ∧ BV.fld r 492 4 = s.bru.path.toNat ∧ BV.fld r 456 32 = s.bru.boot.toNat
            ∧ BV.fld r 424 32 = f.time % 2 ^ 32 ∧ BV.fld r 0 384 = f.failA.toNat)
        ∧ t.bru.running = true ∧ t.bru.stage = (if s.pins.perst then 0 else 1))
    ∧ (s.bru.stage ∈ ([1, 2, 3, 4, 5, 6] : List (BitVec 8)) → f.fatal = none → Runs (.bringupStageEnd f) s fun t =>
        t.bru.running = true ∧ t.bru.ready = s.bru.ready ∧ t.bru.fatal = s.bru.fatal
        ∧ t.bru.stage = (if s.bru.path = 0 ∨ s.bru.path = 6 then s.bru.stage + 1 else if s.bru.stage = 3 ∨ s.bru.stage = 4 then 5 else if 5 ≤ s.bru.stage then 7 else s.bru.stage + 1)
        ∧ (s.bru.stage = 5 → s.bru.path ≠ 2 → t.frame = 0 ∧ t.tickRun = true)
        ∧ (s.bru.stage = 1 → t.pwr.rails = true ∧ ∀ e : Fin 8, t.fab.strands[e].spares = BitVec.ofNat 8 (fusedSpares e - s.fab.strands[e].spent))
        ∧ (s.bru.stage = 6 → s.bru.path ≠ 2 → ∀ x < 578, (kaFails f.flaws x ≠ 0 → x ∈ t.remap.fencedEng) ∧ ((∀ w ∈ f.flaws, w.engine ≠ x) → (x ∈ t.remap.fencedEng ↔ x ∈ s.remap.fencedEng)))
        ∧ (s.bru.stage = 2 → ∃ r l, t.bru.reports = s.bru.reports ++ r :: l ∧ BV.fld r 504 8 = 2 ∧ BV.fld r 496 8 = 0))
    ∧ (s.bru.stage = 7 → s.bru.path ≠ 2 → s.bru.deferred = false → Runs (.bringupStageEnd f) s fun t =>
        t.bru.running = false ∧ t.bru.ready = true ∧ t.bru.stage = 8 ∧ t.pwr.st = (if s.pwr.target = some 2 then 2 else 1) ∧ t.pwr.cause = 0
        ∧ t.pwr.target = none ∧ t.pwr.rails = true)
    ∧ (∀ r, f.fatal = some r → 0x80 ≤ r → r ≤ 0x82 → s.bru.stage ∈ ([1, 2, 3, 4, 5, 6] : List (BitVec 8)) → Runs (.bringupStageEnd f) s fun t =>
        t.bru.running = false ∧ t.bru.fatal = true ∧ t.bru.ready = s.bru.ready ∧ t.bru.stage = s.bru.stage)

end Sys2Proof.Stated

/-- Bring-up runs its stages in order and reports them: the statement `BringUpRunsItsStages`. -/
def Obligations.BringUpRunsItsStages : Prop := Stated.BringUpRunsItsStages

/-- Resets complete or climb the ladder; dumps are collected and held: the statements `ResetsCompleteOrClimb` and
`DumpsAreCollectedAndHeld` together. -/
def Obligations.ResetsAndDumpsComplete : Prop := Stated.ResetsCompleteOrClimb ∧ Stated.DumpsAreCollectedAndHeld

/-- Reset requests and faults act, wait, queue or escalate by their level: the statements `ResetRequestsActWaitOrQueue` and
`FaultsAndFunctionResetsAskForResets` together. -/
def Obligations.ResetsAreAskedForByLevel : Prop := Stated.ResetRequestsActWaitOrQueue ∧ Stated.FaultsAndFunctionResetsAskForResets

/-! ### The security root (spec/18) -/

namespace Sys2Proof.Stated

/-- No receipt waits in the signing queue, and no signature has taken its leaf. -/
def Idle (s : State) : Prop := ∀ q ∈ s.sec.queue, q.leaf = none ∧ ∃ tr, q.what = .meas tr

/-- LEAF_ADVANCE_CONFIRMED and SIGNATURE_RELEASE (R465, R466, R467, R397, R396, R468, R472): the request served next takes the next unused leaf
before it is signed, one signature at a time, in order of arrival, and the identity counter burns an OTP bit at each multiple of 1,024; a
released signature leaves the queue and reaches its receipt ring, its key or its transport. What signature bytes hold beside the
leaf is free. -/
def SignaturesTakeALeafEach : Prop :=
  (∀ s : State, (∃ q ∈ s.sec.queue, q.leaf.isSome = true) ∨ s.sec.queue = [] → exec .leafAdvanceConfirmed s = .next s)
  ∧ (∀ (q : SigReq) (rest : List SigReq) (s : State), Idle s → s.sec.queue = q :: rest → q ∉ rest → s.sec.idLeaf + 1 + 16384 < 2 ^ 20 →
      exec .leafAdvanceConfirmed s = .next { s with sec := { s.sec with
        queue := { q with leaf := some s.sec.idLeaf } :: rest, idLeaf := s.sec.idLeaf + 1
        otp := if (s.sec.idLeaf + 1) % 1024 = 0 then (s.sec.idLeaf + 1) / 1024 else s.sec.otp } })
  ∧ (∀ (q : SigReq) (c : Fin 16) (step : Nat) (i : Fin 32) (s : State), s.sec.queue = [q] → q.leaf = none → q.what = .receipt c step →
      s.signKey s.ctxs[c].cfg.job = some i.val → s.sec.rk[i].st = 2 → s.sec.rk[i].leaf + 1 ≠ 61440 →
      s.sec.rk[i].leaf + 1 ≠ 65536 → Runs .leafAdvanceConfirmed s fun t =>
        t.sec = { s.sec with queue := [{ q with leaf := some s.sec.rk[i].leaf, msg := withLeaf q.msg s.sec.rk[i].leaf, key := s.sec.rk[i].ident }]
                             rk := s.sec.rk.set i { s.sec.rk[i] with leaf := s.sec.rk[i].leaf + 1 } }
        ∧ (s.ctxs[c].leafWait = some step → t.ctxs[c] = { s.ctxs[c] with leafWait := none }) ∧ (s.ctxs[c].leafWait ≠ some step → t.ctxs[c] = s.ctxs[c])
        ∧ (∀ k : Fin 16, k ≠ c → t.ctxs[k] = s.ctxs[k]) ∧ Only [.sec, .ctxs] s t)
  ∧ (∀ (q : SigReq) (leaf : Nat) (s : State), s.sec.queue.find? (fun x => x.leaf.isSome) = some q → q.leaf = some leaf →
      (∀ (c : Fin 16) (step : Nat), q.what = .receipt c step → Runs .signatureRelease s fun t =>
        (∃ sig : List Byte, sig.length = 2692 ∧ sig.take 4 = toBE 4 leaf
          ∧ t.ctxs[c].receipts = (s.ctxs[c].receipts ++ [({ step := step, msg := q.msg, leaf := leaf, sig := sig, signed := true } : Receipt)]).drop (s.ctxs[c].receipts.length + 1 - 8))
        ∧ t.ctxs[c].rcptIrq = true ∧ t.out = s.out ++ [.msix c 7] ∧ t.sec = { s.sec with queue := s.sec.queue.filter (· ≠ q) }
        ∧ (∀ k : Fin 16, k ≠ c → t.ctxs[k] = s.ctxs[k]) ∧ Only [.sec, .ctxs, .out] s t)
      ∧ (∀ i : Fin 32, q.what = .cert i → s.sec.rk[i].st = 1 → Runs .signatureRelease s fun t =>
        t.sec.rk[i].certified = true ∧ t.sec.rk[i].leaf = s.sec.rk[i].leaf ∧ t.sec.rk[i].job = s.sec.rk[i].job
        ∧ t.sec.rk[i].st = (if ∃ j : Fin 32, s.sec.rk[j].st = 2 ∧ s.sec.rk[j].job = s.sec.rk[i].job then 3 else 2)
        ∧ (∃ sig : List Byte, sig.length = 2820 ∧ sig.take 4 = toBE 4 leaf ∧ t.sec.rk[i].cert = q.msg ++ sig)
        ∧ (∀ j : Fin 32, j ≠ i → t.sec.rk[j] = s.sec.rk[j]) ∧ t.sec.queue = s.sec.queue.filter (· ≠ q) ∧ Only [.sec] s t)
      ∧ (q.what = .meas 2 → Runs .signatureRelease s fun t =>
        (∃ sig : List Byte, sig.length = 2820 ∧ sig.take 4 = toBE 4 leaf ∧ t.out = s.out ++ [.mgmt (q.msg ++ sig)])
        ∧ t.sec = { s.sec with queue := s.sec.queue.filter (· ≠ q), busy := s.sec.busy.filter (· ≠ 2) } ∧ Only [.sec, .out] s t))

/-- RECEIPT_KEY_READY and RECEIPT_KEY_ERASE (R468, R469): a generated key asks once for its certification, whose 160 bytes name its job and
sequence number; the selected entry is erased, with its certification, unless a LIVE context uses its job. -/
def ReceiptKeysAreCertifiedAndErased : Prop :=
  (∀ (i : Fin 32) (s : State), s.sec.rk[i].st ≠ 1 ∨ (∃ q ∈ s.sec.queue, q.what = .cert i) → exec (.receiptKeyReady i) s = .next s)
  ∧ (∀ (i : Fin 32) (s : State), s.sec.rk[i].st = 1 → (∀ q ∈ s.sec.queue, q.what ≠ .cert i) → s.sec.idLeaf < 2 ^ 20 →
      Runs (.receiptKeyReady i) s fun t => ∃ m : List Byte,
        t.sec = { s.sec with queue := s.sec.queue ++ [{ what := .cert i, tick := s.frame.toNat, msg := m }] } ∧ Only [.sec] s t
        ∧ m.length = 160 ∧ m.take 4 = [2, 0, 2, 0] ∧ (m.drop 4).take 4 = toLE 4 s.sec.rk[i].job.toNat ∧ (m.drop 8).take 4 = toLE 4 s.sec.rk[i].seq.toNat
        ∧ (m.drop 144).take 4 = toLE 4 s.bru.boot.toNat ∧ (m.drop 148).take 4 = toLE 4 (s.frame.toNat % 2 ^ 32))
  ∧ (∀ (i : Fin 32) (s : State), s.hostUp 0 = true → BV.fld s.sec.rkSel 59 5 = i.val →
      (s.sec.rk[i].st ≠ 0 → (∃ c : Fin 16, s.ctxs[c].st = .live ∧ s.ctxs[c].cfg.job = s.sec.rk[i].job) → exec .receiptKeyErase s = .next (s.access 0x16 0))
      ∧ ((∀ c : Fin 16, s.ctxs[c].st = .live → s.ctxs[c].cfg.job ≠ s.sec.rk[i].job) →
        ((∀ q ∈ s.sec.queue, q.leaf ≠ none ∨ ∃ k, q.what = SigFor.cert k) → exec .receiptKeyErase s =
          .next { s with sec := { s.sec with rk := s.sec.rk.set i {}, queue := s.sec.queue.filter fun q => q.what ≠ SigFor.cert i } })
        ∧ Runs .receiptKeyErase s fun t => t.sec.rk = s.sec.rk.set i {} ∧ ∀ q ∈ t.sec.queue, q ∈ s.sec.queue ∧ q.what ≠ SigFor.cert i))

/-- GET_VERSION, GET_CERT, GET_LEAVES and MAILBOX_GO (R472, R473): the version answer, no such key, the leaf counts; a second request on a
transport is answered busy; a malformed mailbox request is answered 0x04 and an unknown code 0x03; a request while one is outstanding in
the mailbox only sets its length. -/
def AttestationMessagesAreAnswered : Prop :=
  (∀ s : State, s.pins.vin = true → 2 ∉ s.sec.busy →
    (exec (.getVersion 2) s = .next { s with sec := { s.sec with busy := s.sec.busy.filter (· ≠ 2) }, out := s.out ++ [.mgmt [2, 0x81, 0, 0, 9, 0, 0, 0, 2]] })
    ∧ (∀ (job : BitVec 24) (seq : Nat), seq < 2 ^ 32 → (∀ i : Fin 32, s.sec.rk[i].st ≠ 0 → s.sec.rk[i].job = job → s.sec.rk[i].seq.toNat ≠ seq) →
        exec (.getCert 2 2 job.toNat seq) s = .next { s with sec := { s.sec with busy := s.sec.busy.filter (· ≠ 2) }, out := s.out ++ [.mgmt [2, 0x82, 5, 0, 8, 0, 0, 0]] })
    ∧ (Runs (.getLeaves 2) s fun t => ∃ m : List Byte, t.out = s.out ++ [.mgmt m] ∧ m.length = 140 ∧ m.take 8 = [2, 0x84, 0, 0, 140, 0, 0, 0]
        ∧ (m.drop 8).take 4 = toLE 4 (2 ^ 20 - s.sec.idLeaf)
        ∧ (∀ i : Fin 32, s.sec.rk[i].st ≠ 0 → (m.drop (12 + 4 * i.val)).take 4 = toLE 4 (65536 - s.sec.rk[i].leaf)) ∧ Only [.out, .sec] s t))
  ∧ (∀ s : State, s.pins.vin = true → 2 ∈ s.sec.busy → ∀ x ∈ ([(.getVersion 2, 0x81), (.getLeaves 2, 0x84), (.getCert 2 1 0 0, 0x82), (.getMeasurements 2 (List.replicate 32 0), 0x83)] : List (Instr × Nat)),
      exec x.1 s = .next { s with out := s.out ++ [.mgmt [2, BitVec.ofNat 8 x.2, 1, 0, 8, 0, 0, 0]] })
  ∧ (∀ (len : Nat) (s : State), s.hostUp 0 = true → 8 ≤ len → len ≤ 8192 →
      (s.sec.mboxSt = 1 → exec (.mailboxGo len) s = .next { s with sec := { s.sec with mboxLen := BitVec.ofNat 14 len } })
      ∧ (s.sec.mboxSt ≠ 1 → 0 ∉ s.sec.busy → ∀ code : BitVec 8,
        (tget 0 s.sec.mbox 0 ≠ 2 → tget 0 s.sec.mbox 1 = code → Runs (.mailboxGo len) s fun t => t.sec.mboxSt = 2 ∧ t.sec.rlen = 8
          ∧ tget 0 t.sec.mbox 0 = 2 ∧ tget 0 t.sec.mbox 1 = code ||| 0x80 ∧ tget 0 t.sec.mbox 2 = 4 ∧ Only (.sec :: Raised) s t)
        ∧ (tget 0 s.sec.mbox 0 = 2 → tget 0 s.sec.mbox 1 = code → 4 < code.toNat → code.toNat < 128 →
            (∀ k < 4, tget 0 s.sec.mbox (4 + k) = BitVec.ofNat 8 (len / 256 ^ k)) → Runs (.mailboxGo len) s fun t => t.sec.mboxSt = 2 ∧ t.sec.rlen = 8
          ∧ tget 0 t.sec.mbox 0 = 2 ∧ tget 0 t.sec.mbox 1 = code ||| 0x80 ∧ tget 0 t.sec.mbox 2 = 3 ∧ Only (.sec :: Raised) s t)))

end Sys2Proof.Stated

/-- Receipt keys are certified and erased; attestation messages are answered: the statements `ReceiptKeysAreCertifiedAndErased`
and `AttestationMessagesAreAnswered` together. -/
def Obligations.KeysAreCertifiedAndMessagesAnswered : Prop := Stated.ReceiptKeysAreCertifiedAndErased ∧ Stated.AttestationMessagesAreAnswered

/-- Each signature takes one unused leaf before it is made: the statement `SignaturesTakeALeafEach`. -/
def Obligations.SignaturesTakeALeafEach : Prop := Stated.SignaturesTakeALeafEach

/-- R474, the token bucket: it holds up to 64 tokens and each refill gains one; a GET_MEASUREMENTS that finds it empty is answered 0x02,
one that is taken draws a token and waits for its signature; once 16,384 identity leaves remain it is answered 0x06, and a leaf goes
to nothing but a certification. -/
def Obligations.MeasurementsDrawOnTheTokenBucket : Prop :=
  (∀ s : State, s.sec.tokens ≤ 64 → Runs .tokenRefill s fun t => t.sec.tokens = min 64 (s.sec.tokens + 1) ∧ t.sec.tokens ≤ 64 ∧ Only [.sec] s t)
  ∧ (∀ (nonce : List Byte) (s : State), s.pins.vin = true → nonce.length = 32 → 2 ∉ s.sec.busy →
    (s.sec.tokens = 0 → exec (.getMeasurements 2 nonce) s =
      .next { s with sec := { s.sec with busy := s.sec.busy.filter (· ≠ 2) }, out := s.out ++ [.mgmt [2, 0x83, 2, 0, 8, 0, 0, 0]] })
    ∧ (0 < s.sec.tokens → 2 ^ 20 ≤ s.sec.idLeaf + 16384 → exec (.getMeasurements 2 nonce) s =
      .next { s with sec := { s.sec with busy := s.sec.busy.filter (· ≠ 2) }, out := s.out ++ [.mgmt [2, 0x83, 6, 0, 8, 0, 0, 0]] })
    ∧ (0 < s.sec.tokens → s.sec.idLeaf + 16384 < 2 ^ 20 → Runs (.getMeasurements 2 nonce) s fun t => ∃ m : List Byte,
      t.sec = { s.sec with tokens := s.sec.tokens - 1, busy := s.sec.busy ++ [2], queue := s.sec.queue ++ [{ what := .meas 2, tick := s.frame.toNat, msg := m }] }
      ∧ (m.drop 8).take 32 = nonce ∧ Only [.sec] s t))
  ∧ (∀ s t : State, exec .leafAdvanceConfirmed s = .next t → 2 ^ 20 ≤ s.sec.idLeaf + 16384 →
      t.sec.idLeaf = s.sec.idLeaf ∨ (t.sec.idLeaf = s.sec.idLeaf + 1 ∧ ∃ q ∈ s.sec.queue, q.leaf = none ∧ ∃ i, q.what = .cert i))

/-! ### Completion -/

namespace Sys2Proof.Stated

/-- The six commands that stop in the cases R176 leaves undefined. Where they complete is said in `RowWordIssuesOneWord`,
`WritesOutsideATransactionActAtOnce`, `SubPortsRetrain`, `Bar2ReachesTheTensorsBytes`, `WindowsAreStagedForReadyTasks` and
`TicksAdvanceTheFrameAndSkip`. -/
def mayStop : Instr → Bool
  | .rowWordIssue .. => true
  | .registerWrite .. => true
  | .retrain .. => true
  | .bar2Write .. => true
  | .windowStage .. => true
  | .tideTick .. => true
  | _ => false

/-- Every other command answers a next state in every state and for all operands, and leaves the queue and the canonical form of memory. -/
def CommandsComplete : Prop :=
  ∀ (c : Instr) (s : State), mayStop c = false → Runs c s fun t => t.pending = s.pending ∧ (Memory.wf s.mem = true → Memory.wf t.mem = true)

/-- JOIN_RX, JOIN_ACK_RX (R332), RESETTING_RX and PROBE_RX (R330) in any state of the streams: a JOIN that fits joins its rank, its answer opens or
refuses it, RESETTING holds it, a PROBE brings its bitmap. -/
def RankPacketsComplete : Prop :=
  ∀ (f : Frame) (s : State), Checked s f →
    (LS.typ f.pkt.hdr = 3 → Entered s (rxC f) (rxR f) → (nth 0 f.pkt.payload 0).toNat ≤ 2 → 2 ≤ (nth 0 f.pkt.payload 1).toNat → (s.ctx (rxC f)).st = .live →
      (s.ctx (rxC f)).cfg.job.toNat = LS.job f.pkt.hdr → (s.ctx (rxC f)).cfg.rank.toNat = LS.dst f.pkt.hdr → Runs (.joinRx f) s fun t =>
        let q := t.peer (rxC f) (rxR f)
        q.joined = true ∧ q.joining = false ∧ q.unreachable = false ∧ q.held = false ∧ q.gen = (nth 0 f.pkt.payload 4).toNat
        ∧ q.bitmap = BitVec.ofNat 256 (ofLE ((f.pkt.payload.drop 16).take 32)) ∧ Only (.slots :: .pager :: Sent) s t)
    ∧ (LS.typ f.pkt.hdr = 4 → ((s.peer (rxC f) (rxR f)).joining = true ∨ (s.peer (rxC f) (rxR f)).joined = false) →
      (nth 0 f.pkt.payload 2 = 2 → nth 0 f.pkt.payload 3 = 0 → Runs (.joinAckRx f) s fun t => let q := t.peer (rxC f) (rxR f)
        q.joined = true ∧ q.joining = false ∧ q.gen = (nth 0 f.pkt.payload 4).toNat
        ∧ q.bitmap = BitVec.ofNat 256 (ofLE ((f.pkt.payload.drop 16).take 32)) ∧ Only (.slots :: .pager :: Sent) s t)
      ∧ ((nth 0 f.pkt.payload 2 ≠ 2 ∨ nth 0 f.pkt.payload 3 ≠ 0) → Runs (.joinAckRx f) s fun t =>
        (t.peer (rxC f) (rxR f)).unreachable = true ∧ t.wrk.seq ≠ s.wrk.seq ∧ Only Sent s t))
    ∧ (LS.typ f.pkt.hdr = 5 → Runs (.resettingRx f) s fun t => (t.peer (rxC f) (rxR f)).held = true ∧ Only (.pager :: .poison :: Sent) s t)
    ∧ (LS.typ f.pkt.hdr = 6 → Runs (.probeRx f) s fun t =>
        (t.peer (rxC f) (rxR f)).bitmap = BitVec.ofNat 256 (ofLE (f.pkt.payload.take 32)) ∧ Only Sent s t)

/-- CONTEXT_RESET, ENGINE_RESET, PANEL_RESET, PARTITION_RESET (R399, R406) wait for the tick of a module at rest; MODULE_FAST_PATH_RESET and
FULL_MODULE_RESET begin at once. -/
def ResetRequestsComplete : Prop :=
  ∀ (c : Fin 16) (p : Fin 32) (e : Fin 16) (d : Fin 2) (s : State), s.hostUp 0 = true → s.awake = true → s.bru.ready = true → s.esc.active = 0 →
    (s.pwr.st ≠ 3 → s.pwr.st ≠ 4 →
      exec (.contextReset c) s = .next { s with esc := { s.esc with waiting := s.esc.waiting ++ [(1, c.val, 2)] } }
      ∧ exec (.engineReset p e) s = .next { s with esc := { s.esc with waiting := s.esc.waiting ++ [(2, s.remap.eng p e, 2)] } }
      ∧ exec (.panelReset p) s = .next { s with esc := { s.esc with waiting := s.esc.waiting ++ [(3, p.val, 2)] } }
      ∧ exec (.partitionReset d) s = .next { s with esc := { s.esc with waiting := s.esc.waiting ++ [(4, d.val, 2)] } })
    ∧ Runs .moduleFastPathReset s (FastPathBegun s) ∧ Runs .fullModuleReset s (FullResetBegun s)

/-- RECEIPT_KEY_READY (R468, R471), TWIN_DELTA and TWIN_DELTA_CLOSE (R415, R416) in whatever state the key store and the twin are: a key that is being
generated asks for its certification while an identity leaf is left, and afterwards no receipt waits for it in vain; a packet of a delta, taken, is
not taken again. -/
def KeysAndDeltasComplete : Prop :=
  (∀ (i : Fin 32) (s : State), s.sec.rk[i].st = 1 → (∀ q ∈ s.sec.queue, q.what ≠ .cert i) → Runs (.receiptKeyReady i) s fun t =>
    (s.sec.idLeaf < 2 ^ 20 → ∃ q, t.sec = { s.sec with queue := s.sec.queue ++ [q] } ∧ q.what = .cert i ∧ q.leaf = none)
    ∧ (2 ^ 20 ≤ s.sec.idLeaf → t.sec.rk = s.sec.rk ∧ ∀ q ∈ t.sec.queue, q ∈ s.sec.queue))
  ∧ (∀ (f : Frame) (s : State), Fresh s f → ((arrives s f).stream (rxC f) (rxR f) 6).cum < 2 ^ 32 →
    (deltaPkt f.pkt false = true →
      (∀ u, s.tensor (rxC f) (LS.redid f.pkt.hdr % 4096 * 2 ^ 20 + rxChunk f) = some u →
        lineLedger (s.ctx (rxC f)).cfg.seed.toNat (if (s.ctx (rxC f)).cfg.adState = 1 then (s.ctx (rxC f)).cfg.adStep else (u.finStep + 1) % 2 ^ 32)
          (LS.redid f.pkt.hdr % 4096 * 2 ^ 20 + rxChunk f) (LS.offset f.pkt.hdr) f.pkt.payload = LS.ledger f.pkt.hdr) →
      Runs (.twinDelta f) s fun t => ¬InWindow t f ∧ Only (.ctxs :: .mem :: .poison :: .pager :: Sent) s t)
    ∧ (deltaPkt f.pkt true = true → ((arrives s f).stream (rxC f) (rxR f) 6).cum = LS.seq f.pkt.hdr →
      Runs (.twinDeltaClose f) s fun t => (t.ctx (rxC f)).twinOn = false ∧ (t.ctx (rxC f)).twinLed = 0
        ∧ Only (.ctxs :: .mem :: .poison :: .pager :: Sent) s t))

end Sys2Proof.Stated

/-- Every command but the six that R176 can stop completes, whatever the state and the operands; rank packets, reset requests, receipt keys and twin
deltas complete with their own effect under the spec's conditions alone: the statements `CommandsComplete`, `RankPacketsComplete`,
`ResetRequestsComplete` and `KeysAndDeltasComplete` together. -/
def Obligations.EveryCommandCompletes : Prop :=
  Stated.CommandsComplete ∧ Stated.RankPacketsComplete ∧ Stated.ResetRequestsComplete ∧ Stated.KeysAndDeltasComplete
end

