-- ==== Sys2Proof/Laws/Tables.lean ====
section
/-! SUPPORT. Laws of sparse tables: what a write leaves to read, and that the canonical form is kept. -/
namespace Sys2Proof.Machine

variable {α : Type} [DecidableEq α]

theorem twf_cons {d : α} {k : Nat} {v : α} {t : Tbl α} :
    twf d ((k, v) :: t) = true ↔ v ≠ d ∧ (∀ e ∈ t, k < e.1) ∧ twf d t = true := by
  induction t generalizing k v with
  | nil => simp [twf]
  | cons e t ih =>
    obtain ⟨k', v'⟩ := e
    simp only [twf, Bool.and_eq_true, decide_eq_true_eq, List.mem_cons, forall_eq_or_imp]
    constructor
    · rintro ⟨⟨h1, h2⟩, h3⟩
      exact ⟨h1, ⟨h2, fun e he => Nat.lt_trans h2 ((ih.1 h3).2.1 e he)⟩, h3⟩
    · rintro ⟨h1, ⟨h2, _⟩, h3⟩
      exact ⟨⟨h1, h2⟩, h3⟩

theorem twf_nil (d : α) : twf d ([] : Tbl α) = true := rfl

theorem tget_tkeep {α : Type} (d : α) (p : Nat → Bool) (t : Tbl α) (m : Nat) : tget d (tkeep p t) m = if p m then tget d t m else d := by
  induction t with
  | nil => simp [tkeep, tget]
  | cons x t ih =>
    obtain ⟨k, w⟩ := x
    unfold tkeep at ih ⊢
    rw [List.filter_cons]
    by_cases hk : p k = true <;> by_cases hm : m = k
    · subst hm; simp [tget, hk]
    · simp [tget, hk, hm, ih]
    · subst hm; simp [hk, ih]
    · simp [tget, hk, hm, ih]

theorem twf_tkeep (d : α) (p : Nat → Bool) (t : Tbl α) (h : twf d t = true) : twf d (tkeep p t) = true := by
  induction t with
  | nil => rfl
  | cons x t ih =>
    obtain ⟨k, w⟩ := x
    obtain ⟨h1, h2, h3⟩ := twf_cons.1 h
    unfold tkeep at ih ⊢
    rw [List.filter_cons]
    split
    · exact twf_cons.2 ⟨h1, fun e he => h2 e (List.mem_filter.1 he).1, ih h3⟩
    · exact ih h3

theorem mem_tput {α : Type} {t : Tbl α} {n : Nat} {v : α} {e : Nat × α} (h : e ∈ tput t n v) : e.1 = n ∨ e ∈ t := by
  induction t with
  | nil => simp_all [tput]
  | cons x t ih =>
    obtain ⟨k, w⟩ := x
    unfold tput at h
    split at h
    · rcases List.mem_cons.1 h with rfl | h
      · exact .inl rfl
      · exact .inr h
    · split at h
      · rcases List.mem_cons.1 h with rfl | h
        · exact .inl rfl
        · exact .inr (List.mem_cons_of_mem _ h)
      · rcases List.mem_cons.1 h with h | h
        · exact .inr (h ▸ List.mem_cons_self)
        · exact (ih h).imp id (List.mem_cons_of_mem _)

theorem twf_tput {d : α} {t : Tbl α} {n : Nat} {v : α} (hv : v ≠ d) (h : twf d t = true) : twf d (tput t n v) = true := by
  induction t with
  | nil => simp_all [tput, twf]
  | cons x t ih =>
    obtain ⟨k, w⟩ := x
    obtain ⟨h1, h2, h3⟩ := twf_cons.1 h
    unfold tput
    split
    · rename_i hn
      refine twf_cons.2 ⟨hv, fun e he => ?_, h⟩
      rcases List.mem_cons.1 he with rfl | he
      · exact hn
      · exact Nat.lt_trans hn (h2 e he)
    · split
      · rename_i hn; subst hn
        exact twf_cons.2 ⟨hv, h2, h3⟩
      · refine twf_cons.2 ⟨h1, fun e he => ?_, ih h3⟩
        rcases mem_tput he with he | he
        · omega
        · exact h2 e he

/-- A write keeps the canonical form. -/
theorem twf_tset (d : α) (t : Tbl α) (n : Nat) (v : α) (h : twf d t = true) : twf d (tset d t n v) = true := by
  unfold tset
  split
  · exact twf_tkeep d _ t h
  · exact twf_tput ‹_› h

theorem tget_tput {α : Type} (d : α) (t : Tbl α) (n m : Nat) (v : α) : tget d (tput t n v) m = if m = n then v else tget d t m := by
  induction t with
  | nil => simp [tput, tget]
  | cons x t ih =>
    obtain ⟨k, w⟩ := x
    unfold tput
    split
    · simp [tget]
    · split
      · rename_i hn; subst hn
        simp only [tget]; split <;> rfl
      · by_cases hm : m = k
        · subst hm; simp [tget, *]; omega
        · simp only [tget, hm, if_false, ih]

/-- What a write leaves to read, of any table. -/
theorem tget_tset (d : α) (t : Tbl α) (n m : Nat) (v : α) : tget d (tset d t n v) m = if m = n then v else tget d t m := by
  unfold tset
  split
  · subst_vars
    rw [tget_tkeep]
    by_cases hm : m = n <;> simp [hm]
  · exact tget_tput d t n m v

theorem twf_tsetMany (d : α) (l : List α) : ∀ (t : Tbl α) (k : Nat), twf d t = true → twf d (tsetMany d t k l) = true := by
  induction l with
  | nil => exact fun _ _ h => h
  | cons v r ih => exact fun t k h => ih _ _ (twf_tset d t k v h)

theorem tget_tsetMany_out (d : α) (l : List α) : ∀ (t : Tbl α) (k m : Nat), (m < k ∨ k + l.length ≤ m) →
    tget d (tsetMany d t k l) m = tget d t m := by
  induction l with
  | nil => exact fun _ _ _ _ => rfl
  | cons v r ih =>
    intro t k m hm
    rw [List.length_cons] at hm
    rw [tsetMany, ih _ _ _ (by omega), tget_tset, if_neg (by omega)]

theorem tget_tsetMany_in (d : α) (l : List α) : ∀ (t : Tbl α) (k i : Nat), (hi : i < l.length) →
    tget d (tsetMany d t k l) (k + i) = l[i] := by
  induction l with
  | nil => intro _ _ _ hi; exact absurd hi (Nat.not_lt_zero _)
  | cons v r ih =>
    intro t k i hi
    cases i with
    | zero =>
      rw [tsetMany, tget_tsetMany_out d r _ _ _ (by omega), tget_tset]
      simp
    | succ i =>
      rw [List.length_cons] at hi
      have := ih (tset d t k v) (k + 1) i (by omega)
      rw [tsetMany, show k + (i + 1) = k + 1 + i by omega, this]
      rfl

/-! ### Memory -/

/-- A memory with bytes written keeps the canonical form. -/
theorem Memory.wf_wrBs {m : Tbl Byte} (k : Nat) (l : List Byte) (h : Memory.wf m = true) : Memory.wf (wrBs m k l) = true :=
  twf_tsetMany 0 l m k h
/-- A memory with one byte written keeps the canonical form. -/
theorem Memory.wf_tset {m : Tbl Byte} (k : Nat) (b : Byte) (h : Memory.wf m = true) : Memory.wf (tset 0 m k b) = true :=
  twf_tset 0 m k b h
/-- A memory with one byte written keeps the canonical form. -/
theorem Memory.wf_wrB {m : Tbl Byte} (k : Nat) (b : Byte) (h : Memory.wf m = true) : Memory.wf (wrB m k b) = true :=
  twf_tset 0 m k b h
/-- A memory of which some addresses are forgotten keeps the canonical form. -/
theorem Memory.wf_tkeep {m : Tbl Byte} (p : Nat → Bool) (h : Memory.wf m = true) : Memory.wf (tkeep p m) = true :=
  twf_tkeep 0 p m h
/-- The empty memory has the canonical form. -/
theorem Memory.wf_nil : Memory.wf [] = true := rfl
/-- Bytes outside a write read as before. -/
theorem rd_wrBs_out {m : Tbl Byte} (k : Nat) (l : List Byte) (a : Nat) (ha : a < k ∨ k + l.length ≤ a) :
    tget 0 (wrBs m k l) a = tget 0 m a := tget_tsetMany_out 0 l m k a ha
/-- Bytes inside a write read as written. -/
theorem rd_wrBs_in {m : Tbl Byte} (k : Nat) (l : List Byte) (i : Nat) (hi : i < l.length) :
    tget 0 (wrBs m k l) (k + i) = l[i] := tget_tsetMany_in 0 l m k i hi

end Sys2Proof.Machine
end

