-- ==== Sys2Proof/Laws/Keep.lean ====
section
/-! SUPPORT. What no command may touch: the queue, and the canonical form of memory. The files Keep*.lean say it of every
operation and of every meaning. -/
namespace Sys2Proof.Machine

/-- A step keeps what no command may touch: the queue of waiting commands is as it was, and a memory in canonical form stays so. -/
structure Keep (s t : State) : Prop where
  queue : t.pending = s.pending
  mem : Memory.wf s.mem = true → Memory.wf t.mem = true

theorem Keep.refl (s : State) : Keep s s := ⟨rfl, id⟩
theorem Keep.trans {a b c : State} (h : Keep a b) (k : Keep b c) : Keep a c := ⟨k.queue.trans h.queue, fun x => k.mem (h.mem x)⟩
/-- An update of anything else keeps both. -/
theorem Keep.upd {s t : State} (h : Keep s t) {frame tickRun panels ctxs slots poison fab tdp pager swt esc wrk dump remap bru host pwr pins
  wer sec wire out fresh} : Keep s { frame, tickRun, panels, ctxs, slots, mem := t.mem, poison, fab, tdp, pager, swt, esc, wrk, dump, remap, bru, host, pwr, pins, wer, sec, wire, out, fresh, pending := t.pending } :=
  ⟨h.queue, h.mem⟩
/-- An update of memory that keeps its form keeps both. -/
theorem Keep.memory {s t : State} (h : Keep s t) {m : Tbl Byte} (hm : Memory.wf t.mem = true → Memory.wf m = true) {frame tickRun panels ctxs slots poison fab tdp pager swt esc wrk dump remap bru host pwr pins
  wer sec wire out fresh} : Keep s { frame, tickRun, panels, ctxs, slots, mem := m, poison, fab, tdp, pager, swt, esc, wrk, dump, remap, bru, host, pwr, pins, wer, sec, wire, out, fresh, pending := t.pending } :=
  ⟨h.queue, fun x => hm (h.mem x)⟩
/-- A fold of operations that each keep both. -/
theorem Keep.fold {α : Type} {s : State} {f : State → α → State} (hf : ∀ t x, Keep s t → Keep s (f t x)) (l : List α) :
    ∀ t, Keep s t → Keep s (l.foldl f t) := by
  induction l with
  | nil => exact fun _ h => h
  | cons x l ih => exact fun t h => ih _ (hf t x h)
theorem Keep.foldFst {α β : Type} {s : State} {f : State × β → α → State × β} (hf : ∀ t x, Keep s t.1 → Keep s (f t x).1) (l : List α) :
    ∀ t, Keep s t.1 → Keep s (l.foldl f t).1 := by
  induction l with
  | nil => exact fun _ h => h
  | cons x l ih => exact fun t h => ih _ (hf t x h)
theorem Keep.foldSnd {α β : Type} {s : State} {f : β × State → α → β × State} (hf : ∀ t x, Keep s t.2 → Keep s (f t x).2) (l : List α) :
    ∀ t, Keep s t.2 → Keep s (l.foldl f t).2 := by
  induction l with
  | nil => exact fun _ h => h
  | cons x l ih => exact fun t h => ih _ (hf t x h)
theorem Keep.fst {β : Type} {s t : State} {p : State × β} {b : β} (e : p = (t, b)) (hp : Keep s p.1) : Keep s t := by subst e; exact hp
theorem Keep.snd {β : Type} {s t : State} {p : β × State} {b : β} (e : p = (b, t)) (hp : Keep s p.2) : Keep s t := by subst e; exact hp

theorem Keep.getD {s d : State} {o : Option State} (ho : ∀ u, o = some u → Keep s u) (hd : Keep s d) : Keep s (o.getD d) := by
  cases o with
  | none => exact hd
  | some u => exact ho u rfl

/-- Every next state of an outcome keeps both. -/
structure Keeps (s : State) (o : Host.Outcome State Fault Refusal) : Prop where
  next : ∀ u, o = .next u → Keep s u
theorem Keeps.of {s u : State} (h : Keep s u) : Keeps s (.next u) := ⟨fun _ e => Host.Outcome.next.inj e ▸ h⟩
theorem Keeps.fault {s : State} (f : Fault) : Keeps s (.fault f) := ⟨fun _ e => nomatch e⟩

end Sys2Proof.Machine
end

