-- ==== Sys2Proof/Laws/Memory.lean ====
section
/-! SUPPORT. Every operation that writes memory keeps its canonical form. -/
namespace Sys2Proof.Machine

theorem Memory.wf_fold {α : Type} {f : Tbl Byte → α → Tbl Byte} (hf : ∀ m x, Memory.wf m = true → Memory.wf (f m x) = true) (l : List α) :
    ∀ m, Memory.wf m = true → Memory.wf (l.foldl f m) = true := by
  induction l with
  | nil => exact fun _ h => h
  | cons x l ih => exact fun m h => ih _ (hf m x h)
theorem Memory.wf_foldFst {α β : Type} {f : Tbl Byte × β → α → Tbl Byte × β} (hf : ∀ p x, Memory.wf p.1 = true → Memory.wf (f p x).1 = true)
    (l : List α) : ∀ p, Memory.wf p.1 = true → Memory.wf (l.foldl f p).1 = true := by
  induction l with
  | nil => exact fun _ h => h
  | cons x l ih => exact fun m h => ih _ (hf m x h)
theorem Memory.wf_wrBits {m : Tbl Byte} (k bit w v : Nat) (h : Memory.wf m = true) : Memory.wf (wrBits m k bit w v) = true :=
  Memory.wf_wrBs _ _ h
theorem TRec.retag_wf {m : Tbl Byte} (t : TRec) (base row c0 n : Nat) (h : Memory.wf m = true) : Memory.wf (t.retag m base row c0 n) = true := by
  unfold TRec.retag
  split
  · exact h
  · exact Memory.wf_fold (fun _ _ h => Memory.wf_wrB _ _ h) _ _ h
theorem TRec.reshadow_wf {m : Tbl Byte} (t : TRec) (base row : Nat) (h : Memory.wf m = true) : Memory.wf (t.reshadow m base row) = true := by
  unfold TRec.reshadow
  split
  · exact h
  · exact Memory.wf_wrB _ _ (Memory.wf_wrBs _ _ (Memory.wf_fold (fun _ _ h => Memory.wf_wrBits _ _ _ _ h) _ _ h))
theorem TRec.fill_wf {m : Tbl Byte} (t : TRec) (base : Nat) (h : Memory.wf m = true) : Memory.wf (t.fill m base) = true := by
  unfold TRec.fill
  dsimp only
  repeat' first | assumption | split | apply Memory.wf_wrBs | apply Memory.wf_fold | intro _
theorem TRec.copyRow_wf {m : Tbl Byte} (t : TRec) (row : Nat) (h : Memory.wf m = true) : Memory.wf (t.copyRow m row) = true := by
  unfold TRec.copyRow
  dsimp only
  repeat' first | assumption | split | apply Memory.wf_wrBs
theorem TRec.putBlock_wf {m : Tbl Byte} (t : TRec) (base row b : Nat) (l : List Byte) (h : Memory.wf m = true) :
    Memory.wf (t.putBlock m base row b l) = true := by
  unfold TRec.putBlock
  dsimp only
  repeat' first | assumption | split | apply Memory.wf_wrBs
theorem TRec.writeRow_wf {m : Tbl Byte} (t : TRec) (base row c0 : Nat) (h : WrHow) (om : Nat → Nat) (xs : List Ex) (hm : Memory.wf m = true) :
    Memory.wf (t.writeRow m base row c0 h om xs).1 = true := by
  unfold TRec.writeRow
  dsimp only
  split
  · exact hm
  · refine TRec.reshadow_wf _ _ _ (TRec.retag_wf _ _ _ _ _ ?_)
    split
    · exact Memory.wf_wrBs _ _ (Memory.wf_wrBs _ _ (Memory.wf_fold (fun _ _ h => Memory.wf_wrBits _ _ _ _ h) _ _ hm))
    · split
      · exact Memory.wf_foldFst (fun _ _ h => Memory.wf_wrBs _ _ (Memory.wf_fold (fun _ _ h => Memory.wf_wrBits _ _ _ _ h) _ _ h)) _ _ hm
      · exact Memory.wf_foldFst (fun _ _ h => Memory.wf_wrBits _ _ _ _ h) _ _ hm

end Sys2Proof.Machine
end

