-- ==== Sys2Proof/Laws/KeepOps.lean ====
section
/-! SUPPORT. The operations of Machine/Ops.lean keep the queue and the form of memory. -/
namespace Sys2Proof.Machine

variable {s t : State}

theorem State.setCtx_keep (h : Keep s t) (a1 : Nat) (a2 : Ctx) : Keep s (State.setCtx t a1 a2) := by
  unfold State.setCtx
  try extract_lets
  repeat' first | with_reducible assumption | split | intro _ | with_reducible (refine Keep.upd ?_) | with_reducible (refine Keep.fst (by assumption) ?_) | with_reducible (refine Keep.snd (by assumption) ?_) | dsimp only

theorem State.setSlot_keep (h : Keep s t) (a1 : Nat) (a2 : Slot) : Keep s (State.setSlot t a1 a2) := by
  unfold State.setSlot
  try extract_lets
  repeat' first | with_reducible assumption | split | intro _ | with_reducible (refine Keep.upd ?_) | with_reducible (refine Keep.fst (by assumption) ?_) | with_reducible (refine Keep.snd (by assumption) ?_) | dsimp only

theorem State.setPanel_keep (h : Keep s t) (a1 : Nat) (a2 : Panel) : Keep s (State.setPanel t a1 a2) := by
  unfold State.setPanel
  try extract_lets
  repeat' first | with_reducible assumption | split | intro _ | with_reducible (refine Keep.upd ?_) | with_reducible (refine Keep.fst (by assumption) ?_) | with_reducible (refine Keep.snd (by assumption) ?_) | dsimp only

theorem State.setPort_keep (h : Keep s t) (a1 : Nat) (a2 : Port) : Keep s (State.setPort t a1 a2) := by
  unfold State.setPort
  try extract_lets
  repeat' first | with_reducible assumption | split | intro _ | with_reducible (refine Keep.upd ?_) | with_reducible (refine Keep.fst (by assumption) ?_) | with_reducible (refine Keep.snd (by assumption) ?_) | dsimp only

theorem State.setTxn_keep (h : Keep s t) (a1 : Nat) (a2 : Txn) : Keep s (State.setTxn t a1 a2) := by
  unfold State.setTxn
  try extract_lets
  repeat' first | with_reducible assumption | split | intro _ | with_reducible (refine Keep.upd ?_) | with_reducible (refine Keep.fst (by assumption) ?_) | with_reducible (refine Keep.snd (by assumption) ?_) | dsimp only

theorem State.draw_keep (h : Keep s t) : Keep s (State.draw t).2 := by
  unfold State.draw
  try extract_lets
  repeat' first | with_reducible assumption | split | intro _ | with_reducible (refine Keep.upd ?_) | with_reducible (refine Keep.fst (by assumption) ?_) | with_reducible (refine Keep.snd (by assumption) ?_) | dsimp only

theorem State.sendFrames_keep (h : Keep s t) (a1 : List Frame) : Keep s (State.sendFrames t a1) := by
  unfold State.sendFrames
  try extract_lets
  repeat' first | with_reducible assumption | split | intro _ | with_reducible (refine Keep.upd ?_) | with_reducible (refine Keep.fst (by assumption) ?_) | with_reducible (refine Keep.snd (by assumption) ?_) | dsimp only

theorem State.emit_keep (h : Keep s t) (a1 : Out) : Keep s (State.emit t a1) := by
  unfold State.emit
  try extract_lets
  repeat' first | with_reducible assumption | split | intro _ | with_reducible (refine Keep.upd ?_) | with_reducible (refine Keep.fst (by assumption) ?_) | with_reducible (refine Keep.snd (by assumption) ?_) | dsimp only

theorem State.fire_keep (h : Keep s t) (a1 : Nat) (a2 : Nat) : Keep s (State.fire t a1 a2) := by
  unfold State.fire
  try extract_lets
  repeat' first | with_reducible assumption | with_reducible apply State.emit_keep | split | intro _ | with_reducible (refine Keep.fst (by assumption) ?_) | with_reducible (refine Keep.snd (by assumption) ?_) | dsimp only

theorem State.hold_keep (h : Keep s t) (a1 : Nat) (a2 : Nat) : Keep s (State.hold t a1 a2) := by
  unfold State.hold
  try extract_lets
  repeat' first | with_reducible assumption | split | intro _ | with_reducible (refine Keep.upd ?_) | with_reducible (refine Keep.fst (by assumption) ?_) | with_reducible (refine Keep.snd (by assumption) ?_) | dsimp only

theorem State.release_keep (h : Keep s t) (a1 : Nat) (a2 : Nat) : Keep s (State.release t a1 a2) := by
  unfold State.release
  try extract_lets
  repeat' first | with_reducible assumption | split | intro _ | with_reducible (refine Keep.upd ?_) | with_reducible (refine Keep.fst (by assumption) ?_) | with_reducible (refine Keep.snd (by assumption) ?_) | dsimp only

theorem State.err_keep (h : Keep s t) (a1 : Nat) (a2 : Nat) (a3 : Nat) : Keep s (State.err t a1 a2 a3) := by
  unfold State.err
  try extract_lets
  repeat' first | with_reducible assumption | split | intro _ | with_reducible (refine Keep.upd ?_) | with_reducible (refine Keep.fst (by assumption) ?_) | with_reducible (refine Keep.snd (by assumption) ?_) | dsimp only

theorem State.access_keep (h : Keep s t) (a1 : Nat) (a2 : Nat) : Keep s (State.access t a1 a2) := by
  unfold State.access
  try extract_lets
  repeat' first | with_reducible assumption | with_reducible apply State.err_keep | split | intro _ | with_reducible (refine Keep.fst (by assumption) ?_) | with_reducible (refine Keep.snd (by assumption) ?_) | dsimp only

theorem State.escSet_keep (h : Keep s t) (a1 : Nat) : Keep s (State.escSet t a1) := by
  unfold State.escSet
  try extract_lets
  repeat' first | with_reducible assumption | with_reducible apply State.hold_keep | split | with_reducible apply Keep.fold | with_reducible apply Keep.foldFst | with_reducible apply Keep.foldSnd | intro _ | with_reducible (refine Keep.upd ?_) | with_reducible (refine Keep.fst (by assumption) ?_) | with_reducible (refine Keep.snd (by assumption) ?_) | dsimp only

theorem State.pwrSet_keep (h : Keep s t) (a1 : Nat) : Keep s (State.pwrSet t a1) := by
  unfold State.pwrSet
  try extract_lets
  repeat' first | with_reducible assumption | with_reducible apply State.hold_keep | split | intro _ | with_reducible (refine Keep.upd ?_) | with_reducible (refine Keep.fst (by assumption) ?_) | with_reducible (refine Keep.snd (by assumption) ?_) | dsimp only

theorem State.log_keep (h : Keep s t) (a1 : Ev) : Keep s (State.log t a1) := by
  unfold State.log
  try extract_lets
  repeat' first | with_reducible assumption | with_reducible apply State.fire_keep | split | intro _ | with_reducible (refine Keep.upd ?_) | with_reducible (refine Keep.fst (by assumption) ?_) | with_reducible (refine Keep.snd (by assumption) ?_) | dsimp only

theorem State.mark_keep (h : Keep s t) (a1 : Nat) (a2 : Nat) (a3 : Bool) : Keep s (State.mark t a1 a2 a3) := by
  unfold State.mark
  try extract_lets
  repeat' first | with_reducible assumption | split | with_reducible apply Keep.fold | with_reducible apply Keep.foldFst | with_reducible apply Keep.foldSnd | intro _ | with_reducible (refine Keep.upd ?_) | with_reducible (refine Keep.fst (by assumption) ?_) | with_reducible (refine Keep.snd (by assumption) ?_) | dsimp only

theorem State.poisonRange_keep (h : Keep s t) (a1 : Nat) (a2 : Nat) : Keep s (State.poisonRange t a1 a2) := by
  unfold State.poisonRange
  try extract_lets
  repeat' first | with_reducible assumption | split | with_reducible apply Keep.fold | with_reducible apply Keep.foldFst | with_reducible apply Keep.foldSnd | intro _ | with_reducible (refine Keep.upd ?_) | with_reducible (refine Keep.fst (by assumption) ?_) | with_reducible (refine Keep.snd (by assumption) ?_) | dsimp only

theorem State.framePage_keep (h : Keep s t) (a1 : Nat) : Keep s (State.framePage t a1) := by
  unfold State.framePage
  try extract_lets
  repeat' first | with_reducible assumption | split | intro _ | with_reducible (refine Keep.upd ?_) | with_reducible (refine Keep.fst (by assumption) ?_) | with_reducible (refine Keep.snd (by assumption) ?_) | dsimp only

theorem State.attachPage_keep (h : Keep s t) (a1 : Nat) : Keep s (State.attachPage t a1) := by
  unfold State.attachPage
  try extract_lets
  repeat' first | with_reducible assumption | with_reducible apply State.framePage_keep | split | intro _ | with_reducible (refine Keep.upd ?_) | with_reducible (refine Keep.fst (by assumption) ?_) | with_reducible (refine Keep.snd (by assumption) ?_) | dsimp only

theorem State.attach_keep (h : Keep s t) (a1 : Nat) (a2 : Nat) : Keep s (State.attach t a1 a2) := by
  unfold State.attach
  try extract_lets
  repeat' first | with_reducible assumption | with_reducible apply State.attachPage_keep | split | with_reducible apply Keep.fold | with_reducible apply Keep.foldFst | with_reducible apply Keep.foldSnd | intro _ | with_reducible (refine Keep.fst (by assumption) ?_) | with_reducible (refine Keep.snd (by assumption) ?_) | dsimp only

theorem State.attachRow_keep (h : Keep s t) (a1 : TRec) (a2 : Nat) (a3 : Nat) : Keep s (State.attachRow t a1 a2 a3) := by
  unfold State.attachRow
  try extract_lets
  repeat' first | with_reducible assumption | with_reducible apply State.attach_keep | split | with_reducible apply Keep.fold | with_reducible apply Keep.foldFst | with_reducible apply Keep.foldSnd | intro _ | with_reducible (refine Keep.fst (by assumption) ?_) | with_reducible (refine Keep.snd (by assumption) ?_) | dsimp only

theorem State.store_keep (h : Keep s t) (c a : Nat) (l : List Byte) (bad : Bool) : Keep s (t.store c a l bad) := by
  unfold State.store
  exact State.attach_keep (State.mark_keep (Keep.memory h (Memory.wf_wrBs _ _)) _ _ _) _ _

theorem State.raiseFlag_keep (h : Keep s t) (a1 : Nat) (a2 : Nat) : Keep s (State.raiseFlag t a1 a2) := by
  unfold State.raiseFlag
  try extract_lets
  repeat' first | with_reducible assumption | with_reducible apply State.setCtx_keep | split | intro _ | with_reducible (refine Keep.upd ?_) | with_reducible (refine Keep.fst (by assumption) ?_) | with_reducible (refine Keep.snd (by assumption) ?_) | dsimp only

theorem State.leaveSlot_keep (h : Keep s t) (a1 : Nat) (a2 : SlotSt) : Keep s (State.leaveSlot t a1 a2) := by
  unfold State.leaveSlot
  try extract_lets
  repeat' first | with_reducible assumption | with_reducible apply State.setSlot_keep | with_reducible apply State.fire_keep | split | intro _ | with_reducible (refine Keep.upd ?_) | with_reducible (refine Keep.fst (by assumption) ?_) | with_reducible (refine Keep.snd (by assumption) ?_) | dsimp only

end Sys2Proof.Machine
end

