-- ==== Sys2Proof/Laws/KeepSlots.lean ====
section
/-! SUPPORT. The operations of Machine/Slots.lean keep the queue and the form of memory. -/
namespace Sys2Proof.Machine

variable {s t : State}

theorem State.writeRecord_keep (h : Keep s t) (a1 : Nat) (a2 : Nat) : Keep s (State.writeRecord t a1 a2) := by
  unfold State.writeRecord
  try extract_lets
  repeat' first | with_reducible assumption | with_reducible apply State.store_keep | split | intro _ | with_reducible (refine Keep.fst (by assumption) ?_) | with_reducible (refine Keep.snd (by assumption) ?_) | dsimp only

theorem State.clearRecords_keep (h : Keep s t) (a1 : Nat) : Keep s (State.clearRecords t a1) := by
  unfold State.clearRecords
  try extract_lets
  repeat' first | with_reducible assumption | with_reducible apply State.store_keep | split | intro _ | with_reducible (refine Keep.fst (by assumption) ?_) | with_reducible (refine Keep.snd (by assumption) ?_) | dsimp only

theorem State.finishTask_keep (h : Keep s t) (a1 : Nat) (a2 : Nat) (a3 : Nat) (a4 : BitVec 64 := 0) : Keep s (State.finishTask t a1 a2 a3 a4) := by
  unfold State.finishTask
  try extract_lets
  repeat' first | with_reducible assumption | with_reducible apply State.setCtx_keep | with_reducible apply State.setSlot_keep | with_reducible apply State.writeRecord_keep | split | intro _ | with_reducible (refine Keep.upd ?_) | with_reducible (refine Keep.fst (by assumption) ?_) | with_reducible (refine Keep.snd (by assumption) ?_) | dsimp only

theorem State.finishAll_keep (h : Keep s t) (a1 : Nat) (a2 : Nat) : Keep s (State.finishAll t a1 a2) := by
  unfold State.finishAll
  try extract_lets
  repeat' first | with_reducible assumption | with_reducible apply State.finishTask_keep | split | with_reducible apply Keep.fold | with_reducible apply Keep.foldFst | with_reducible apply Keep.foldSnd | intro _ | with_reducible (refine Keep.fst (by assumption) ?_) | with_reducible (refine Keep.snd (by assumption) ?_) | dsimp only

theorem State.dropWork_keep (h : Keep s t) (a1 : Nat) : Keep s (State.dropWork t a1) := by
  unfold State.dropWork
  try extract_lets
  repeat' first | with_reducible assumption | split | intro _ | with_reducible (refine Keep.upd ?_) | with_reducible (refine Keep.fst (by assumption) ?_) | with_reducible (refine Keep.snd (by assumption) ?_) | dsimp only

theorem State.settleSlot_keep (h : Keep s t) (a1 : Nat) : Keep s (State.settleSlot t a1) := by
  unfold State.settleSlot
  try extract_lets
  repeat' first | with_reducible assumption | with_reducible apply State.leaveSlot_keep | with_reducible apply State.dropWork_keep | split | intro _ | with_reducible (refine Keep.fst (by assumption) ?_) | with_reducible (refine Keep.snd (by assumption) ?_) | dsimp only

theorem State.fence_keep (h : Keep s t) (a1 : Nat) : Keep s (State.fence t a1) := by
  unfold State.fence
  try extract_lets
  repeat' first | with_reducible assumption | with_reducible apply State.log_keep | split | intro _ | with_reducible (refine Keep.upd ?_) | with_reducible (refine Keep.fst (by assumption) ?_) | with_reducible (refine Keep.snd (by assumption) ?_) | dsimp only

theorem State.countTransient_keep (h : Keep s t) (a1 : Nat) : Keep s (State.countTransient t a1) := by
  unfold State.countTransient
  try extract_lets
  repeat' first | with_reducible assumption | with_reducible apply State.fence_keep | split | intro _ | with_reducible (refine Keep.upd ?_) | with_reducible (refine Keep.fst (by assumption) ?_) | with_reducible (refine Keep.snd (by assumption) ?_) | dsimp only

theorem State.closeSuspects_keep (h : Keep s t) (a1 : Nat) : Keep s (State.closeSuspects t a1) := by
  unfold State.closeSuspects
  try extract_lets
  repeat' first | with_reducible assumption | with_reducible apply State.log_keep | with_reducible apply State.countTransient_keep | split | with_reducible apply Keep.fold | with_reducible apply Keep.foldFst | with_reducible apply Keep.foldSnd | intro _ | with_reducible (refine Keep.upd ?_) | with_reducible (refine Keep.fst (by assumption) ?_) | with_reducible (refine Keep.snd (by assumption) ?_) | dsimp only

theorem State.dropStep_keep (h : Keep s t) (a1 : Nat) : Keep s (State.dropStep t a1) := by
  unfold State.dropStep
  try extract_lets
  repeat' first | with_reducible assumption | with_reducible apply State.setCtx_keep | with_reducible apply State.escSet_keep | with_reducible apply State.log_keep | with_reducible apply State.finishAll_keep | with_reducible apply State.dropWork_keep | with_reducible apply State.closeSuspects_keep | split | intro _ | with_reducible (refine Keep.upd ?_) | with_reducible (refine Keep.fst (by assumption) ?_) | with_reducible (refine Keep.snd (by assumption) ?_) | dsimp only

theorem State.abandonStep_keep (h : Keep s t) (a1 : Nat) : Keep s (State.abandonStep t a1) := by
  unfold State.abandonStep
  try extract_lets
  repeat' first | with_reducible assumption | with_reducible apply State.leaveSlot_keep | with_reducible apply State.dropStep_keep | split | intro _ | with_reducible (refine Keep.fst (by assumption) ?_) | with_reducible (refine Keep.snd (by assumption) ?_) | dsimp only

theorem State.failMark_keep (h : Keep s t) (a1 : Nat) (a2 : Bool) : Keep s (State.failMark t a1 a2) := by
  unfold State.failMark
  try extract_lets
  repeat' first | with_reducible assumption | with_reducible apply State.setSlot_keep | with_reducible apply State.finishTask_keep | split | with_reducible apply Keep.fold | with_reducible apply Keep.foldFst | with_reducible apply Keep.foldSnd | intro _ | with_reducible (refine Keep.upd ?_) | with_reducible (refine Keep.fst (by assumption) ?_) | with_reducible (refine Keep.snd (by assumption) ?_) | dsimp only

theorem State.failAttempt_keep (h : Keep s t) (a1 : Nat) (a2 : Bool) : Keep s (State.failAttempt t a1 a2) := by
  unfold State.failAttempt
  try extract_lets
  repeat' first | with_reducible assumption | with_reducible apply State.failMark_keep | split | intro _ | with_reducible (refine Keep.fst (by assumption) ?_) | with_reducible (refine Keep.snd (by assumption) ?_) | dsimp only

theorem State.endsWith_keep (h : Keep s t) (a1 : Nat) (a2 : Nat) (a3 : Nat) : Keep s (State.endsWith t a1 a2 a3) := by
  unfold State.endsWith
  try extract_lets
  repeat' first | with_reducible assumption | with_reducible apply State.setSlot_keep | split | intro _ | with_reducible (refine Keep.upd ?_) | with_reducible (refine Keep.fst (by assumption) ?_) | with_reducible (refine Keep.snd (by assumption) ?_) | dsimp only

theorem State.stopFault_keep (h : Keep s t) (a1 : Nat) (a2 : Nat) (a3 : BitVec 64) : Keep s (State.stopFault t a1 a2 a3) := by
  unfold State.stopFault
  try extract_lets
  repeat' first | with_reducible assumption | with_reducible apply State.setSlot_keep | with_reducible apply State.finishTask_keep | split | intro _ | with_reducible (refine Keep.upd ?_) | with_reducible (refine Keep.fst (by assumption) ?_) | with_reducible (refine Keep.snd (by assumption) ?_) | dsimp only

theorem State.cancelSlot_keep (h : Keep s t) (a1 : Nat) : Keep s (State.cancelSlot t a1) := by
  unfold State.cancelSlot
  try dsimp only
  repeat' first | with_reducible assumption | with_reducible apply State.setCtx_keep | with_reducible apply State.setSlot_keep | with_reducible apply State.finishAll_keep | with_reducible apply State.dropWork_keep | with_reducible apply State.settleSlot_keep | with_reducible apply State.closeSuspects_keep | split | intro _ | with_reducible (refine Keep.upd ?_) | with_reducible (refine Keep.fst (by assumption) ?_) | with_reducible (refine Keep.snd (by assumption) ?_) | dsimp only

theorem State.armSlot_keep (h : Keep s t) (a1 : Nat) (a2 : Nat) (a3 : Bool) : Keep s (State.armSlot t a1 a2 a3) := by
  unfold State.armSlot
  try extract_lets
  repeat' first | with_reducible assumption | with_reducible apply State.setSlot_keep | split | intro _ | with_reducible (refine Keep.upd ?_) | with_reducible (refine Keep.fst (by assumption) ?_) | with_reducible (refine Keep.snd (by assumption) ?_) | dsimp only

theorem State.endAdmission_keep (h : Keep s t) (a1 : Nat) : Keep s (State.endAdmission t a1) := by
  unfold State.endAdmission
  try extract_lets
  repeat' first | with_reducible assumption | with_reducible apply State.setCtx_keep | with_reducible apply State.setSlot_keep | with_reducible apply State.draw_keep | split | intro _ | with_reducible (refine Keep.upd ?_) | with_reducible (refine Keep.fst (by assumption) ?_) | with_reducible (refine Keep.snd (by assumption) ?_) | dsimp only

theorem State.resetTasks_keep (h : Keep s t) (a1 : Nat) : Keep s (State.resetTasks t a1) := by
  unfold State.resetTasks
  try extract_lets
  repeat' first | with_reducible assumption | with_reducible apply State.setSlot_keep | with_reducible apply State.clearRecords_keep | split | intro _ | with_reducible (refine Keep.upd ?_) | with_reducible (refine Keep.fst (by assumption) ?_) | with_reducible (refine Keep.snd (by assumption) ?_) | dsimp only

theorem State.leaveDue_keep (h : Keep s t) (a1 : Nat) : Keep s (State.leaveDue t a1) := by
  unfold State.leaveDue
  try extract_lets
  repeat' first | with_reducible assumption | with_reducible apply State.setSlot_keep | with_reducible apply State.leaveSlot_keep | split | intro _ | with_reducible (refine Keep.upd ?_) | with_reducible (refine Keep.fst (by assumption) ?_) | with_reducible (refine Keep.snd (by assumption) ?_) | dsimp only

theorem State.startSlot_keep (h : Keep s t) (a1 : Nat) : Keep s (State.startSlot t a1) := by
  unfold State.startSlot
  try extract_lets
  repeat' first | with_reducible assumption | with_reducible apply State.setCtx_keep | with_reducible apply State.setSlot_keep | with_reducible apply State.leaveSlot_keep | with_reducible apply State.resetTasks_keep | split | intro _ | with_reducible (refine Keep.upd ?_) | with_reducible (refine Keep.fst (by assumption) ?_) | with_reducible (refine Keep.snd (by assumption) ?_) | dsimp only

theorem State.doneSlot_keep (h : Keep s t) (a1 : Nat) : Keep s (State.doneSlot t a1) := by
  unfold State.doneSlot
  try extract_lets
  repeat' first | with_reducible assumption | with_reducible apply State.leaveSlot_keep | split | intro _ | with_reducible (refine Keep.fst (by assumption) ?_) | with_reducible (refine Keep.snd (by assumption) ?_) | dsimp only

end Sys2Proof.Machine
end

