-- ==== Sys2Proof/Laws/KeepCtxs.lean ====
section
/-! SUPPORT. The operations of Machine/Ctxs.lean keep the queue and the form of memory. -/
namespace Sys2Proof.Machine

variable {s t : State}

theorem State.freeRange_keep (h : Keep s t) (a1 : Nat) (a2 : Nat) (a3 : Nat) : Keep s (State.freeRange t a1 a2 a3) := by
  unfold State.freeRange
  try extract_lets
  repeat' first | with_reducible assumption | split | intro _ | with_reducible (refine Keep.upd ?_) | with_reducible (refine Keep.memory ?_ (fun _ => ?_)) | with_reducible apply Memory.wf_wrBs | with_reducible apply Memory.wf_wrB | with_reducible apply Memory.wf_tset | with_reducible apply Memory.wf_tkeep | with_reducible apply TRec.retag_wf | with_reducible apply TRec.reshadow_wf | with_reducible apply TRec.fill_wf | with_reducible apply TRec.copyRow_wf | with_reducible apply TRec.putBlock_wf | with_reducible apply TRec.writeRow_wf | with_reducible apply Memory.wf_fold | with_reducible exact Memory.wf_nil | with_reducible (refine Keep.fst (by assumption) ?_) | with_reducible (refine Keep.snd (by assumption) ?_) | dsimp only

theorem State.clearApt_keep (h : Keep s t) (a1 : Nat) (a2 : Nat) : Keep s (State.clearApt t a1 a2) := by
  unfold State.clearApt
  try extract_lets
  repeat' first | with_reducible assumption | split | intro _ | with_reducible (refine Keep.upd ?_) | with_reducible (refine Keep.fst (by assumption) ?_) | with_reducible (refine Keep.snd (by assumption) ?_) | dsimp only

theorem State.dropTensor_keep (h : Keep s t) (a1 : TRec) : Keep s (State.dropTensor t a1) := by
  unfold State.dropTensor
  try extract_lets
  repeat' first | with_reducible assumption | with_reducible apply State.setCtx_keep | with_reducible apply State.freeRange_keep | with_reducible apply State.clearApt_keep | split | intro _ | with_reducible (refine Keep.upd ?_) | with_reducible (refine Keep.fst (by assumption) ?_) | with_reducible (refine Keep.snd (by assumption) ?_) | dsimp only

theorem State.destroy_keep (h : Keep s t) (a1 : TRec) : Keep s (State.destroy t a1) := by
  unfold State.destroy
  try extract_lets
  repeat' first | with_reducible assumption | with_reducible apply State.setCtx_keep | with_reducible apply State.clearApt_keep | with_reducible apply State.dropTensor_keep | split | intro _ | with_reducible (refine Keep.upd ?_) | with_reducible (refine Keep.fst (by assumption) ?_) | with_reducible (refine Keep.snd (by assumption) ?_) | dsimp only

theorem State.freeDestroyed_keep (h : Keep s t) (a1 : Nat) : Keep s (State.freeDestroyed t a1) := by
  unfold State.freeDestroyed
  try extract_lets
  repeat' first | with_reducible assumption | with_reducible apply State.setCtx_keep | with_reducible apply State.freeRange_keep | split | with_reducible apply Keep.fold | with_reducible apply Keep.foldFst | with_reducible apply Keep.foldSnd | intro _ | with_reducible (refine Keep.upd ?_) | with_reducible (refine Keep.fst (by assumption) ?_) | with_reducible (refine Keep.snd (by assumption) ?_) | dsimp only

theorem State.addTensor_keep (h : Keep s t) (c : Nat) (r : TRec) : Keep s (t.addTensor c r) := by
  unfold State.addTensor
  extract_lets x s2 m
  have h2 : Keep s s2 := State.freeRange_keep h _ _ _
  refine Keep.memory (State.setCtx_keep h2 _ _) fun hm => ?_
  have hm' : Memory.wf s2.mem = true := hm
  unfold m
  split
  · exact hm'
  · split
    · exact TRec.fill_wf _ _ (TRec.fill_wf _ _ hm')
    · exact TRec.fill_wf _ _ hm'

theorem State.tensorCreate_keep (h : Keep s t) (c : Nat) (w : BitVec 1024) : ∀ u, State.tensorCreate t c w = some u → Keep s u := by
  intro u hu
  have hd := State.draw_keep h
  unfold State.tensorCreate at hu
  extract_lets x t0 t1 at hu
  clear_value t0 t1 x
  split at hu
  · exact (Option.some_ne_none _ hu.symm).elim
  · generalize t.draw = q at hu hd
    obtain ⟨p, -, rfl⟩ := Option.map_eq_some_iff.mp hu
    exact State.addTensor_keep hd _ _

theorem State.tensorModify_keep (h : Keep s t) (c : Nat) (w : BitVec 1024) : ∀ u, State.tensorModify t c w = some u → Keep s u := by
  intro u hu
  have key : ∀ (b : Bool) (x : State), (if b = true then none else some x) = some u → Keep s x → Keep s u := by
    intro b x hb hk
    cases b
    · exact Option.some.inj hb ▸ hk
    · exact (Option.some_ne_none _ hb.symm).elim
  unfold State.tensorModify at hu
  extract_lets n at hu
  split at hu
  · exact (Option.some_ne_none _ hu.symm).elim
  · exact key _ _ hu (State.setCtx_keep h _ _)

theorem State.tensorDestroy_keep (h : Keep s t) (a1 : Nat) (a2 : Nat) : ∀ u, State.tensorDestroy t a1 a2 = some u → Keep s u := by
  unfold State.tensorDestroy
  intro u hu
  split at hu
  · cases hu
  · split at hu
    · cases hu
    · cases hu; exact State.destroy_keep h _

theorem State.refuseAt_keep (h : Keep s t) (a1 : Nat) (a2 : Nat) (a3 : Nat) : Keep s (State.refuseAt t a1 a2 a3) := by
  unfold State.refuseAt
  try extract_lets
  repeat' first | with_reducible assumption | with_reducible apply State.setTxn_keep | with_reducible apply State.err_keep | split | intro _ | with_reducible (refine Keep.upd ?_) | with_reducible (refine Keep.fst (by assumption) ?_) | with_reducible (refine Keep.snd (by assumption) ?_) | dsimp only

theorem State.dropOrphans_keep (h : Keep s t) (a1 : Nat) : Keep s (State.dropOrphans t a1) := by
  unfold State.dropOrphans
  try extract_lets
  repeat' first | with_reducible assumption | with_reducible apply State.setCtx_keep | with_reducible apply State.freeRange_keep | split | with_reducible apply Keep.fold | with_reducible apply Keep.foldFst | with_reducible apply Keep.foldSnd | intro _ | with_reducible (refine Keep.upd ?_) | with_reducible (refine Keep.fst (by assumption) ?_) | with_reducible (refine Keep.snd (by assumption) ?_) | dsimp only

theorem State.createCtx_keep (h : Keep s t) (c offer : Nat) (re : Bool) (regen : BitVec 8) : ∀ u, State.createCtx t c offer re regen = some u → Keep s u := by
  intro u hu
  unfold State.createCtx at hu
  extract_lets x fresh y t1 t2 at hu
  have h1 : Keep s t1 := State.setCtx_keep h _ _
  have h2 : Keep s t2 := State.setCtx_keep (State.dropOrphans_keep h _) _ _
  split at hu
  · exact (Option.some_ne_none _ hu.symm).elim
  · split at hu
    · exact Option.some.inj hu ▸ State.setCtx_keep h _ _
    · split at hu
      · split at hu
        · exact (Option.some_ne_none _ hu.symm).elim
        · split at hu
          · exact Option.some.inj hu ▸ h1
          · exact (Option.some_ne_none _ hu.symm).elim
      · split at hu
        · exact Option.some.inj hu ▸ h2
        · exact (Option.some_ne_none _ hu.symm).elim

theorem State.teardownCtx_keep (h : Keep s t) (a1 : Nat) : Keep s (State.teardownCtx t a1) := by
  unfold State.teardownCtx
  try dsimp only
  repeat' first | with_reducible assumption | with_reducible apply State.setCtx_keep | with_reducible apply State.leaveSlot_keep | with_reducible apply State.cancelSlot_keep | split | with_reducible apply Keep.fold | with_reducible apply Keep.foldFst | with_reducible apply Keep.foldSnd | intro _ | with_reducible (refine Keep.upd ?_) | with_reducible (refine Keep.fst (by assumption) ?_) | with_reducible (refine Keep.snd (by assumption) ?_) | dsimp only

theorem State.freeCtx_keep (h : Keep s t) (a1 : Nat) : Keep s (State.freeCtx t a1) := by
  unfold State.freeCtx
  try extract_lets
  repeat' first | with_reducible assumption | with_reducible apply State.setCtx_keep | with_reducible apply State.fire_keep | with_reducible apply State.freeRange_keep | with_reducible apply State.dropTensor_keep | split | with_reducible apply Keep.fold | with_reducible apply Keep.foldFst | with_reducible apply Keep.foldSnd | intro _ | with_reducible (refine Keep.upd ?_) | with_reducible (refine Keep.fst (by assumption) ?_) | with_reducible (refine Keep.snd (by assumption) ?_) | dsimp only

theorem execCreate_keep (h : Keep s t) (c o : Nat) (re : Bool) (g : BitVec 8) : Keeps s (execCreate c o re g t) := by
  unfold execCreate
  refine Keeps.of ?_
  split
  · exact h
  · exact Keep.getD (State.createCtx_keep h _ _ _ _) (State.refuseAt_keep h _ _ _)

theorem execTeardown_keep (h : Keep s t) (a1 : Nat) : Keeps s (execTeardown a1 t) := by
  unfold execTeardown
  try extract_lets
  repeat' first | with_reducible assumption | with_reducible apply State.teardownCtx_keep | with_reducible (refine Keeps.of ?_) | with_reducible exact Keeps.fault _ | split | intro _ | with_reducible (refine Keep.fst (by assumption) ?_) | with_reducible (refine Keep.snd (by assumption) ?_) | dsimp only

theorem execTeardownDrainComplete_keep (h : Keep s t) (a1 : Nat) : Keeps s (execTeardownDrainComplete a1 t) := by
  unfold execTeardownDrainComplete
  try extract_lets
  repeat' first | with_reducible assumption | with_reducible apply State.freeCtx_keep | with_reducible (refine Keeps.of ?_) | with_reducible exact Keeps.fault _ | split | intro _ | with_reducible (refine Keep.fst (by assumption) ?_) | with_reducible (refine Keep.snd (by assumption) ?_) | dsimp only

theorem State.runTCmd_keep (h : Keep s t) (k : TCmd) : ∀ u, t.runTCmd k = some u → Keep s u := by
  unfold State.runTCmd
  intro u hu
  split at hu
  · exact State.tensorCreate_keep h _ _ _ hu
  · exact State.tensorModify_keep h _ _ _ hu
  · exact State.tensorDestroy_keep h _ _ _ hu

theorem State.txnResult_keep (h : Keep s t) (a1 : Nat) (a2 : BitVec 6) : Keep s (State.txnResult t a1 a2) := by
  unfold State.txnResult
  try extract_lets
  repeat' first | with_reducible assumption | with_reducible apply State.setTxn_keep | with_reducible apply State.fire_keep | split | intro _ | with_reducible (refine Keep.upd ?_) | with_reducible (refine Keep.fst (by assumption) ?_) | with_reducible (refine Keep.snd (by assumption) ?_) | dsimp only

theorem State.tensorCmd_keep (h : Keep s t) (a1 : TCmd) : Keep s (State.tensorCmd t a1) := by
  unfold State.tensorCmd
  try extract_lets
  repeat' first | with_reducible assumption | with_reducible apply State.setTxn_keep | with_reducible apply State.fire_keep | with_reducible apply State.txnResult_keep | split | intro _ | with_reducible (refine Keep.upd ?_) | with_reducible (refine Keep.fst (by assumption) ?_) | with_reducible (refine Keep.snd (by assumption) ?_) | dsimp only

theorem execTensorCreate_keep (h : Keep s t) (c : Nat) (r : BitVec 1024) : Keeps s (execTensorCreate c r t) :=
  Keeps.of (State.tensorCmd_keep h _)

theorem execTensorModify_keep (h : Keep s t) (c : Nat) (r : BitVec 1024) : Keeps s (execTensorModify c r t) :=
  Keeps.of (State.tensorCmd_keep h _)

theorem execTensorDestroy_keep (h : Keep s t) (c i : Nat) : Keeps s (execTensorDestroy c i t) :=
  Keeps.of (State.tensorCmd_keep h _)

theorem execTensorRead_keep (h : Keep s t) (a1 : Nat) (a2 : Nat) : Keeps s (execTensorRead a1 a2 t) := by
  unfold execTensorRead
  try extract_lets
  repeat' first | with_reducible assumption | with_reducible apply State.emit_keep | with_reducible apply State.refuseAt_keep | with_reducible (refine Keeps.of ?_) | with_reducible exact Keeps.fault _ | split | intro _ | with_reducible (refine Keep.fst (by assumption) ?_) | with_reducible (refine Keep.snd (by assumption) ?_) | dsimp only

theorem execOrphanDiscard_keep (h : Keep s t) (a1 : Nat) : Keeps s (execOrphanDiscard a1 t) := by
  unfold execOrphanDiscard
  try extract_lets
  repeat' first | with_reducible assumption | with_reducible apply State.dropOrphans_keep | with_reducible (refine Keeps.of ?_) | with_reducible exact Keeps.fault _ | split | intro _ | with_reducible (refine Keep.fst (by assumption) ?_) | with_reducible (refine Keep.snd (by assumption) ?_) | dsimp only

theorem execArm_keep (h : Keep s t) (a1 : Nat) (a2 : Nat) (a3 : Bool) : Keeps s (execArm a1 a2 a3 t) := by
  unfold execArm
  try extract_lets
  repeat' first | with_reducible assumption | with_reducible apply State.armSlot_keep | with_reducible apply State.refuseAt_keep | with_reducible (refine Keeps.of ?_) | with_reducible exact Keeps.fault _ | split | intro _ | with_reducible (refine Keep.fst (by assumption) ?_) | with_reducible (refine Keep.snd (by assumption) ?_) | dsimp only

theorem execCancel_keep (h : Keep s t) (a1 : Nat) : Keeps s (execCancel a1 t) := by
  unfold execCancel
  try extract_lets
  repeat' first | with_reducible assumption | with_reducible apply State.cancelSlot_keep | with_reducible (refine Keeps.of ?_) | with_reducible exact Keeps.fault _ | split | intro _ | with_reducible (refine Keep.fst (by assumption) ?_) | with_reducible (refine Keep.snd (by assumption) ?_) | dsimp only

theorem execAdmissionEnd_keep (h : Keep s t) (a1 : Nat) : Keeps s (execAdmissionEnd a1 t) := by
  unfold execAdmissionEnd
  try extract_lets
  repeat' first | with_reducible assumption | with_reducible apply State.endAdmission_keep | with_reducible (refine Keeps.of ?_) | with_reducible exact Keeps.fault _ | split | intro _ | with_reducible (refine Keep.fst (by assumption) ?_) | with_reducible (refine Keep.snd (by assumption) ?_) | dsimp only

end Sys2Proof.Machine
end

