-- ==== Sys2Proof/Laws/KeepSecure.lean ====
section
/-! SUPPORT. The operations of Machine/Secure.lean keep the queue and the form of memory. -/
namespace Sys2Proof.Machine

variable {s t : State}

theorem State.extend_keep (h : Keep s t) (a1 : Nat) (a2 : BitVec 512) : Keep s (State.extend t a1 a2) := by
  unfold State.extend
  try extract_lets
  repeat' first | with_reducible assumption | with_reducible apply State.log_keep | split | intro _ | with_reducible (refine Keep.upd ?_) | with_reducible (refine Keep.fst (by assumption) ?_) | with_reducible (refine Keep.snd (by assumption) ?_) | dsimp only

theorem State.setRkey_keep (h : Keep s t) (a1 : Nat) (a2 : RKey) : Keep s (State.setRkey t a1 a2) := by
  unfold State.setRkey
  try extract_lets
  repeat' first | with_reducible assumption | split | intro _ | with_reducible (refine Keep.upd ?_) | with_reducible (refine Keep.fst (by assumption) ?_) | with_reducible (refine Keep.snd (by assumption) ?_) | dsimp only

theorem State.newKey_keep (h : Keep s t) (a1 : BitVec 24) (a2 : Nat) : Keep s (State.newKey t a1 a2) := by
  unfold State.newKey
  try extract_lets
  repeat' first | with_reducible assumption | with_reducible apply State.setRkey_keep | split | intro _ | with_reducible (refine Keep.upd ?_) | with_reducible (refine Keep.fst (by assumption) ?_) | with_reducible (refine Keep.snd (by assumption) ?_) | dsimp only

theorem State.jobKey_keep (h : Keep s t) (a1 : BitVec 24) : Keep s (State.jobKey t a1) := by
  unfold State.jobKey
  try extract_lets
  repeat' first | with_reducible assumption | with_reducible apply State.newKey_keep | split | with_reducible apply Keep.fold | with_reducible apply Keep.foldFst | with_reducible apply Keep.foldSnd | intro _ | with_reducible (refine Keep.fst (by assumption) ?_) | with_reducible (refine Keep.snd (by assumption) ?_) | dsimp only

theorem State.answer_keep (h : Keep s t) (a1 : Nat) (a2 : List Byte) : Keep s (State.answer t a1 a2) := by
  unfold State.answer
  try extract_lets
  repeat' first | with_reducible assumption | with_reducible apply State.emit_keep | with_reducible apply State.hold_keep | split | intro _ | with_reducible (refine Keep.upd ?_) | with_reducible (refine Keep.fst (by assumption) ?_) | with_reducible (refine Keep.snd (by assumption) ?_) | dsimp only

theorem State.putReceipt_keep (h : Keep s t) (a1 : Nat) (a2 : Receipt) : Keep s (State.putReceipt t a1 a2) := by
  unfold State.putReceipt
  try extract_lets
  repeat' first | with_reducible assumption | with_reducible apply State.setCtx_keep | with_reducible apply State.fire_keep | split | intro _ | with_reducible (refine Keep.upd ?_) | with_reducible (refine Keep.fst (by assumption) ?_) | with_reducible (refine Keep.snd (by assumption) ?_) | dsimp only

theorem State.leafDone_keep (h : Keep s t) (a1 : Nat) (a2 : Nat) : Keep s (State.leafDone t a1 a2) := by
  unfold State.leafDone
  try extract_lets
  repeat' first | with_reducible assumption | with_reducible apply State.setCtx_keep | split | intro _ | with_reducible (refine Keep.upd ?_) | with_reducible (refine Keep.fst (by assumption) ?_) | with_reducible (refine Keep.snd (by assumption) ?_) | dsimp only

theorem State.unsignedReceipt_keep (h : Keep s t) (a1 : Nat) (a2 : Nat) (a3 : List Byte) : Keep s (State.unsignedReceipt t a1 a2 a3) := by
  unfold State.unsignedReceipt
  try extract_lets
  repeat' first | with_reducible assumption | with_reducible apply State.log_keep | with_reducible apply State.putReceipt_keep | with_reducible apply State.leafDone_keep | split | intro _ | with_reducible (refine Keep.fst (by assumption) ?_) | with_reducible (refine Keep.snd (by assumption) ?_) | dsimp only

theorem State.dropHopeless_keep (h : Keep s t) : Keep s (State.dropHopeless t) := by
  unfold State.dropHopeless
  try extract_lets
  repeat' first | with_reducible assumption | with_reducible apply State.answer_keep | with_reducible apply State.unsignedReceipt_keep | split | with_reducible apply Keep.fold | with_reducible apply Keep.foldFst | with_reducible apply Keep.foldSnd | intro _ | with_reducible (refine Keep.upd ?_) | with_reducible (refine Keep.fst (by assumption) ?_) | with_reducible (refine Keep.snd (by assumption) ?_) | dsimp only

theorem State.wantReceipt_keep (h : Keep s t) (a1 : Nat) (a2 : Nat) (a3 : List Byte) : Keep s (State.wantReceipt t a1 a2 a3) := by
  unfold State.wantReceipt
  try extract_lets
  repeat' first | with_reducible assumption | with_reducible apply State.setCtx_keep | with_reducible apply State.unsignedReceipt_keep | split | intro _ | with_reducible (refine Keep.upd ?_) | with_reducible (refine Keep.fst (by assumption) ?_) | with_reducible (refine Keep.snd (by assumption) ?_) | dsimp only

theorem State.setSig_keep (h : Keep s t) (a1 : SigReq) (a2 : SigReq) : Keep s (State.setSig t a1 a2) := by
  unfold State.setSig
  try extract_lets
  repeat' first | with_reducible assumption | split | intro _ | with_reducible (refine Keep.upd ?_) | with_reducible (refine Keep.fst (by assumption) ?_) | with_reducible (refine Keep.snd (by assumption) ?_) | dsimp only

theorem State.idAdvance_keep (h : Keep s t) : Keep s (State.idAdvance t) := by
  unfold State.idAdvance
  try extract_lets
  repeat' first | with_reducible assumption | split | intro _ | with_reducible (refine Keep.upd ?_) | with_reducible (refine Keep.fst (by assumption) ?_) | with_reducible (refine Keep.snd (by assumption) ?_) | dsimp only

theorem State.rkAdvance_keep (h : Keep s t) (a1 : Nat) : Keep s (State.rkAdvance t a1) := by
  unfold State.rkAdvance
  try extract_lets
  repeat' first | with_reducible assumption | with_reducible apply State.setRkey_keep | with_reducible apply State.newKey_keep | split | with_reducible apply Keep.fold | with_reducible apply Keep.foldFst | with_reducible apply Keep.foldSnd | intro _ | with_reducible (refine Keep.upd ?_) | with_reducible (refine Keep.fst (by assumption) ?_) | with_reducible (refine Keep.snd (by assumption) ?_) | dsimp only

theorem State.request_keep (h : Keep s t) (a1 : Nat) (a2 : Nat) (a3 : List Byte) : Keep s (State.request t a1 a2 a3) := by
  unfold State.request
  try extract_lets
  repeat' first | with_reducible assumption | with_reducible apply State.emit_keep | with_reducible apply State.answer_keep | split | intro _ | with_reducible (refine Keep.upd ?_) | with_reducible (refine Keep.fst (by assumption) ?_) | with_reducible (refine Keep.snd (by assumption) ?_) | dsimp only

theorem execLeafAdvanceConfirmed_keep (h : Keep s t) : Keeps s (execLeafAdvanceConfirmed t) := by
  unfold execLeafAdvanceConfirmed
  try extract_lets
  repeat' first | with_reducible assumption | with_reducible apply State.leafDone_keep | with_reducible apply State.dropHopeless_keep | with_reducible apply State.setSig_keep | with_reducible apply State.idAdvance_keep | with_reducible apply State.rkAdvance_keep | with_reducible (refine Keeps.of ?_) | with_reducible exact Keeps.fault _ | split | intro _ | with_reducible (refine Keep.upd ?_) | with_reducible (refine Keep.fst (by assumption) ?_) | with_reducible (refine Keep.snd (by assumption) ?_) | dsimp only

theorem execSignatureRelease_keep (h : Keep s t) : Keeps s (execSignatureRelease t) := by
  unfold execSignatureRelease
  try extract_lets
  repeat' first | with_reducible assumption | with_reducible apply State.setRkey_keep | with_reducible apply State.answer_keep | with_reducible apply State.putReceipt_keep | with_reducible (refine Keeps.of ?_) | with_reducible exact Keeps.fault _ | split | intro _ | with_reducible (refine Keep.upd ?_) | with_reducible (refine Keep.fst (by assumption) ?_) | with_reducible (refine Keep.snd (by assumption) ?_) | dsimp only

theorem execReceiptKeyReady_keep (h : Keep s t) (a1 : Nat) : Keeps s (execReceiptKeyReady a1 t) := by
  unfold execReceiptKeyReady
  try extract_lets
  repeat' first | with_reducible assumption | with_reducible apply State.dropHopeless_keep | with_reducible (refine Keeps.of ?_) | with_reducible exact Keeps.fault _ | split | intro _ | with_reducible (refine Keep.upd ?_) | with_reducible (refine Keep.fst (by assumption) ?_) | with_reducible (refine Keep.snd (by assumption) ?_) | dsimp only

theorem execTokenRefill_keep (h : Keep s t) : Keeps s (execTokenRefill t) := by
  unfold execTokenRefill
  try extract_lets
  repeat' first | with_reducible assumption | with_reducible (refine Keeps.of ?_) | with_reducible exact Keeps.fault _ | split | intro _ | with_reducible (refine Keep.upd ?_) | with_reducible (refine Keep.fst (by assumption) ?_) | with_reducible (refine Keep.snd (by assumption) ?_) | dsimp only

theorem execMailboxGo_keep (h : Keep s t) (a1 : Nat) : Keeps s (execMailboxGo a1 t) := by
  unfold execMailboxGo
  try extract_lets
  repeat' first | with_reducible assumption | with_reducible apply State.answer_keep | with_reducible apply State.request_keep | with_reducible (refine Keeps.of ?_) | with_reducible exact Keeps.fault _ | split | intro _ | with_reducible (refine Keep.upd ?_) | with_reducible (refine Keep.fst (by assumption) ?_) | with_reducible (refine Keep.snd (by assumption) ?_) | dsimp only

theorem execMailboxAbort_keep (h : Keep s t) : Keeps s (execMailboxAbort t) := by
  unfold execMailboxAbort
  try extract_lets
  repeat' first | with_reducible assumption | with_reducible apply State.release_keep | with_reducible (refine Keeps.of ?_) | with_reducible exact Keeps.fault _ | split | intro _ | with_reducible (refine Keep.upd ?_) | with_reducible (refine Keep.fst (by assumption) ?_) | with_reducible (refine Keep.snd (by assumption) ?_) | dsimp only

theorem execMailboxDataAccess_keep (h : Keep s t) (a1 : Option (BitVec 64)) : Keeps s (execMailboxDataAccess a1 t) := by
  unfold execMailboxDataAccess
  try extract_lets
  repeat' first | with_reducible assumption | with_reducible apply State.emit_keep | with_reducible (refine Keeps.of ?_) | with_reducible exact Keeps.fault _ | split | intro _ | with_reducible (refine Keep.upd ?_) | with_reducible (refine Keep.fst (by assumption) ?_) | with_reducible (refine Keep.snd (by assumption) ?_) | dsimp only

theorem execGetVersion_keep (h : Keep s t) (a1 : Nat) : Keeps s (execGetVersion a1 t) := by
  unfold execGetVersion
  try extract_lets
  repeat' first | with_reducible assumption | with_reducible apply State.request_keep | with_reducible (refine Keeps.of ?_) | with_reducible exact Keeps.fault _ | split | intro _ | with_reducible (refine Keep.fst (by assumption) ?_) | with_reducible (refine Keep.snd (by assumption) ?_) | dsimp only

theorem execGetCert_keep (h : Keep s t) (a1 : Nat) (a2 : Nat) (a3 : Nat) (a4 : Nat) : Keeps s (execGetCert a1 a2 a3 a4 t) := by
  unfold execGetCert
  try extract_lets
  repeat' first | with_reducible assumption | with_reducible apply State.request_keep | with_reducible (refine Keeps.of ?_) | with_reducible exact Keeps.fault _ | split | intro _ | with_reducible (refine Keep.fst (by assumption) ?_) | with_reducible (refine Keep.snd (by assumption) ?_) | dsimp only

theorem execGetMeasurements_keep (h : Keep s t) (a1 : Nat) (a2 : List Byte) : Keeps s (execGetMeasurements a1 a2 t) := by
  unfold execGetMeasurements
  try extract_lets
  repeat' first | with_reducible assumption | with_reducible apply State.request_keep | with_reducible (refine Keeps.of ?_) | with_reducible exact Keeps.fault _ | split | intro _ | with_reducible (refine Keep.fst (by assumption) ?_) | with_reducible (refine Keep.snd (by assumption) ?_) | dsimp only

theorem execGetLeaves_keep (h : Keep s t) (a1 : Nat) : Keeps s (execGetLeaves a1 t) := by
  unfold execGetLeaves
  try extract_lets
  repeat' first | with_reducible assumption | with_reducible apply State.request_keep | with_reducible (refine Keeps.of ?_) | with_reducible exact Keeps.fault _ | split | intro _ | with_reducible (refine Keep.fst (by assumption) ?_) | with_reducible (refine Keep.snd (by assumption) ?_) | dsimp only

theorem execReceiptKeyErase_keep (h : Keep s t) : Keeps s (execReceiptKeyErase t) := by
  unfold execReceiptKeyErase
  try extract_lets
  repeat' first | with_reducible assumption | with_reducible apply State.access_keep | with_reducible apply State.setRkey_keep | with_reducible apply State.dropHopeless_keep | with_reducible (refine Keeps.of ?_) | with_reducible exact Keeps.fault _ | split | intro _ | with_reducible (refine Keep.upd ?_) | with_reducible (refine Keep.fst (by assumption) ?_) | with_reducible (refine Keep.snd (by assumption) ?_) | dsimp only

theorem execDoeDiscovery_keep (h : Keep s t) (a1 : Nat) : Keeps s (execDoeDiscovery a1 t) := by
  unfold execDoeDiscovery
  try extract_lets
  repeat' first | with_reducible assumption | with_reducible apply State.emit_keep | with_reducible (refine Keeps.of ?_) | with_reducible exact Keeps.fault _ | split | intro _ | with_reducible (refine Keep.fst (by assumption) ?_) | with_reducible (refine Keep.snd (by assumption) ?_) | dsimp only

end Sys2Proof.Machine
end

