-- ==== Sys2Proof/Laws/KeepNet.lean ====
section
/-! SUPPORT. The operations of Machine/Net.lean keep the queue and the form of memory. -/
namespace Sys2Proof.Machine

variable {s t : State}

theorem State.spray_keep (h : Keep s t) (tc : Nat) (avoid : Option Nat) : ∀ u, t.spray tc avoid = some u → Keep s u.2 := by
  unfold State.spray
  intro u hu
  extract_lets l0 l1 at hu
  clear_value l1
  cases l1 with
  | nil => cases hu
  | cons a b => cases hu; exact Keep.upd h

theorem State.setStream_keep (h : Keep s t) (a1 : Stream) : Keep s (State.setStream t a1) := by
  unfold State.setStream
  try extract_lets
  repeat' first | with_reducible assumption | split | intro _ | with_reducible (refine Keep.upd ?_) | with_reducible (refine Keep.fst (by assumption) ?_) | with_reducible (refine Keep.snd (by assumption) ?_) | dsimp only

theorem State.setPeer_keep (h : Keep s t) (a1 : Peer) : Keep s (State.setPeer t a1) := by
  unfold State.setPeer
  try extract_lets
  repeat' first | with_reducible assumption | split | intro _ | with_reducible (refine Keep.upd ?_) | with_reducible (refine Keep.fst (by assumption) ?_) | with_reducible (refine Keep.snd (by assumption) ?_) | dsimp only

theorem State.setRate_keep (h : Keep s t) (a1 : Rate) : Keep s (State.setRate t a1) := by
  unfold State.setRate
  try extract_lets
  repeat' first | with_reducible assumption | split | intro _ | with_reducible (refine Keep.upd ?_) | with_reducible (refine Keep.fst (by assumption) ?_) | with_reducible (refine Keep.snd (by assumption) ?_) | dsimp only

theorem State.drop_keep (h : Keep s t) (a1 : Nat) : Keep s (State.drop t a1) := by
  unfold State.drop
  try extract_lets
  repeat' first | with_reducible assumption | split | intro _ | with_reducible (refine Keep.upd ?_) | with_reducible (refine Keep.fst (by assumption) ?_) | with_reducible (refine Keep.snd (by assumption) ?_) | dsimp only

theorem State.unreachable_keep (h : Keep s t) (a1 : Nat) (a2 : Nat) : Keep s (State.unreachable t a1 a2) := by
  unfold State.unreachable
  try extract_lets
  repeat' first | with_reducible assumption | with_reducible apply State.hold_keep | with_reducible apply State.log_keep | with_reducible apply State.setPeer_keep | split | intro _ | with_reducible (refine Keep.upd ?_) | with_reducible (refine Keep.fst (by assumption) ?_) | with_reducible (refine Keep.snd (by assumption) ?_) | dsimp only

theorem State.transmit_keep (h : Keep s t) (a1 : Nat) (a2 : Nat) (a3 : Nat) (a4 : Packet) : Keep s (State.transmit t a1 a2 a3 a4) := by
  unfold State.transmit
  try extract_lets
  repeat' first | with_reducible assumption | with_reducible apply State.setPort_keep | with_reducible apply State.sendFrames_keep | with_reducible apply State.draw_keep | split | intro _ | with_reducible (refine Keep.upd ?_) | with_reducible (refine Keep.fst (by assumption) ?_) | with_reducible (refine Keep.snd (by assumption) ?_) | dsimp only

theorem State.sendLoose_keep (h : Keep s t) (c r : Nat) (m : Msg) (x : Option Stream) : Keep s (t.sendLoose c r m x) := by
  unfold State.sendLoose
  repeat' first | with_reducible assumption | split | with_reducible apply State.transmit_keep | with_reducible apply State.unreachable_keep | exact State.spray_keep (by assumption) _ _ _ ‹_›

theorem State.sendJoin_keep (h : Keep s t) (a1 : Nat) (a2 : Nat) : Keep s (State.sendJoin t a1 a2) := by
  unfold State.sendJoin
  try extract_lets
  repeat' first | with_reducible assumption | with_reducible apply State.sendLoose_keep | split | intro _ | with_reducible (refine Keep.fst (by assumption) ?_) | with_reducible (refine Keep.snd (by assumption) ?_) | dsimp only

theorem State.flush_keep (c r tc f : Nat) : ∀ {t : State}, Keep s t → Keep s (t.flush c r tc f) := by
  induction f with
  | zero => exact fun h => h
  | succ f ih =>
    intro t h
    unfold State.flush
    extract_lets
    split
    · exact h
    · split
      · exact h
      · split
        · exact h
        · exact ih (State.transmit_keep (State.setStream_keep (State.spray_keep h _ _ _ ‹_›) _) _ _ _ _)

theorem State.lsSend_keep (h : Keep s t) (a1 : Nat) (a2 : Nat) (a3 : Msg) : Keep s (State.lsSend t a1 a2 a3) := by
  unfold State.lsSend
  try extract_lets
  repeat' first | with_reducible assumption | with_reducible apply State.setStream_keep | with_reducible apply State.setPeer_keep | with_reducible apply State.unreachable_keep | with_reducible apply State.sendJoin_keep | with_reducible apply State.flush_keep | split | intro _ | with_reducible (refine Keep.upd ?_) | with_reducible (refine Keep.fst (by assumption) ?_) | with_reducible (refine Keep.snd (by assumption) ?_) | dsimp only

theorem State.lsSendAll_keep (h : Keep s t) (a1 : Nat) (a2 : Nat) (a3 : List Msg) : Keep s (State.lsSendAll t a1 a2 a3) := by
  unfold State.lsSendAll
  try extract_lets
  repeat' first | with_reducible assumption | with_reducible apply State.lsSend_keep | split | with_reducible apply Keep.fold | with_reducible apply Keep.foldFst | with_reducible apply Keep.foldSnd | intro _ | with_reducible (refine Keep.fst (by assumption) ?_) | with_reducible (refine Keep.snd (by assumption) ?_) | dsimp only

theorem State.resend_keep (h : Keep s t) (c r tc q : Nat) : Keep s (t.resend c r tc q) := by
  unfold State.resend
  extract_lets
  repeat' first | with_reducible assumption | split | with_reducible apply State.transmit_keep | with_reducible apply State.setStream_keep | exact State.spray_keep (by assumption) _ _ _ ‹_›

theorem State.sendAck_keep (h : Keep s t) (a1 : Nat) (a2 : Nat) (a3 : Nat) : Keep s (State.sendAck t a1 a2 a3) := by
  unfold State.sendAck
  try extract_lets
  repeat' first | with_reducible assumption | with_reducible apply State.setStream_keep | with_reducible apply State.sendLoose_keep | split | intro _ | with_reducible (refine Keep.upd ?_) | with_reducible (refine Keep.fst (by assumption) ?_) | with_reducible (refine Keep.snd (by assumption) ?_) | dsimp only

theorem State.onAck_keep (h : Keep s t) (a1 : Nat) (a2 : Nat) (a3 : BitVec 512) : Keep s (State.onAck t a1 a2 a3) := by
  unfold State.onAck
  try extract_lets
  repeat' first | with_reducible assumption | with_reducible apply State.setStream_keep | with_reducible apply State.setRate_keep | with_reducible apply State.flush_keep | with_reducible apply State.resend_keep | with_reducible apply State.draw_keep | split | with_reducible apply Keep.fold | with_reducible apply Keep.foldFst | with_reducible apply Keep.foldSnd | intro _ | with_reducible (refine Keep.upd ?_) | with_reducible (refine Keep.fst (by assumption) ?_) | with_reducible (refine Keep.snd (by assumption) ?_) | dsimp only

theorem State.sendResetting_keep (h : Keep s t) (a1 : Nat) (a2 : Nat) (a3 : Nat) : Keep s (State.sendResetting t a1 a2 a3) := by
  unfold State.sendResetting
  try extract_lets
  repeat' first | with_reducible assumption | with_reducible apply State.sendLoose_keep | split | intro _ | with_reducible (refine Keep.fst (by assumption) ?_) | with_reducible (refine Keep.snd (by assumption) ?_) | dsimp only

theorem State.acceptIf_keep (h : Keep s t) (f : Frame) {handle : State → Packet → State × Bool}
    (hh : ∀ u p, Keep s u → Keep s (handle u p).1) : Keep s (t.acceptIf f handle) := by
  unfold State.acceptIf
  extract_lets p hd c r tc s1 x q d
  split
  · exact h
  split
  · exact State.drop_keep h _
  have h1 : Keep s s1 := by
    unfold s1; split
    · exact State.onAck_keep h _ _ _
    · exact h
  clear_value x s1
  split
  · exact hh _ _ h1
  split
  · exact State.sendResetting_keep h1 _ _ _
  split
  · exact State.sendAck_keep (State.drop_keep h1 _) _ _ _
  split
  rename_i a b e
  have h2 : Keep s a := Keep.fst e (hh _ _ h1)
  split
  · exact h2
  extract_lets
  split
  · exact State.sendAck_keep (State.setStream_keep h2 _) _ _ _
  · exact State.setStream_keep h2 _

theorem State.accept_keep (h : Keep s t) (f : Frame) {handle : State → Packet → Option State}
    (hh : ∀ u p v, Keep s u → handle u p = some v → Keep s v) : Keep s (t.accept f handle) := by
  unfold State.accept
  refine State.acceptIf_keep h f fun u p hu => ?_
  split
  · exact hh _ _ _ hu ‹_›
  · exact hu

theorem State.restart_keep (h : Keep s t) (a1 : Nat) (a2 : Nat) : Keep s (State.restart t a1 a2).1 := by
  unfold State.restart
  try extract_lets
  repeat' first | with_reducible assumption | split | intro _ | with_reducible (refine Keep.upd ?_) | with_reducible (refine Keep.fst (by assumption) ?_) | with_reducible (refine Keep.snd (by assumption) ?_) | dsimp only

theorem State.failRunning_keep (h : Keep s t) (a1 : Nat) : Keep s (State.failRunning t a1) := by
  unfold State.failRunning
  try extract_lets
  repeat' first | with_reducible assumption | with_reducible apply State.failAttempt_keep | split | with_reducible apply Keep.fold | with_reducible apply Keep.foldFst | with_reducible apply Keep.foldSnd | intro _ | with_reducible (refine Keep.fst (by assumption) ?_) | with_reducible (refine Keep.snd (by assumption) ?_) | dsimp only

theorem State.flushAll_keep (h : Keep s t) (a1 : Nat) (a2 : Nat) : Keep s (State.flushAll t a1 a2) := by
  unfold State.flushAll
  try extract_lets
  repeat' first | with_reducible assumption | with_reducible apply State.flush_keep | split | with_reducible apply Keep.fold | with_reducible apply Keep.foldFst | with_reducible apply Keep.foldSnd | intro _ | with_reducible (refine Keep.fst (by assumption) ?_) | with_reducible (refine Keep.snd (by assumption) ?_) | dsimp only

theorem State.releaseLent_keep (h : Keep s t) (a1 : Nat) (a2 : Nat) (a3 : Nat) : Keep s (State.releaseLent t a1 a2 a3) := by
  unfold State.releaseLent
  try extract_lets
  repeat' first | with_reducible assumption | split | intro _ | with_reducible (refine Keep.upd ?_) | with_reducible (refine Keep.fst (by assumption) ?_) | with_reducible (refine Keep.snd (by assumption) ?_) | dsimp only

theorem State.onJoin_keep (h : Keep s t) (a1 : Packet) : Keep s (State.onJoin t a1) := by
  unfold State.onJoin
  try dsimp only
  repeat' first | with_reducible assumption | with_reducible apply State.setPeer_keep | with_reducible apply State.drop_keep | with_reducible apply State.sendLoose_keep | with_reducible apply State.sendJoin_keep | with_reducible apply State.restart_keep | with_reducible apply State.failRunning_keep | with_reducible apply State.flushAll_keep | with_reducible apply State.releaseLent_keep | split | intro _ | with_reducible (refine Keep.upd ?_) | with_reducible (refine Keep.fst (by assumption) ?_) | with_reducible (refine Keep.snd (by assumption) ?_) | dsimp only

theorem State.onJoinAck_keep (h : Keep s t) (a1 : Packet) : Keep s (State.onJoinAck t a1) := by
  unfold State.onJoinAck
  try extract_lets
  repeat' first | with_reducible assumption | with_reducible apply State.log_keep | with_reducible apply State.setPeer_keep | with_reducible apply State.drop_keep | with_reducible apply State.unreachable_keep | with_reducible apply State.restart_keep | with_reducible apply State.failRunning_keep | with_reducible apply State.flushAll_keep | with_reducible apply State.releaseLent_keep | split | intro _ | with_reducible (refine Keep.upd ?_) | with_reducible (refine Keep.fst (by assumption) ?_) | with_reducible (refine Keep.snd (by assumption) ?_) | dsimp only

theorem State.losePage_keep (h : Keep s t) (a1 : FarPage) : Keep s (State.losePage t a1) := by
  unfold State.losePage
  try extract_lets
  repeat' first | with_reducible assumption | with_reducible apply State.log_keep | with_reducible apply State.poisonRange_keep | split | intro _ | with_reducible (refine Keep.upd ?_) | with_reducible (refine Keep.fst (by assumption) ?_) | with_reducible (refine Keep.snd (by assumption) ?_) | dsimp only

theorem State.loseFar_keep (h : Keep s t) (a1 : Nat) (a2 : Option Nat) : Keep s (State.loseFar t a1 a2) := by
  unfold State.loseFar
  try extract_lets
  repeat' first | with_reducible assumption | with_reducible apply State.losePage_keep | split | with_reducible apply Keep.fold | with_reducible apply Keep.foldFst | with_reducible apply Keep.foldSnd | intro _ | with_reducible (refine Keep.fst (by assumption) ?_) | with_reducible (refine Keep.snd (by assumption) ?_) | dsimp only

theorem State.sendProbe_keep (h : Keep s t) (a1 : Nat) (a2 : Nat) : Keep s (State.sendProbe t a1 a2) := by
  unfold State.sendProbe
  try extract_lets
  repeat' first | with_reducible assumption | with_reducible apply State.sendLoose_keep | split | intro _ | with_reducible (refine Keep.fst (by assumption) ?_) | with_reducible (refine Keep.snd (by assumption) ?_) | dsimp only

theorem State.probeIfChanged_keep (h : Keep s t) (a1 : Nat) : Keep s (State.probeIfChanged t a1) := by
  unfold State.probeIfChanged
  try extract_lets
  repeat' first | with_reducible assumption | with_reducible apply State.sendProbe_keep | split | with_reducible apply Keep.fold | with_reducible apply Keep.foldFst | with_reducible apply Keep.foldSnd | intro _ | with_reducible (refine Keep.fst (by assumption) ?_) | with_reducible (refine Keep.snd (by assumption) ?_) | dsimp only

theorem State.announceReset_keep (h : Keep s t) (a1 : List Nat) (a2 : Nat) : Keep s (State.announceReset t a1 a2) := by
  unfold State.announceReset
  try extract_lets
  repeat' first | with_reducible assumption | with_reducible apply State.sendResetting_keep | split | with_reducible apply Keep.fold | with_reducible apply Keep.foldFst | with_reducible apply Keep.foldSnd | intro _ | with_reducible (refine Keep.fst (by assumption) ?_) | with_reducible (refine Keep.snd (by assumption) ?_) | dsimp only

theorem execAckRx_keep (h : Keep s t) (f : Frame) : Keeps s (execAckRx f t) := by
  unfold execAckRx
  refine Keeps.of ?_
  split
  · exact h
  · refine State.accept_keep h f fun u p v hu e => ?_
    dsimp only at e
    split at e <;> cases e
    · exact State.flushAll_keep (State.setPeer_keep hu _) _ _
    · exact hu

theorem execJoinRx_keep (h : Keep s t) (f : Frame) : Keeps s (execJoinRx f t) := by
  unfold execJoinRx
  refine Keeps.of ?_
  split
  · exact h
  · exact State.accept_keep h f fun u p v hu e => Option.some.inj e ▸ State.onJoin_keep hu _

theorem execJoinAckRx_keep (h : Keep s t) (f : Frame) : Keeps s (execJoinAckRx f t) := by
  unfold execJoinAckRx
  refine Keeps.of ?_
  split
  · exact h
  · refine State.accept_keep h f fun u p v hu e => ?_
    cases e; exact State.onJoinAck_keep hu _

theorem execResettingRx_keep (h : Keep s t) (f : Frame) : Keeps s (execResettingRx f t) := by
  unfold execResettingRx
  refine Keeps.of ?_
  split
  · exact h
  · refine State.accept_keep h f fun u p v hu e => ?_
    have h1 := State.setPeer_keep hu { u.peer (LS.ctx p.hdr) (LS.src p.hdr) with held := true }
    refine Option.some.inj e ▸ ?_
    split
    · exact State.loseFar_keep h1 _ _
    · exact h1

theorem execProbeRx_keep (h : Keep s t) (f : Frame) : Keeps s (execProbeRx f t) := by
  unfold execProbeRx
  refine Keeps.of ?_
  split
  · exact h
  · refine State.accept_keep h f fun u p v hu e => ?_
    exact Option.some.inj e ▸ State.sendAck_keep (State.setPeer_keep hu _) _ _ _

theorem execRetransmitTimerExpiry_keep (h : Keep s t) (a1 : Nat) (a2 : Nat) (a3 : Nat) (a4 : Nat) : Keeps s (execRetransmitTimerExpiry a1 a2 a3 a4 t) := by
  unfold execRetransmitTimerExpiry
  try extract_lets
  repeat' first | with_reducible assumption | with_reducible apply State.setStream_keep | with_reducible apply State.unreachable_keep | with_reducible apply State.resend_keep | with_reducible (refine Keeps.of ?_) | with_reducible exact Keeps.fault _ | split | intro _ | with_reducible (refine Keep.upd ?_) | with_reducible (refine Keep.fst (by assumption) ?_) | with_reducible (refine Keep.snd (by assumption) ?_) | dsimp only

theorem execAckDelayExpiry_keep (h : Keep s t) (a1 : Nat) (a2 : Nat) (a3 : Nat) : Keeps s (execAckDelayExpiry a1 a2 a3 t) := by
  unfold execAckDelayExpiry
  try extract_lets
  repeat' first | with_reducible assumption | with_reducible apply State.sendAck_keep | with_reducible (refine Keeps.of ?_) | with_reducible exact Keeps.fault _ | split | intro _ | with_reducible (refine Keep.fst (by assumption) ?_) | with_reducible (refine Keep.snd (by assumption) ?_) | dsimp only

theorem execJoinRetry_keep (h : Keep s t) (a1 : Nat) (a2 : Nat) : Keeps s (execJoinRetry a1 a2 t) := by
  unfold execJoinRetry
  try extract_lets
  repeat' first | with_reducible assumption | with_reducible apply State.setPeer_keep | with_reducible apply State.unreachable_keep | with_reducible apply State.sendJoin_keep | with_reducible (refine Keeps.of ?_) | with_reducible exact Keeps.fault _ | split | intro _ | with_reducible (refine Keep.upd ?_) | with_reducible (refine Keep.fst (by assumption) ?_) | with_reducible (refine Keep.snd (by assumption) ?_) | dsimp only

theorem execProbeTimer_keep (h : Keep s t) (a1 : Nat) (a2 : Nat) : Keeps s (execProbeTimer a1 a2 t) := by
  unfold execProbeTimer
  try extract_lets
  repeat' first | with_reducible assumption | with_reducible apply State.sendProbe_keep | with_reducible (refine Keeps.of ?_) | with_reducible exact Keeps.fault _ | split | intro _ | with_reducible (refine Keep.fst (by assumption) ?_) | with_reducible (refine Keep.snd (by assumption) ?_) | dsimp only

theorem execHoldExpiry_keep (h : Keep s t) (a1 : Nat) (a2 : Nat) : Keeps s (execHoldExpiry a1 a2 t) := by
  unfold execHoldExpiry
  try extract_lets
  repeat' first | with_reducible assumption | with_reducible apply State.unreachable_keep | with_reducible (refine Keeps.of ?_) | with_reducible exact Keeps.fault _ | split | intro _ | with_reducible (refine Keep.fst (by assumption) ?_) | with_reducible (refine Keep.snd (by assumption) ?_) | dsimp only

theorem execNoServiceTimeout_keep (h : Keep s t) : Keeps s (execNoServiceTimeout t) := by
  unfold execNoServiceTimeout
  try extract_lets
  repeat' first | with_reducible assumption | with_reducible (refine Keeps.of ?_) | with_reducible exact Keeps.fault _ | split | intro _ | with_reducible (refine Keep.upd ?_) | with_reducible (refine Keep.fst (by assumption) ?_) | with_reducible (refine Keep.snd (by assumption) ?_) | dsimp only

theorem execCongestionDecay_keep (h : Keep s t) (a1 : Nat) (a2 : Nat) (a3 : Nat) : Keeps s (execCongestionDecay a1 a2 a3 t) := by
  unfold execCongestionDecay
  try extract_lets
  repeat' first | with_reducible assumption | with_reducible apply State.setRate_keep | with_reducible (refine Keeps.of ?_) | with_reducible exact Keeps.fault _ | split | intro _ | with_reducible (refine Keep.fst (by assumption) ?_) | with_reducible (refine Keep.snd (by assumption) ?_) | dsimp only

theorem execCongestionIncrease_keep (h : Keep s t) (a1 : Nat) (a2 : Nat) (a3 : Nat) : Keeps s (execCongestionIncrease a1 a2 a3 t) := by
  unfold execCongestionIncrease
  try extract_lets
  repeat' first | with_reducible assumption | with_reducible apply State.setRate_keep | with_reducible (refine Keeps.of ?_) | with_reducible exact Keeps.fault _ | split | intro _ | with_reducible (refine Keep.fst (by assumption) ?_) | with_reducible (refine Keep.snd (by assumption) ?_) | dsimp only

end Sys2Proof.Machine
end

