-- ==== Sys2Proof/Laws/KeepColl.lean ====
section
/-! SUPPORT. The operations of Machine/Coll.lean keep the queue and the form of memory. -/
namespace Sys2Proof.Machine

variable {s t : State}

theorem State.setRed_keep (h : Keep s t) (a1 : Red) : Keep s (State.setRed t a1) := by
  unfold State.setRed
  try extract_lets
  repeat' first | with_reducible assumption | split | intro _ | with_reducible (refine Keep.upd ?_) | with_reducible (refine Keep.fst (by assumption) ?_) | with_reducible (refine Keep.snd (by assumption) ?_) | dsimp only

theorem State.toOthers_keep (h : Keep s t) (a1 : Red) (a2 : Msg) : Keep s (State.toOthers t a1 a2) := by
  unfold State.toOthers
  try extract_lets
  repeat' first | with_reducible assumption | with_reducible apply State.lsSend_keep | split | with_reducible apply Keep.fold | with_reducible apply Keep.foldFst | with_reducible apply Keep.foldSnd | intro _ | with_reducible (refine Keep.fst (by assumption) ?_) | with_reducible (refine Keep.snd (by assumption) ?_) | dsimp only

theorem State.openRed_keep (h : Keep s t) (a1 : Nat) (a2 : Nat) : Keep s (State.openRed t a1 a2) := by
  unfold State.openRed
  try extract_lets
  repeat' first | with_reducible assumption | with_reducible apply State.setRed_keep | with_reducible apply State.toOthers_keep | split | with_reducible apply Keep.fold | with_reducible apply Keep.foldFst | with_reducible apply Keep.foldSnd | intro _ | with_reducible (refine Keep.upd ?_) | with_reducible (refine Keep.fst (by assumption) ?_) | with_reducible (refine Keep.snd (by assumption) ?_) | dsimp only

theorem State.noteFmt_keep (h : Keep s t) (a1 : Nat) (a2 : Nat) (a3 : Nat) (a4 : Bool) : Keep s (State.noteFmt t a1 a2 a3 a4) := by
  unfold State.noteFmt
  try extract_lets
  repeat' first | with_reducible assumption | with_reducible apply State.setSlot_keep | split | intro _ | with_reducible (refine Keep.upd ?_) | with_reducible (refine Keep.fst (by assumption) ?_) | with_reducible (refine Keep.snd (by assumption) ?_) | dsimp only

theorem State.climbRed_keep (h : Keep s t) (a1 : Red) (a2 : Nat) : Keep s (State.climbRed t a1 a2) := by
  unfold State.climbRed
  try extract_lets
  repeat' first | with_reducible assumption | with_reducible apply State.setRed_keep | with_reducible apply State.toOthers_keep | split | intro _ | with_reducible (refine Keep.fst (by assumption) ?_) | with_reducible (refine Keep.snd (by assumption) ?_) | dsimp only

theorem State.climbsRed_keep (h : Keep s t) (a1 : Nat) (a2 : Nat) (a3 : List Nat) : Keep s (State.climbsRed t a1 a2 a3) := by
  unfold State.climbsRed
  try extract_lets
  repeat' first | with_reducible assumption | with_reducible apply State.climbRed_keep | split | with_reducible apply Keep.fold | with_reducible apply Keep.foldFst | with_reducible apply Keep.foldSnd | intro _ | with_reducible (refine Keep.fst (by assumption) ?_) | with_reducible (refine Keep.snd (by assumption) ?_) | dsimp only

theorem State.claim_keep (h : Keep s t) (a1 : Red) (a2 : Piece) : Keep s (State.claim t a1 a2) := by
  unfold State.claim
  try dsimp only
  repeat' first | with_reducible assumption | with_reducible apply State.lsSend_keep | with_reducible apply State.setRed_keep | with_reducible apply State.noteFmt_keep | with_reducible apply State.climbsRed_keep | split | with_reducible apply Keep.fold | with_reducible apply Keep.foldFst | with_reducible apply Keep.foldSnd | intro _ | with_reducible (refine Keep.upd ?_) | with_reducible (refine Keep.fst (by assumption) ?_) | with_reducible (refine Keep.snd (by assumption) ?_) | dsimp only

theorem State.claimAll_keep (h : Keep s t) : Keep s (State.claimAll t) := by
  unfold State.claimAll
  try dsimp only
  repeat' first | with_reducible assumption | with_reducible apply State.claim_keep | split | with_reducible apply Keep.fold | with_reducible apply Keep.foldFst | with_reducible apply Keep.foldSnd | intro _ | with_reducible (refine Keep.fst (by assumption) ?_) | with_reducible (refine Keep.snd (by assumption) ?_) | dsimp only

theorem State.contribute_keep (h : Keep s t) (a1 : Red) (a2 : Nat) (a3 : Nat) (a4 : SkeinW) : Keep s (State.contribute t a1 a2 a3 a4).1 := by
  unfold State.contribute
  try extract_lets
  repeat' first | with_reducible assumption | split | intro _ | with_reducible (refine Keep.upd ?_) | with_reducible (refine Keep.fst (by assumption) ?_) | with_reducible (refine Keep.snd (by assumption) ?_) | dsimp only

theorem State.flushPiece_keep (h : Keep s t) (a1 : Red) (a2 : Nat) (a3 : Nat) (a4 : Nat) : Keep s (State.flushPiece t a1 a2 a3 a4).1 := by
  unfold State.flushPiece
  try extract_lets
  repeat' first | with_reducible assumption | with_reducible apply State.lsSendAll_keep | with_reducible apply State.contribute_keep | split | with_reducible apply Keep.fold | with_reducible apply Keep.foldFst | with_reducible apply Keep.foldSnd | intro _ | with_reducible (refine Keep.upd ?_) | with_reducible (refine Keep.fst (by assumption) ?_) | with_reducible (refine Keep.snd (by assumption) ?_) | dsimp only

theorem State.takeEmits_keep (h : Keep s t) (a1 : Seg) (a2 : List Emit) : Keep s (State.takeEmits t a1 a2) := by
  unfold State.takeEmits
  try extract_lets
  repeat' first | with_reducible assumption | with_reducible apply State.setRed_keep | with_reducible apply State.contribute_keep | with_reducible apply State.flushPiece_keep | split | with_reducible apply Keep.fold | with_reducible apply Keep.foldFst | with_reducible apply Keep.foldSnd | intro _ | with_reducible (refine Keep.fst (by assumption) ?_) | with_reducible (refine Keep.snd (by assumption) ?_) | dsimp only

theorem State.takeEnd_keep (h : Keep s t) (a1 : Red) (a2 : Piece) (a3 : ShEnd) : Keep s (State.takeEnd t a1 a2 a3) := by
  unfold State.takeEnd
  try extract_lets
  repeat' first | with_reducible assumption | with_reducible apply State.log_keep | with_reducible apply State.failAttempt_keep | with_reducible apply State.setRed_keep | split | intro _ | with_reducible (refine Keep.upd ?_) | with_reducible (refine Keep.fst (by assumption) ?_) | with_reducible (refine Keep.snd (by assumption) ?_) | dsimp only

theorem State.sendEnd_keep (h : Keep s t) (a1 : Nat) (a2 : Nat) (a3 : Nat) (a4 : Nat) : Keep s (State.sendEnd t a1 a2 a3 a4) := by
  unfold State.sendEnd
  try dsimp only
  repeat' first | with_reducible assumption | with_reducible apply State.setSlot_keep | with_reducible apply State.lsSend_keep | with_reducible apply State.setRed_keep | with_reducible apply State.flushPiece_keep | with_reducible apply State.takeEnd_keep | split | intro _ | with_reducible (refine Keep.upd ?_) | with_reducible (refine Keep.fst (by assumption) ?_) | with_reducible (refine Keep.snd (by assumption) ?_) | dsimp only

theorem State.sendChunk_keep (h : Keep s t) (a1 : Red) (a2 : Nat) : Keep s (State.sendChunk t a1 a2) := by
  unfold State.sendChunk
  try extract_lets
  repeat' first | with_reducible assumption | with_reducible apply State.lsSendAll_keep | split | with_reducible apply Keep.fold | with_reducible apply Keep.foldFst | with_reducible apply Keep.foldSnd | intro _ | with_reducible (refine Keep.upd ?_) | with_reducible (refine Keep.fst (by assumption) ?_) | with_reducible (refine Keep.snd (by assumption) ?_) | dsimp only

theorem State.openGather_keep (h : Keep s t) (a1 : Nat) (a2 : Nat) : Keep s (State.openGather t a1 a2) := by
  unfold State.openGather
  try extract_lets
  repeat' first | with_reducible assumption | with_reducible apply State.sendChunk_keep | split | with_reducible apply Keep.fold | with_reducible apply Keep.foldFst | with_reducible apply Keep.foldSnd | intro _ | with_reducible (refine Keep.upd ?_) | with_reducible (refine Keep.fst (by assumption) ?_) | with_reducible (refine Keep.snd (by assumption) ?_) | dsimp only

theorem State.flagGather_keep (h : Keep s t) (a1 : Nat) (a2 : Nat) : Keep s (State.flagGather t a1 a2) := by
  unfold State.flagGather
  try extract_lets
  repeat' first | with_reducible assumption | with_reducible apply State.raiseFlag_keep | split | with_reducible apply Keep.fold | with_reducible apply Keep.foldFst | with_reducible apply Keep.foldSnd | intro _ | with_reducible (refine Keep.fst (by assumption) ?_) | with_reducible (refine Keep.snd (by assumption) ?_) | dsimp only

theorem State.openAll_keep (h : Keep s t) (a1 : Nat) : Keep s (State.openAll t a1) := by
  unfold State.openAll
  try extract_lets
  repeat' first | with_reducible assumption | with_reducible apply State.openRed_keep | with_reducible apply State.openGather_keep | split | with_reducible apply Keep.fold | with_reducible apply Keep.foldFst | with_reducible apply Keep.foldSnd | intro _ | with_reducible (refine Keep.upd ?_) | with_reducible (refine Keep.fst (by assumption) ?_) | with_reducible (refine Keep.snd (by assumption) ?_) | dsimp only

theorem State.corruptChunk_keep (h : Keep s t) (a1 : Red) (a2 : Nat) : Keep s (State.corruptChunk t a1 a2) := by
  unfold State.corruptChunk
  try extract_lets
  repeat' first | with_reducible assumption | with_reducible apply State.log_keep | with_reducible apply State.failAttempt_keep | with_reducible apply State.setRed_keep | split | intro _ | with_reducible (refine Keep.upd ?_) | with_reducible (refine Keep.fst (by assumption) ?_) | with_reducible (refine Keep.snd (by assumption) ?_) | dsimp only

theorem State.gradOvf_keep (h : Keep s t) (a1 : Nat) (a2 : TRec) (a3 : WrOut) : Keep s (State.gradOvf t a1 a2 a3) := by
  unfold State.gradOvf
  try extract_lets
  repeat' first | with_reducible assumption | with_reducible apply State.setSlot_keep | split | intro _ | with_reducible (refine Keep.upd ?_) | with_reducible (refine Keep.fst (by assumption) ?_) | with_reducible (refine Keep.snd (by assumption) ?_) | dsimp only

theorem State.noteWrite_keep (h : Keep s t) (a1 : Nat) (a2 : Nat) (a3 : Nat) (a4 : WrOut) : Keep s (State.noteWrite t a1 a2 a3 a4) := by
  unfold State.noteWrite
  try extract_lets
  repeat' first | with_reducible assumption | with_reducible apply State.setSlot_keep | split | intro _ | with_reducible (refine Keep.upd ?_) | with_reducible (refine Keep.fst (by assumption) ?_) | with_reducible (refine Keep.snd (by assumption) ?_) | dsimp only

theorem State.writeRun_keep (h : Keep s t) (a1 : TRec) (a2 a3 a4 : Nat) (a5 : WrHow) (a6 : List Ex) (a7 : Bool) : Keep s (State.writeRun t a1 a2 a3 a4 a5 a6 a7).1 := by
  unfold State.writeRun
  exact State.attachRow_keep (State.mark_keep (Keep.memory h (TRec.writeRow_wf _ _ _ _ _ _ _)) _ _ _) _ _ _

theorem State.drainPiece_keep (h : Keep s t) (a1 : Red) (a2 : Piece) : Keep s (State.drainPiece t a1 a2) := by
  unfold State.drainPiece
  try extract_lets
  repeat' first | with_reducible assumption | with_reducible apply State.gradOvf_keep | with_reducible apply State.noteWrite_keep | with_reducible apply State.writeRun_keep | split | with_reducible apply Keep.fold | with_reducible apply Keep.foldFst | with_reducible apply Keep.foldSnd | intro _ | with_reducible (refine Keep.fst (by assumption) ?_) | with_reducible (refine Keep.snd (by assumption) ?_) | dsimp only

theorem State.chunkDone_keep (h : Keep s t) (a1 : Red) (a2 : Nat) : Keep s (State.chunkDone t a1 a2) := by
  unfold State.chunkDone
  try extract_lets
  repeat' first | with_reducible assumption | with_reducible apply State.raiseFlag_keep | with_reducible apply State.toOthers_keep | with_reducible apply State.sendChunk_keep | split | intro _ | with_reducible (refine Keep.fst (by assumption) ?_) | with_reducible (refine Keep.snd (by assumption) ?_) | dsimp only

theorem State.pieceOut_keep (h : Keep s t) (c rid ch p : Nat) {drain : State → Red → Piece → State} (hd : ∀ u r q, Keep s u → Keep s (drain u r q)) :
    Keep s (t.pieceOut c rid ch p drain) := by
  unfold State.pieceOut
  split
  · exact h
  · rename_i r _
    split
    · exact h
    · rename_i q _
      extract_lets words accLed bad q' r1 r2 hh s1 x src s2 all r3 s3
      have h1 : Keep s s1 := by
        unfold s1; split
        · exact hd _ _ _ h
        · exact State.drainPiece_keep h _ _
      have h3 : Keep s s3 := State.setRed_keep (State.setSlot_keep h1 _ _) _
      clear_value s1 s3
      split
      · exact State.corruptChunk_keep h _ _
      · split
        · split
          rename_i s1 r3 e1
          have h1 : Keep s s1 := Keep.fst e1 (Keep.foldFst (fun _ _ h => State.contribute_keep h _ _ _ _) _ _ h)
          split
          rename_i s2 r4 e2
          have h2 : Keep s s2 := Keep.fst e2 (State.flushPiece_keep h1 _ _ _ _)
          split
          · split <;> exact State.setRed_keep h2 _
          · exact State.lsSend_keep (State.setRed_keep h2 _) _ _ _
        · split
          · exact State.chunkDone_keep h3 _ _
          · exact h3

theorem State.toDown_keep (h : Keep s t) (a1 : Red) (a2 : Nat) (a3 : List Msg) : Keep s (State.toDown t a1 a2 a3) := by
  unfold State.toDown
  try extract_lets
  repeat' first | with_reducible assumption | with_reducible apply State.lsSendAll_keep | split | with_reducible apply Keep.fold | with_reducible apply Keep.foldFst | with_reducible apply Keep.foldSnd | intro _ | with_reducible (refine Keep.fst (by assumption) ?_) | with_reducible (refine Keep.snd (by assumption) ?_) | dsimp only

theorem State.takeReport_keep (h : Keep s t) (a1 : Red) (a2 : Nat) (a3 : Nat) (a4 : List (Nat × Option Int)) (a5 : Bool) : Keep s (State.takeReport t a1 a2 a3 a4 a5) := by
  unfold State.takeReport
  try extract_lets
  repeat' first | with_reducible assumption | with_reducible apply State.lsSendAll_keep | with_reducible apply State.setRed_keep | with_reducible apply State.toDown_keep | split | with_reducible apply Keep.fold | with_reducible apply Keep.foldFst | with_reducible apply Keep.foldSnd | intro _ | with_reducible (refine Keep.upd ?_) | with_reducible (refine Keep.fst (by assumption) ?_) | with_reducible (refine Keep.snd (by assumption) ?_) | dsimp only

theorem State.sendReports_keep (h : Keep s t) (a1 : Nat) (a2 : Nat) (a3 : Nat) (a4 : State → Red → Nat → Option Int) : Keep s (State.sendReports t a1 a2 a3 a4) := by
  unfold State.sendReports
  try extract_lets
  repeat' first | with_reducible assumption | with_reducible apply State.takeReport_keep | split | intro _ | with_reducible (refine Keep.fst (by assumption) ?_) | with_reducible (refine Keep.snd (by assumption) ?_) | dsimp only

theorem State.setAtt_keep (h : Keep s t) (a1 : Nat) (a2 : Attempt) : Keep s (State.setAtt t a1 a2) := by
  unfold State.setAtt
  try extract_lets
  repeat' first | with_reducible assumption | with_reducible apply State.setSlot_keep | split | intro _ | with_reducible (refine Keep.upd ?_) | with_reducible (refine Keep.fst (by assumption) ?_) | with_reducible (refine Keep.snd (by assumption) ?_) | dsimp only

theorem State.nextEpoch_keep (h : Keep s t) (a1 : Red) : Keep s (State.nextEpoch t a1) := by
  unfold State.nextEpoch
  try extract_lets
  repeat' first | with_reducible assumption | with_reducible apply State.setCtx_keep | with_reducible apply State.setSlot_keep | with_reducible apply State.lsSend_keep | with_reducible apply State.setRed_keep | with_reducible apply State.climbsRed_keep | with_reducible apply State.setAtt_keep | split | with_reducible apply Keep.fold | with_reducible apply Keep.foldFst | with_reducible apply Keep.foldSnd | intro _ | with_reducible (refine Keep.upd ?_) | with_reducible (refine Keep.fst (by assumption) ?_) | with_reducible (refine Keep.snd (by assumption) ?_) | dsimp only

end Sys2Proof.Machine
end

