-- ==== Sys2Proof/Laws/KeepOperands.lean ====
section
/-! SUPPORT. The operations of Machine/Operands.lean keep the queue and the form of memory. -/
namespace Sys2Proof.Machine

variable {s t : State}

theorem State.touch_keep (h : Keep s t) (a1 : List Nat) : Keep s (State.touch t a1) := by
  unfold State.touch
  try extract_lets
  repeat' first | with_reducible assumption | split | with_reducible apply Keep.fold | with_reducible apply Keep.foldFst | with_reducible apply Keep.foldSnd | intro _ | with_reducible (refine Keep.upd ?_) | with_reducible (refine Keep.fst (by assumption) ?_) | with_reducible (refine Keep.snd (by assumption) ?_) | dsimp only

theorem execWindowStage_keep (h : Keep s t) (a1 : Nat) (a2 : Nat) (a3 : Nat) (a4 : Nat) : Keeps s (execWindowStage a1 a2 a3 a4 t) := by
  unfold execWindowStage
  try extract_lets
  repeat' first | with_reducible assumption | with_reducible apply State.setPanel_keep | with_reducible apply State.attachPage_keep | with_reducible apply State.touch_keep | with_reducible (refine Keeps.of ?_) | with_reducible exact Keeps.fault _ | split | with_reducible apply Keep.fold | with_reducible apply Keep.foldFst | with_reducible apply Keep.foldSnd | intro _ | with_reducible (refine Keep.upd ?_) | with_reducible (refine Keep.fst (by assumption) ?_) | with_reducible (refine Keep.snd (by assumption) ?_) | dsimp only

theorem State.takeParts_keep (h : Keep s t) (a1 : Seg) (a2 : List Emit) : Keep s (State.takeParts t a1 a2) := by
  unfold State.takeParts
  try extract_lets
  repeat' first | with_reducible assumption | with_reducible apply State.setSlot_keep | split | with_reducible apply Keep.fold | with_reducible apply Keep.foldFst | with_reducible apply Keep.foldSnd | intro _ | with_reducible (refine Keep.upd ?_) | with_reducible (refine Keep.fst (by assumption) ?_) | with_reducible (refine Keep.snd (by assumption) ?_) | dsimp only

theorem State.drainParts_keep (h : Keep s t) (a1 : Nat) (a2 : Nat) : Keep s (State.drainParts t a1 a2) := by
  unfold State.drainParts
  try extract_lets
  repeat' first | with_reducible assumption | with_reducible apply State.setSlot_keep | with_reducible apply State.gradOvf_keep | with_reducible apply State.noteWrite_keep | with_reducible apply State.writeRun_keep | split | with_reducible apply Keep.fold | with_reducible apply Keep.foldFst | with_reducible apply Keep.foldSnd | intro _ | with_reducible (refine Keep.upd ?_) | with_reducible (refine Keep.fst (by assumption) ?_) | with_reducible (refine Keep.snd (by assumption) ?_) | dsimp only

theorem State.storeLine_keep (h : Keep s t) (a1 : RefW) (a2 : Nat) (a3 : Nat) (a4 : Line) (a5 : Bool) : Keep s (State.storeLine t a1 a2 a3 a4 a5) := by
  unfold State.storeLine
  try extract_lets
  repeat' first | with_reducible assumption | with_reducible apply State.mark_keep | with_reducible apply State.poisonRange_keep | with_reducible apply State.attachRow_keep | with_reducible apply State.drop_keep | split | with_reducible apply Keep.fold | with_reducible apply Keep.foldFst | with_reducible apply Keep.foldSnd | intro _ | with_reducible (refine Keep.upd ?_) | with_reducible (refine Keep.memory ?_ (fun _ => ?_)) | with_reducible apply Memory.wf_wrBs | with_reducible apply Memory.wf_wrB | with_reducible apply Memory.wf_tset | with_reducible apply Memory.wf_tkeep | with_reducible apply TRec.retag_wf | with_reducible apply TRec.reshadow_wf | with_reducible apply TRec.fill_wf | with_reducible apply TRec.copyRow_wf | with_reducible apply TRec.putBlock_wf | with_reducible apply TRec.writeRow_wf | with_reducible apply Memory.wf_fold | with_reducible exact Memory.wf_nil | with_reducible (refine Keep.fst (by assumption) ?_) | with_reducible (refine Keep.snd (by assumption) ?_) | dsimp only

end Sys2Proof.Machine
end

