-- ==== Sys2Proof/Laws/KeepPanelCmds.lean ====
section
/-! SUPPORT. The operations of Machine/PanelCmds.lean keep the queue and the form of memory. -/
namespace Sys2Proof.Machine

variable {s t : State}

theorem execRowWordIssue_keep (h : Keep s t) (a1 : Nat) : Keeps s (execRowWordIssue a1 t) := by
  unfold execRowWordIssue
  try extract_lets
  repeat' first | with_reducible assumption | with_reducible apply State.setPanel_keep | with_reducible apply State.takeEmits_keep | with_reducible apply State.takeParts_keep | with_reducible (refine Keeps.of ?_) | with_reducible exact Keeps.fault _ | split | intro _ | with_reducible (refine Keep.upd ?_) | with_reducible (refine Keep.fst (by assumption) ?_) | with_reducible (refine Keep.snd (by assumption) ?_) | dsimp only

theorem State.arrive_keep (h : Keep s t) (a1 : Nat) (a2 : Nat) : Keep s (State.arrive t a1 a2) := by
  unfold State.arrive
  try extract_lets
  repeat' first | with_reducible assumption | with_reducible apply State.setPanel_keep | split | intro _ | with_reducible (refine Keep.fst (by assumption) ?_) | with_reducible (refine Keep.snd (by assumption) ?_) | dsimp only

theorem execOperandReadArrival_keep (h : Keep s t) (a1 : ReadEvent) : Keeps s (execOperandReadArrival a1 t) := by
  unfold execOperandReadArrival
  try extract_lets
  repeat' first | with_reducible assumption | with_reducible apply State.setPanel_keep | with_reducible apply State.err_keep | with_reducible apply State.arrive_keep | with_reducible (refine Keeps.of ?_) | with_reducible exact Keeps.fault _ | split | intro _ | with_reducible (refine Keep.fst (by assumption) ?_) | with_reducible (refine Keep.snd (by assumption) ?_) | dsimp only

theorem execProductVisible_keep (h : Keep s t) (a1 : Nat) : Keeps s (execProductVisible a1 t) := by
  unfold execProductVisible
  try extract_lets
  repeat' first | with_reducible assumption | with_reducible apply State.arrive_keep | with_reducible (refine Keeps.of ?_) | with_reducible exact Keeps.fault _ | split | intro _ | with_reducible (refine Keep.fst (by assumption) ?_) | with_reducible (refine Keep.snd (by assumption) ?_) | dsimp only

theorem execDrainEntryArrival_keep (h : Keep s t) (a1 : Nat) : Keeps s (execDrainEntryArrival a1 t) := by
  unfold execDrainEntryArrival
  try extract_lets
  repeat' first | with_reducible assumption | with_reducible apply State.arrive_keep | with_reducible (refine Keeps.of ?_) | with_reducible exact Keeps.fault _ | split | intro _ | with_reducible (refine Keep.fst (by assumption) ?_) | with_reducible (refine Keep.snd (by assumption) ?_) | dsimp only

theorem execPreloadVisible_keep (h : Keep s t) (a1 : Nat) : Keeps s (execPreloadVisible a1 t) := by
  unfold execPreloadVisible
  try extract_lets
  repeat' first | with_reducible assumption | with_reducible apply State.arrive_keep | with_reducible (refine Keeps.of ?_) | with_reducible exact Keeps.fault _ | split | intro _ | with_reducible (refine Keep.fst (by assumption) ?_) | with_reducible (refine Keep.snd (by assumption) ?_) | dsimp only

theorem execNeighbourAddVisible_keep (h : Keep s t) (a1 : Nat) : Keeps s (execNeighbourAddVisible a1 t) := by
  unfold execNeighbourAddVisible
  try extract_lets
  repeat' first | with_reducible assumption | with_reducible apply State.arrive_keep | with_reducible (refine Keeps.of ?_) | with_reducible exact Keeps.fault _ | split | intro _ | with_reducible (refine Keep.fst (by assumption) ?_) | with_reducible (refine Keep.snd (by assumption) ?_) | dsimp only

theorem execPartialSendArrival_keep (h : Keep s t) (a1 : Nat) : Keeps s (execPartialSendArrival a1 t) := by
  unfold execPartialSendArrival
  try extract_lets
  repeat' first | with_reducible assumption | with_reducible apply State.arrive_keep | with_reducible (refine Keeps.of ?_) | with_reducible exact Keeps.fault _ | split | intro _ | with_reducible (refine Keep.fst (by assumption) ?_) | with_reducible (refine Keep.snd (by assumption) ?_) | dsimp only

theorem execElementResultPush_keep (h : Keep s t) (a1 : Nat) : Keeps s (execElementResultPush a1 t) := by
  unfold execElementResultPush
  try extract_lets
  repeat' first | with_reducible assumption | with_reducible apply State.arrive_keep | with_reducible (refine Keeps.of ?_) | with_reducible exact Keeps.fault _ | split | intro _ | with_reducible (refine Keep.fst (by assumption) ?_) | with_reducible (refine Keep.snd (by assumption) ?_) | dsimp only

theorem execNormFinishSettle_keep (h : Keep s t) (a1 : Nat) : Keeps s (execNormFinishSettle a1 t) := by
  unfold execNormFinishSettle
  try extract_lets
  repeat' first | with_reducible assumption | with_reducible apply State.arrive_keep | with_reducible (refine Keeps.of ?_) | with_reducible exact Keeps.fault _ | split | intro _ | with_reducible (refine Keep.fst (by assumption) ?_) | with_reducible (refine Keep.snd (by assumption) ?_) | dsimp only

theorem execBHalfReady_keep (h : Keep s t) (a1 : Nat) : Keeps s (execBHalfReady a1 t) := by
  unfold execBHalfReady
  try extract_lets
  repeat' first | with_reducible assumption | with_reducible apply State.arrive_keep | with_reducible (refine Keeps.of ?_) | with_reducible exact Keeps.fault _ | split | intro _ | with_reducible (refine Keep.fst (by assumption) ?_) | with_reducible (refine Keep.snd (by assumption) ?_) | dsimp only

theorem execWriteTurnaroundEnd_keep (h : Keep s t) (a1 : Nat) : Keeps s (execWriteTurnaroundEnd a1 t) := by
  unfold execWriteTurnaroundEnd
  try extract_lets
  repeat' first | with_reducible assumption | with_reducible apply State.setPanel_keep | with_reducible (refine Keeps.of ?_) | with_reducible exact Keeps.fault _ | split | intro _ | with_reducible (refine Keep.fst (by assumption) ?_) | with_reducible (refine Keep.snd (by assumption) ?_) | dsimp only

theorem execResidueCheck_keep (h : Keep s t) (a1 : Nat) : Keeps s (execResidueCheck a1 t) := by
  unfold execResidueCheck
  try extract_lets
  repeat' first | with_reducible assumption | with_reducible apply State.setPanel_keep | with_reducible (refine Keeps.of ?_) | with_reducible exact Keeps.fault _ | split | intro _ | with_reducible (refine Keep.fst (by assumption) ?_) | with_reducible (refine Keep.snd (by assumption) ?_) | dsimp only

end Sys2Proof.Machine
end

