-- ==== Sys2Proof/Laws/KeepSwatch.lean ====
section
/-! SUPPORT. The operations of Machine/Swatch.lean keep the queue and the form of memory. -/
namespace Sys2Proof.Machine

variable {s t : State}

theorem State.mismatch_keep (h : Keep s t) (a1 : Bool) (a2 : Suspect) : Keep s (State.mismatch t a1 a2) := by
  unfold State.mismatch
  try extract_lets
  repeat' first | with_reducible assumption | with_reducible apply State.log_keep | with_reducible apply State.fence_keep | with_reducible apply State.closeSuspects_keep | with_reducible apply State.failAttempt_keep | split | intro _ | with_reducible (refine Keep.upd ?_) | with_reducible (refine Keep.fst (by assumption) ?_) | with_reducible (refine Keep.snd (by assumption) ?_) | dsimp only

theorem State.judge_keep (h : Keep s t) (a1 : Check) (a2 : Suspect) (a3 : Nat) (a4 : BitVec 384) (a5 : BitVec 384) (a6 : BitVec 384) : Keep s (State.judge t a1 a2 a3 a4 a5 a6) := by
  unfold State.judge
  try extract_lets
  repeat' first | with_reducible assumption | with_reducible apply State.log_keep | with_reducible apply State.fence_keep | with_reducible apply State.countTransient_keep | with_reducible apply State.mismatch_keep | split | intro _ | with_reducible (refine Keep.upd ?_) | with_reducible (refine Keep.fst (by assumption) ?_) | with_reducible (refine Keep.snd (by assumption) ?_) | dsimp only

theorem State.closeDecided_keep (h : Keep s t) (a1 : Suspect) : Keep s (State.closeDecided t a1) := by
  unfold State.closeDecided
  try extract_lets
  repeat' first | with_reducible assumption | split | intro _ | with_reducible (refine Keep.upd ?_) | with_reducible (refine Keep.fst (by assumption) ?_) | with_reducible (refine Keep.snd (by assumption) ?_) | dsimp only

theorem State.reshade_keep (h : Keep s t) (a1 : Nat) : Keep s (State.reshade t a1) := by
  unfold State.reshade
  try extract_lets
  repeat' first | with_reducible assumption | with_reducible apply State.setPanel_keep | split | intro _ | with_reducible (refine Keep.upd ?_) | with_reducible (refine Keep.fst (by assumption) ?_) | with_reducible (refine Keep.snd (by assumption) ?_) | dsimp only

theorem execShadowSwatch_keep (h : Keep s t) (a1 : Nat) (a2 : Bool) (a3 : BitVec 384) (a4 : BitVec 384) : Keeps s (execShadowSwatch a1 a2 a3 a4 t) := by
  unfold execShadowSwatch
  try extract_lets
  repeat' first | with_reducible assumption | with_reducible apply State.mismatch_keep | with_reducible apply State.judge_keep | with_reducible apply State.closeDecided_keep | with_reducible apply State.reshade_keep | with_reducible (refine Keeps.of ?_) | with_reducible exact Keeps.fault _ | split | intro _ | with_reducible (refine Keep.upd ?_) | with_reducible (refine Keep.fst (by assumption) ?_) | with_reducible (refine Keep.snd (by assumption) ?_) | dsimp only

theorem execCrossSwatch_keep (h : Keep s t) (a1 : Nat) (a2 : Bool) (a3 : Nat) (a4 : BitVec 384) (a5 : BitVec 384) : Keeps s (execCrossSwatch a1 a2 a3 a4 a5 t) := by
  unfold execCrossSwatch
  try extract_lets
  repeat' first | with_reducible assumption | with_reducible apply State.mismatch_keep | with_reducible apply State.judge_keep | with_reducible apply State.closeDecided_keep | with_reducible (refine Keeps.of ?_) | with_reducible exact Keeps.fault _ | split | intro _ | with_reducible (refine Keep.upd ?_) | with_reducible (refine Keep.fst (by assumption) ?_) | with_reducible (refine Keep.snd (by assumption) ?_) | dsimp only

theorem State.loseSeg_keep (h : Keep s t) (a1 : Seg) : Keep s (State.loseSeg t a1) := by
  unfold State.loseSeg
  try extract_lets
  repeat' first | with_reducible assumption | with_reducible apply State.poisonRange_keep | with_reducible apply State.finishTask_keep | with_reducible apply State.failAttempt_keep | split | with_reducible apply Keep.fold | with_reducible apply Keep.foldFst | with_reducible apply Keep.foldSnd | intro _ | with_reducible (refine Keep.fst (by assumption) ?_) | with_reducible (refine Keep.snd (by assumption) ?_) | dsimp only

theorem State.replacePanel_keep (h : Keep s t) (a1 : Nat) : Keep s (State.replacePanel t a1) := by
  unfold State.replacePanel
  try extract_lets
  repeat' first | with_reducible assumption | with_reducible apply State.setPanel_keep | with_reducible apply State.log_keep | with_reducible apply State.loseSeg_keep | split | with_reducible apply Keep.fold | with_reducible apply Keep.foldFst | with_reducible apply Keep.foldSnd | intro _ | with_reducible (refine Keep.upd ?_) | with_reducible (refine Keep.fst (by assumption) ?_) | with_reducible (refine Keep.snd (by assumption) ?_) | dsimp only

theorem State.passOn_keep (h : Keep s t) (a1 : Nat) : Keep s (State.passOn t a1) := by
  unfold State.passOn
  try extract_lets
  repeat' first | with_reducible assumption | with_reducible apply State.log_keep | with_reducible apply State.reshade_keep | with_reducible apply State.replacePanel_keep | split | intro _ | with_reducible (refine Keep.upd ?_) | with_reducible (refine Keep.fst (by assumption) ?_) | with_reducible (refine Keep.snd (by assumption) ?_) | dsimp only

theorem State.applyFences_keep (h : Keep s t) : Keep s (State.applyFences t) := by
  unfold State.applyFences
  try extract_lets
  repeat' first | with_reducible assumption | with_reducible apply State.replacePanel_keep | with_reducible apply State.passOn_keep | split | with_reducible apply Keep.fold | with_reducible apply Keep.foldFst | with_reducible apply Keep.foldSnd | intro _ | with_reducible (refine Keep.upd ?_) | with_reducible (refine Keep.fst (by assumption) ?_) | with_reducible (refine Keep.snd (by assumption) ?_) | dsimp only

end Sys2Proof.Machine
end

