-- ==== Sys2Proof/Laws/KeepSeal.lean ====
section
/-! SUPPORT. The operations of Machine/Seal.lean keep the queue and the form of memory. -/
namespace Sys2Proof.Machine

variable {s t : State}

theorem State.setSw_keep (h : Keep s t) (a1 : SwOp) : Keep s (State.setSw t a1) := by
  unfold State.setSw
  try extract_lets
  repeat' first | with_reducible assumption | split | intro _ | with_reducible (refine Keep.upd ?_) | with_reducible (refine Keep.fst (by assumption) ?_) | with_reducible (refine Keep.snd (by assumption) ?_) | dsimp only

theorem State.dropSw_keep (h : Keep s t) (a1 : SwOp) : Keep s (State.dropSw t a1) := by
  unfold State.dropSw
  try extract_lets
  repeat' first | with_reducible assumption | split | intro _ | with_reducible (refine Keep.upd ?_) | with_reducible (refine Keep.fst (by assumption) ?_) | with_reducible (refine Keep.snd (by assumption) ?_) | dsimp only

theorem State.swDown_keep (h : Keep s t) (a1 : SwOp) (a2 : Bool) (a3 : List Int) : Keep s (State.swDown t a1 a2 a3) := by
  unfold State.swDown
  try extract_lets
  repeat' first | with_reducible assumption | with_reducible apply State.lsSend_keep | split | with_reducible apply Keep.fold | with_reducible apply Keep.foldFst | with_reducible apply Keep.foldSnd | intro _ | with_reducible (refine Keep.fst (by assumption) ?_) | with_reducible (refine Keep.snd (by assumption) ?_) | dsimp only

theorem State.swEnd_keep (h : Keep s t) (a1 : SwOp) (a2 : Bool) (a3 : List Int) : Keep s (State.swEnd t a1 a2 a3).1 := by
  unfold State.swEnd
  try dsimp only
  repeat' first | with_reducible assumption | with_reducible apply State.log_keep | with_reducible apply State.dropSw_keep | with_reducible apply State.swDown_keep | split | intro _ | with_reducible (refine Keep.upd ?_) | with_reducible (refine Keep.fst (by assumption) ?_) | with_reducible (refine Keep.snd (by assumption) ?_) | dsimp only

theorem State.swTry_keep (h : Keep s t) (a1 : SwOp) : Keep s (State.swTry t a1).1 := by
  unfold State.swTry
  try extract_lets
  repeat' first | with_reducible assumption | with_reducible apply State.lsSend_keep | with_reducible apply State.setSw_keep | with_reducible apply State.swEnd_keep | split | with_reducible apply Keep.fold | with_reducible apply Keep.foldFst | with_reducible apply Keep.foldSnd | intro _ | with_reducible (refine Keep.upd ?_) | with_reducible (refine Keep.fst (by assumption) ?_) | with_reducible (refine Keep.snd (by assumption) ?_) | dsimp only

theorem State.swStart_keep (h : Keep s t) (a1 : Nat) (a2 : Nat) (a3 : Nat) (a4 : List Int) (a5 : Nat) (a6 : Nat) (a7 : Nat) : Keep s (State.swStart t a1 a2 a3 a4 a5 a6 a7).1 := by
  unfold State.swStart
  try extract_lets
  repeat' first | with_reducible assumption | with_reducible apply State.setCtx_keep | with_reducible apply State.setSw_keep | with_reducible apply State.swTry_keep | split | intro _ | with_reducible (refine Keep.upd ?_) | with_reducible (refine Keep.fst (by assumption) ?_) | with_reducible (refine Keep.snd (by assumption) ?_) | dsimp only

theorem State.useSum_keep (h : Keep s t) (a1 : SwOp) : Keep s (State.useSum t a1) := by
  unfold State.useSum
  try extract_lets
  repeat' first | with_reducible assumption | with_reducible apply State.setCtx_keep | with_reducible apply State.failAttempt_keep | with_reducible apply State.setAtt_keep | split | intro _ | with_reducible (refine Keep.upd ?_) | with_reducible (refine Keep.fst (by assumption) ?_) | with_reducible (refine Keep.snd (by assumption) ?_) | dsimp only

theorem State.useMax_keep (h : Keep s t) (a1 : SwOp) : Keep s (State.useMax t a1) := by
  unfold State.useMax
  try dsimp only
  repeat' first | with_reducible assumption | with_reducible apply State.failAttempt_keep | with_reducible apply State.setAtt_keep | with_reducible apply State.swStart_keep | with_reducible apply State.useSum_keep | split | intro _ | with_reducible (refine Keep.upd ?_) | with_reducible (refine Keep.fst (by assumption) ?_) | with_reducible (refine Keep.snd (by assumption) ?_) | dsimp only

theorem State.skewCheck_keep (h : Keep s t) (a1 : Nat) : Keep s (State.skewCheck t a1) := by
  unfold State.skewCheck
  try extract_lets
  repeat' first | with_reducible assumption | with_reducible apply State.log_keep | with_reducible apply State.setAtt_keep | split | with_reducible apply Keep.fold | with_reducible apply Keep.foldFst | with_reducible apply Keep.foldSnd | intro _ | with_reducible (refine Keep.upd ?_) | with_reducible (refine Keep.fst (by assumption) ?_) | with_reducible (refine Keep.snd (by assumption) ?_) | dsimp only

theorem State.noteVote_keep (h : Keep s t) (a1 : SwOp) : Keep s (State.noteVote t a1) := by
  unfold State.noteVote
  try extract_lets
  repeat' first | with_reducible assumption | with_reducible apply State.setAtt_keep | split | intro _ | with_reducible (refine Keep.upd ?_) | with_reducible (refine Keep.fst (by assumption) ?_) | with_reducible (refine Keep.snd (by assumption) ?_) | dsimp only

theorem State.voteNext_keep (h : Keep s t) (a1 : SwOp) : Keep s (State.voteNext t a1).1 := by
  unfold State.voteNext
  try extract_lets
  repeat' first | with_reducible assumption | with_reducible apply State.swStart_keep | split | intro _ | with_reducible (refine Keep.fst (by assumption) ?_) | with_reducible (refine Keep.snd (by assumption) ?_) | dsimp only

theorem State.voteRun_keep (f : Nat) : ∀ {t : State} (o : SwOp), Keep s t → Keep s (State.voteRun f t o) := by
  induction f with
  | zero => exact fun o h => State.noteVote_keep h o
  | succ f ih =>
    intro t o h
    unfold State.voteRun
    have hv := State.voteNext_keep (State.noteVote_keep h o) o
    split
    · exact ih _ (Keep.fst ‹_› hv)
    · exact Keep.fst ‹_› hv

theorem State.useVote_keep (h : Keep s t) (o : SwOp) : Keep s (t.useVote o) := State.voteRun_keep _ _ h

theorem State.useBarrier_keep (h : Keep s t) (a1 : SwOp) : Keep s (State.useBarrier t a1) := by
  unfold State.useBarrier
  try extract_lets
  repeat' first | with_reducible assumption | with_reducible apply State.endsWith_keep | split | intro _ | with_reducible (refine Keep.fst (by assumption) ?_) | with_reducible (refine Keep.snd (by assumption) ?_) | dsimp only

theorem swUse_keep {p : State × Option SwOp} (h : Keep s p.1) : Keep s (swUse p) := by
  unfold swUse
  split
  · exact h
  · split
    · exact State.useMax_keep h _
    · exact State.useSum_keep h _
    · exact State.useBarrier_keep h _
    · exact h
    · exact State.useVote_keep h _

theorem State.issueVote_keep (h : Keep s t) (n : Nat) : Keep s (t.issueVote n) := by
  unfold State.issueVote
  extract_lets x c a norm _ s1 s2 s3
  split
  · exact h
  · have h1 : Keep s s1 := State.setAtt_keep h _ _
    have h2 : Keep s s2 := by
      unfold s2; split
      · exact State.swStart_keep h1 _ _ _ _ _ _ _
      · exact h1
    have h3 : Keep s s3 := by
      unfold s3; split
      · exact State.swStart_keep h2 _ _ _ _ _ _ _
      · exact h2
    clear_value s3
    exact swUse_keep (State.swStart_keep h3 _ _ _ _ _ _ _)

theorem State.sendNotice_keep (h : Keep s t) (a1 : Nat) (a2 : Msg) : Keep s (State.sendNotice t a1 a2) := by
  unfold State.sendNotice
  try extract_lets
  repeat' first | with_reducible assumption | with_reducible apply State.lsSend_keep | split | with_reducible apply Keep.fold | with_reducible apply Keep.foldFst | with_reducible apply Keep.foldSnd | intro _ | with_reducible (refine Keep.fst (by assumption) ?_) | with_reducible (refine Keep.snd (by assumption) ?_) | dsimp only

theorem State.dropQueued_keep (h : Keep s t) (a1 : Nat) : Keep s (State.dropQueued t a1) := by
  unfold State.dropQueued
  try extract_lets
  repeat' first | with_reducible assumption | split | intro _ | with_reducible (refine Keep.upd ?_) | with_reducible (refine Keep.fst (by assumption) ?_) | with_reducible (refine Keep.snd (by assumption) ?_) | dsimp only

theorem State.failVote_keep (h : Keep s t) (a1 : Nat) : Keep s (State.failVote t a1) := by
  unfold State.failVote
  try extract_lets
  repeat' first | with_reducible assumption | with_reducible apply State.skewCheck_keep | with_reducible apply State.issueVote_keep | with_reducible apply State.sendNotice_keep | with_reducible apply State.dropQueued_keep | split | intro _ | with_reducible (refine Keep.fst (by assumption) ?_) | with_reducible (refine Keep.snd (by assumption) ?_) | dsimp only

theorem State.onNotice_keep (h : Keep s t) (a1 : Nat) (a2 : Nat) (a3 : Nat) (a4 : Nat) : Keep s (State.onNotice t a1 a2 a3 a4) := by
  unfold State.onNotice
  try dsimp only
  repeat' first | with_reducible assumption | with_reducible apply State.setSlot_keep | with_reducible apply State.skewCheck_keep | with_reducible apply State.issueVote_keep | with_reducible apply State.dropQueued_keep | split | intro _ | with_reducible (refine Keep.upd ?_) | with_reducible (refine Keep.fst (by assumption) ?_) | with_reducible (refine Keep.snd (by assumption) ?_) | dsimp only

theorem State.sendDelta_keep (h : Keep s t) (a1 : Nat) (a2 : Nat) (a3 : List Nat) : Keep s (State.sendDelta t a1 a2 a3) := by
  unfold State.sendDelta
  try extract_lets
  repeat' first | with_reducible assumption | with_reducible apply State.setCtx_keep | with_reducible apply State.lsSendAll_keep | split | intro _ | with_reducible (refine Keep.upd ?_) | with_reducible (refine Keep.fst (by assumption) ?_) | with_reducible (refine Keep.snd (by assumption) ?_) | dsimp only

theorem State.setUpd_keep (h : Keep s t) (a1 : Nat) (a2 : Nat) (a3 : Bool) (a4 : Option Nat) : Keep s (State.setUpd t a1 a2 a3 a4) := by
  unfold State.setUpd
  try extract_lets
  repeat' first | with_reducible assumption | with_reducible apply State.setCtx_keep | split | intro _ | with_reducible (refine Keep.upd ?_) | with_reducible (refine Keep.fst (by assumption) ?_) | with_reducible (refine Keep.snd (by assumption) ?_) | dsimp only

theorem State.renewScale_keep (h : Keep s t) (a1 : Nat) (a2 : BitVec 32) (a3 : Nat) : Keep s (State.renewScale t a1 a2 a3) := by
  unfold State.renewScale
  try extract_lets
  repeat' first | with_reducible assumption | with_reducible apply State.setAtt_keep | split | intro _ | with_reducible (refine Keep.upd ?_) | with_reducible (refine Keep.fst (by assumption) ?_) | with_reducible (refine Keep.snd (by assumption) ?_) | dsimp only

theorem State.applySeal_keep (h : Keep s t) (a1 : Nat) (a2 : Bool) : Keep s (State.applySeal t a1 a2) := by
  unfold State.applySeal
  try dsimp only
  repeat' first | with_reducible assumption | with_reducible apply State.setCtx_keep | with_reducible apply State.leaveSlot_keep | with_reducible apply State.finishTask_keep | with_reducible apply State.dropWork_keep | with_reducible apply State.closeSuspects_keep | with_reducible apply State.wantReceipt_keep | with_reducible apply State.sendDelta_keep | with_reducible apply State.setUpd_keep | with_reducible apply State.renewScale_keep | split | with_reducible apply Keep.fold | with_reducible apply Keep.foldFst | with_reducible apply Keep.foldSnd | intro _ | with_reducible (refine Keep.upd ?_) | with_reducible (refine Keep.fst (by assumption) ?_) | with_reducible (refine Keep.snd (by assumption) ?_) | dsimp only

theorem State.applyReplay_keep (h : Keep s t) (a1 : Nat) : Keep s (State.applyReplay t a1) := by
  unfold State.applyReplay
  try extract_lets
  repeat' first | with_reducible assumption | with_reducible apply State.setCtx_keep | with_reducible apply State.setSlot_keep | with_reducible apply State.log_keep | with_reducible apply State.dropWork_keep | with_reducible apply State.resetTasks_keep | with_reducible apply State.openAll_keep | split | with_reducible apply Keep.fold | with_reducible apply Keep.foldFst | with_reducible apply Keep.foldSnd | intro _ | with_reducible (refine Keep.upd ?_) | with_reducible (refine Keep.fst (by assumption) ?_) | with_reducible (refine Keep.snd (by assumption) ?_) | dsimp only

theorem State.applyOutcome_keep (h : Keep s t) (a1 : Nat) : Keep s (State.applyOutcome t a1) := by
  unfold State.applyOutcome
  try extract_lets
  repeat' first | with_reducible assumption | with_reducible apply State.log_keep | with_reducible apply State.leaveSlot_keep | with_reducible apply State.finishTask_keep | with_reducible apply State.dropWork_keep | with_reducible apply State.closeSuspects_keep | with_reducible apply State.abandonStep_keep | with_reducible apply State.applySeal_keep | split | intro _ | with_reducible (refine Keep.fst (by assumption) ?_) | with_reducible (refine Keep.snd (by assumption) ?_) | dsimp only

theorem execGradientNormStart_keep (h : Keep s t) (a1 : Nat) : Keeps s (execGradientNormStart a1 t) := by
  unfold execGradientNormStart
  try extract_lets
  repeat' first | with_reducible assumption | with_reducible apply State.setAtt_keep | with_reducible apply State.swStart_keep | with_reducible apply swUse_keep | with_reducible (refine Keeps.of ?_) | with_reducible exact Keeps.fault _ | split | intro _ | with_reducible (refine Keep.upd ?_) | with_reducible (refine Keep.fst (by assumption) ?_) | with_reducible (refine Keep.snd (by assumption) ?_) | dsimp only

theorem execSealVoteIssue_keep (h : Keep s t) (a1 : Nat) : Keeps s (execSealVoteIssue a1 t) := by
  unfold execSealVoteIssue
  try extract_lets
  repeat' first | with_reducible assumption | with_reducible apply State.skewCheck_keep | with_reducible apply State.issueVote_keep | with_reducible apply State.failVote_keep | with_reducible (refine Keeps.of ?_) | with_reducible exact Keeps.fault _ | split | intro _ | with_reducible (refine Keep.fst (by assumption) ?_) | with_reducible (refine Keep.snd (by assumption) ?_) | dsimp only

theorem execStopNotice_keep (h : Keep s t) (f : Frame) : Keeps s (execStopNotice f t) := by
  unfold execStopNotice
  refine Keeps.of ?_
  split
  · exact h
  · refine State.accept_keep h f fun u p v hu e => ?_
    extract_lets at e
    split at e
    · refine Option.some.inj e ▸ State.onNotice_keep ?_ _ _ _ _
      split
      · exact State.sendNotice_keep hu _ _
      · exact Keep.fold (fun _ _ h => State.lsSend_keep h _ _ _) _ _ hu
    · exact Option.some.inj e ▸ hu

theorem execSwashPacket_keep (h : Keep s t) (f : Frame) : Keeps s (execSwashPacket f t) := by
  unfold execSwashPacket
  refine Keeps.of ?_
  split
  · exact h
  · refine State.accept_keep h f fun u p v hu e => ?_
    extract_lets at e
    split at e
    · split at e
      · extract_lets at e
        split at e
        · exact Option.some.inj e ▸ hu
        · exact Option.some.inj e ▸ swUse_keep (State.swTry_keep (State.setSw_keep hu _) _)
      · split at e
        · exact Option.some.inj e ▸ hu
        · exact Option.some.inj e ▸ swUse_keep (State.swEnd_keep hu _ _ _)
    · exact Option.some.inj e ▸ hu

theorem execReplayStart_keep (h : Keep s t) (a1 : Nat) : Keeps s (execReplayStart a1 t) := by
  unfold execReplayStart
  try extract_lets
  repeat' first | with_reducible assumption | with_reducible apply State.applyReplay_keep | with_reducible (refine Keeps.of ?_) | with_reducible exact Keeps.fault _ | split | intro _ | with_reducible (refine Keep.fst (by assumption) ?_) | with_reducible (refine Keep.snd (by assumption) ?_) | dsimp only

end Sys2Proof.Machine
end

