-- ==== Sys2Proof/Laws/KeepFinish.lean ====
section
/-! SUPPORT. The operations of Machine/Finish.lean keep the queue and the form of memory. -/
namespace Sys2Proof.Machine

variable {s t : State}

theorem State.qeEvents_keep (h : Keep s t) (a1 : Nat) (a2 : Nat) : Keep s (State.qeEvents t a1 a2) := by
  unfold State.qeEvents
  try extract_lets
  repeat' first | with_reducible assumption | with_reducible apply State.setSlot_keep | with_reducible apply State.setPanel_keep | with_reducible apply State.log_keep | split | with_reducible apply Keep.fold | with_reducible apply Keep.foldFst | with_reducible apply Keep.foldSnd | intro _ | with_reducible (refine Keep.upd ?_) | with_reducible (refine Keep.fst (by assumption) ?_) | with_reducible (refine Keep.snd (by assumption) ?_) | dsimp only

theorem State.shadowsSet_keep (h : Keep s t) (a1 : Nat) (a2 : Nat) : Keep s (State.shadowsSet t a1 a2) := by
  unfold State.shadowsSet
  try extract_lets
  repeat' first | with_reducible assumption | with_reducible apply State.setCtx_keep | split | with_reducible apply Keep.fold | with_reducible apply Keep.foldFst | with_reducible apply Keep.foldSnd | intro _ | with_reducible (refine Keep.upd ?_) | with_reducible (refine Keep.fst (by assumption) ?_) | with_reducible (refine Keep.snd (by assumption) ?_) | dsimp only

theorem State.finishWell_keep (h : Keep s t) (a1 : Nat) (a2 : Nat) : Keep s (State.finishWell t a1 a2) := by
  unfold State.finishWell
  try extract_lets
  repeat' first | with_reducible assumption | with_reducible apply State.finishTask_keep | with_reducible apply State.qeEvents_keep | with_reducible apply State.shadowsSet_keep | split | intro _ | with_reducible (refine Keep.fst (by assumption) ?_) | with_reducible (refine Keep.snd (by assumption) ?_) | dsimp only

theorem State.copyRow_keep (h : Keep s t) (a1 : TRec) (a2 : Nat) : Keep s (State.copyRow t a1 a2) := by
  unfold State.copyRow
  try extract_lets
  repeat' first | with_reducible assumption | with_reducible apply State.mark_keep | with_reducible apply State.attachRow_keep | split | with_reducible apply Keep.fold | with_reducible apply Keep.foldFst | with_reducible apply Keep.foldSnd | intro _ | with_reducible (refine Keep.upd ?_) | with_reducible (refine Keep.memory ?_ (fun _ => ?_)) | with_reducible apply Memory.wf_wrBs | with_reducible apply Memory.wf_wrB | with_reducible apply Memory.wf_tset | with_reducible apply Memory.wf_tkeep | with_reducible apply TRec.retag_wf | with_reducible apply TRec.reshadow_wf | with_reducible apply TRec.fill_wf | with_reducible apply TRec.copyRow_wf | with_reducible apply TRec.putBlock_wf | with_reducible apply TRec.writeRow_wf | with_reducible apply Memory.wf_fold | with_reducible exact Memory.wf_nil | with_reducible (refine Keep.fst (by assumption) ?_) | with_reducible (refine Keep.snd (by assumption) ?_) | dsimp only

theorem State.upRow_keep (h : Keep s t) (a1 : Nat) (a2 : Nat) (a3 : TaskEnv) (a4 : Nat) (a5 : Nat) : Keep s (State.upRow t a1 a2 a3 a4 a5) := by
  unfold State.upRow
  try extract_lets
  repeat' first | with_reducible assumption | with_reducible apply State.noteWrite_keep | with_reducible apply State.writeRun_keep | with_reducible apply State.copyRow_keep | split | with_reducible apply Keep.fold | with_reducible apply Keep.foldFst | with_reducible apply Keep.foldSnd | intro _ | with_reducible (refine Keep.fst (by assumption) ?_) | with_reducible (refine Keep.snd (by assumption) ?_) | dsimp only

theorem State.runUpdate_keep (h : Keep s t) (a1 : Nat) (a2 : Nat) : Keep s (State.runUpdate t a1 a2) := by
  unfold State.runUpdate
  try dsimp only
  repeat' first | with_reducible assumption | with_reducible apply State.endsWith_keep | with_reducible apply State.noteFmt_keep | with_reducible apply State.setAtt_keep | with_reducible apply State.upRow_keep | split | with_reducible apply Keep.fold | with_reducible apply Keep.foldFst | with_reducible apply Keep.foldSnd | intro _ | with_reducible (refine Keep.upd ?_) | with_reducible (refine Keep.fst (by assumption) ?_) | with_reducible (refine Keep.snd (by assumption) ?_) | dsimp only

theorem State.moveCopy_keep (h : Keep s t) (a1 : Nat) (a2 : Nat) : Keep s (State.moveCopy t a1 a2) := by
  unfold State.moveCopy
  try extract_lets
  repeat' first | with_reducible assumption | with_reducible apply State.noteFmt_keep | with_reducible apply State.gradOvf_keep | with_reducible apply State.noteWrite_keep | with_reducible apply State.writeRun_keep | split | with_reducible apply Keep.fold | with_reducible apply Keep.foldFst | with_reducible apply Keep.foldSnd | intro _ | with_reducible (refine Keep.fst (by assumption) ?_) | with_reducible (refine Keep.snd (by assumption) ?_) | dsimp only

theorem State.moveRetag_keep (h : Keep s t) (a1 : Nat) (a2 : Nat) (a3 : TRec) : Keep s (State.moveRetag t a1 a2 a3) := by
  unfold State.moveRetag
  repeat' first | with_reducible assumption | with_reducible apply State.setCtx_keep | with_reducible apply State.attach_keep | with_reducible apply State.noteFmt_keep | with_reducible apply State.noteWrite_keep | split | with_reducible apply Keep.fold | with_reducible apply Keep.foldFst | with_reducible apply Keep.foldSnd | intro _ | with_reducible (refine Keep.upd ?_) | with_reducible (refine Keep.memory ?_ (fun _ => ?_)) | with_reducible apply Memory.wf_wrBs | with_reducible apply Memory.wf_wrB | with_reducible apply Memory.wf_tset | with_reducible apply Memory.wf_tkeep | with_reducible apply TRec.retag_wf | with_reducible apply TRec.reshadow_wf | with_reducible apply TRec.fill_wf | with_reducible apply TRec.copyRow_wf | with_reducible apply TRec.putBlock_wf | with_reducible apply TRec.writeRow_wf | with_reducible apply Memory.wf_fold | with_reducible exact Memory.wf_nil | with_reducible (refine Keep.fst (by assumption) ?_) | with_reducible (refine Keep.snd (by assumption) ?_) | dsimp only

theorem State.moveHost_keep (h : Keep s t) (a1 : Nat) (a2 : Nat) : Keep s (State.moveHost t a1 a2) := by
  unfold State.moveHost
  try dsimp only
  repeat' first | with_reducible assumption | with_reducible apply State.emit_keep | with_reducible apply State.attachRow_keep | with_reducible apply State.store_keep | with_reducible apply State.draw_keep | split | with_reducible apply Keep.fold | with_reducible apply Keep.foldFst | with_reducible apply Keep.foldSnd | intro _ | with_reducible (refine Keep.upd ?_) | with_reducible (refine Keep.memory ?_ (fun _ => ?_)) | with_reducible apply Memory.wf_wrBs | with_reducible apply Memory.wf_wrB | with_reducible apply Memory.wf_tset | with_reducible apply Memory.wf_tkeep | with_reducible apply TRec.retag_wf | with_reducible apply TRec.reshadow_wf | with_reducible apply TRec.fill_wf | with_reducible apply TRec.copyRow_wf | with_reducible apply TRec.putBlock_wf | with_reducible apply TRec.writeRow_wf | with_reducible apply Memory.wf_fold | with_reducible exact Memory.wf_nil | with_reducible (refine Keep.fst (by assumption) ?_) | with_reducible (refine Keep.snd (by assumption) ?_) | dsimp only

theorem execUpdateProgramRun_keep (h : Keep s t) (a1 : Nat) (a2 : Nat) : Keeps s (execUpdateProgramRun a1 a2 t) := by
  unfold execUpdateProgramRun
  try extract_lets
  repeat' first | with_reducible assumption | with_reducible apply State.runUpdate_keep | with_reducible (refine Keeps.of ?_) | with_reducible exact Keeps.fault _ | split | intro _ | with_reducible (refine Keep.fst (by assumption) ?_) | with_reducible (refine Keep.snd (by assumption) ?_) | dsimp only

theorem execMoveComplete_keep (h : Keep s t) (a1 : Nat) (a2 : Nat) : Keeps s (execMoveComplete a1 a2 t) := by
  unfold execMoveComplete
  try dsimp only
  repeat' first | with_reducible assumption | with_reducible apply State.endsWith_keep | with_reducible apply State.moveCopy_keep | with_reducible apply State.moveRetag_keep | with_reducible apply State.moveHost_keep | with_reducible (refine Keeps.of ?_) | with_reducible exact Keeps.fault _ | split | intro _ | with_reducible (refine Keep.fst (by assumption) ?_) | with_reducible (refine Keep.snd (by assumption) ?_) | dsimp only

end Sys2Proof.Machine
end

