-- ==== Sys2Proof/Laws/KeepAttn.lean ====
section
/-! SUPPORT. The operations of Machine/Attn.lean keep the queue and the form of memory. -/
namespace Sys2Proof.Machine

variable {s t : State}

theorem State.breach_keep (h : Keep s t) (a1 : Nat) (a2 : Nat) (a3 : Nat) (a4 : Bool) (a5 : Nat) : Keep s (State.breach t a1 a2 a3 a4 a5) := by
  unfold State.breach
  try extract_lets
  repeat' first | with_reducible assumption | with_reducible apply State.setPanel_keep | with_reducible apply State.log_keep | with_reducible apply State.noteWrite_keep | split | intro _ | with_reducible (refine Keep.upd ?_) | with_reducible (refine Keep.fst (by assumption) ?_) | with_reducible (refine Keep.snd (by assumption) ?_) | dsimp only

theorem State.readPoison_keep (h : Keep s t) (a1 : Seg) (a2 : Bool) : Keep s (State.readPoison t a1 a2) := by
  unfold State.readPoison
  try extract_lets
  repeat' first | with_reducible assumption | with_reducible apply State.endsWith_keep | split | intro _ | with_reducible (refine Keep.fst (by assumption) ?_) | with_reducible (refine Keep.snd (by assumption) ?_) | dsimp only

theorem State.attnForward_keep (h : Keep s t) (a1 : Nat) (a2 : Seg) : Keep s (State.attnForward t a1 a2) := by
  unfold State.attnForward
  try extract_lets
  repeat' first | with_reducible assumption | with_reducible apply State.gradOvf_keep | with_reducible apply State.noteWrite_keep | with_reducible apply State.writeRun_keep | with_reducible apply State.breach_keep | with_reducible apply State.readPoison_keep | split | with_reducible apply Keep.fold | with_reducible apply Keep.foldFst | with_reducible apply Keep.foldSnd | intro _ | with_reducible (refine Keep.fst (by assumption) ?_) | with_reducible (refine Keep.snd (by assumption) ?_) | dsimp only

theorem State.attnDelta_keep (h : Keep s t) (a1 : Seg) : Keep s (State.attnDelta t a1) := by
  unfold State.attnDelta
  try extract_lets
  repeat' first | with_reducible assumption | with_reducible apply State.gradOvf_keep | with_reducible apply State.noteWrite_keep | with_reducible apply State.writeRun_keep | with_reducible apply State.readPoison_keep | split | with_reducible apply Keep.fold | with_reducible apply Keep.foldFst | with_reducible apply Keep.foldSnd | intro _ | with_reducible (refine Keep.fst (by assumption) ?_) | with_reducible (refine Keep.snd (by assumption) ?_) | dsimp only

theorem State.attnDS_keep (h : Keep s t) (a1 : Nat) (a2 : Seg) (a3 : TaskEnv) (a4 : TRec) (a5 : TRec) (a6 : TRec) (a7 : TRec) (a8 : TRec) (a9 : List Nat) (a10 : TRec) : Keep s (State.attnDS t a1 a2 a3 a4 a5 a6 a7 a8 a9 a10) := by
  unfold State.attnDS
  try extract_lets
  repeat' first | with_reducible assumption | with_reducible apply State.gradOvf_keep | with_reducible apply State.noteWrite_keep | with_reducible apply State.writeRun_keep | with_reducible apply State.breach_keep | with_reducible apply State.readPoison_keep | split | with_reducible apply Keep.fold | with_reducible apply Keep.foldFst | with_reducible apply Keep.foldSnd | intro _ | with_reducible (refine Keep.fst (by assumption) ?_) | with_reducible (refine Keep.snd (by assumption) ?_) | dsimp only

theorem State.attnDV_keep (h : Keep s t) (a1 : Seg) (a2 : TaskEnv) (a3 : TRec) (a4 : TRec) (a5 : TRec) (a6 : TRec) (a7 : TRec) (a8 : List (Nat × Nat)) (a9 : TRec) : Keep s (State.attnDV t a1 a2 a3 a4 a5 a6 a7 a8 a9) := by
  unfold State.attnDV
  try extract_lets
  repeat' first | with_reducible assumption | with_reducible apply State.setSlot_keep | with_reducible apply State.setRed_keep | with_reducible apply State.climbsRed_keep | with_reducible apply State.contribute_keep | with_reducible apply State.gradOvf_keep | with_reducible apply State.noteWrite_keep | with_reducible apply State.writeRun_keep | with_reducible apply State.readPoison_keep | split | with_reducible apply Keep.fold | with_reducible apply Keep.foldFst | with_reducible apply Keep.foldSnd | intro _ | with_reducible (refine Keep.upd ?_) | with_reducible (refine Keep.fst (by assumption) ?_) | with_reducible (refine Keep.snd (by assumption) ?_) | dsimp only

theorem State.attnBackward_keep (h : Keep s t) (a1 : Nat) (a2 : Seg) : Keep s (State.attnBackward t a1 a2) := by
  unfold State.attnBackward
  try extract_lets
  repeat' first | with_reducible assumption | with_reducible apply State.breach_keep | with_reducible apply State.attnDS_keep | with_reducible apply State.attnDV_keep | split | with_reducible apply Keep.fold | with_reducible apply Keep.foldFst | with_reducible apply Keep.foldSnd | intro _ | with_reducible (refine Keep.fst (by assumption) ?_) | with_reducible (refine Keep.snd (by assumption) ?_) | dsimp only

theorem State.takeSound_keep (h : Keep s t) (a1 : Red) (a2 : Nat) (a3 : Nat) (a4 : List (Nat × Int)) (a5 : Bool) : Keep s (State.takeSound t a1 a2 a3 a4 a5) := by
  unfold State.takeSound
  try extract_lets
  repeat' first | with_reducible assumption | with_reducible apply State.lsSendAll_keep | with_reducible apply State.setRed_keep | with_reducible apply State.toDown_keep | split | with_reducible apply Keep.fold | with_reducible apply Keep.foldFst | with_reducible apply Keep.foldSnd | intro _ | with_reducible (refine Keep.upd ?_) | with_reducible (refine Keep.fst (by assumption) ?_) | with_reducible (refine Keep.snd (by assumption) ?_) | dsimp only

theorem State.sendSound_keep (h : Keep s t) (a1 : Nat) (a2 : Nat) (a3 : Nat) : Keep s (State.sendSound t a1 a2 a3) := by
  unfold State.sendSound
  try extract_lets
  repeat' first | with_reducible assumption | with_reducible apply State.takeSound_keep | split | intro _ | with_reducible (refine Keep.fst (by assumption) ?_) | with_reducible (refine Keep.snd (by assumption) ?_) | dsimp only

theorem State.attnPartial_keep (h : Keep s t) (a1 : Nat) (a2 : Seg) : Keep s (State.attnPartial t a1 a2) := by
  unfold State.attnPartial
  try extract_lets
  repeat' first | with_reducible assumption | with_reducible apply State.setRed_keep | with_reducible apply State.contribute_keep | with_reducible apply State.breach_keep | with_reducible apply State.readPoison_keep | split | with_reducible apply Keep.fold | with_reducible apply Keep.foldFst | with_reducible apply Keep.foldSnd | intro _ | with_reducible (refine Keep.upd ?_) | with_reducible (refine Keep.fst (by assumption) ?_) | with_reducible (refine Keep.snd (by assumption) ?_) | dsimp only

theorem State.attnDrain_keep (h : Keep s t) (a1 : Red) (a2 : Piece) : Keep s (State.attnDrain t a1 a2) := by
  unfold State.attnDrain
  try dsimp only
  repeat' first | with_reducible assumption | with_reducible apply State.gradOvf_keep | with_reducible apply State.noteWrite_keep | with_reducible apply State.writeRun_keep | split | with_reducible apply Keep.fold | with_reducible apply Keep.foldFst | with_reducible apply Keep.foldSnd | intro _ | with_reducible (refine Keep.fst (by assumption) ?_) | with_reducible (refine Keep.snd (by assumption) ?_) | dsimp only

theorem State.attnSeg_keep (h : Keep s t) (a1 : Nat) (a2 : Seg) : Keep s (State.attnSeg t a1 a2) := by
  unfold State.attnSeg
  try extract_lets
  repeat' first | with_reducible assumption | with_reducible apply State.noteFmt_keep | with_reducible apply State.attnForward_keep | with_reducible apply State.attnDelta_keep | with_reducible apply State.attnBackward_keep | with_reducible apply State.attnPartial_keep | split | with_reducible apply Keep.fold | with_reducible apply Keep.foldFst | with_reducible apply Keep.foldSnd | intro _ | with_reducible (refine Keep.fst (by assumption) ?_) | with_reducible (refine Keep.snd (by assumption) ?_) | dsimp only

end Sys2Proof.Machine
end

