-- ==== Sys2Proof/Laws/KeepPorts.lean ====
section
/-! SUPPORT. The operations of Machine/Ports.lean keep the queue and the form of memory. -/
namespace Sys2Proof.Machine

variable {s t : State}

theorem State.respray_keep (h : Keep s t) (w : Waiting) : Keep s (t.respray w) := by
  unfold State.respray
  extract_lets
  repeat' first | with_reducible assumption | split | with_reducible apply State.transmit_keep | with_reducible apply State.setStream_keep | exact State.spray_keep (by assumption) _ _ _ ‹_›

theorem State.resprayPort_keep (h : Keep s t) (n : Nat) : Keep s (t.resprayPort n) := by
  unfold State.resprayPort
  extract_lets
  split
  exact Keep.fold (fun _ _ h => State.respray_keep h _) _ _ (State.setPort_keep h _ _)

theorem State.resumePort_keep (h : Keep s t) (a1 : Nat) : Keep s (State.resumePort t a1) := by
  unfold State.resumePort
  try extract_lets
  repeat' first | with_reducible assumption | with_reducible apply State.setPort_keep | with_reducible apply State.transmit_keep | split | with_reducible apply Keep.fold | with_reducible apply Keep.foldFst | with_reducible apply Keep.foldSnd | intro _ | with_reducible (refine Keep.upd ?_) | with_reducible (refine Keep.fst (by assumption) ?_) | with_reducible (refine Keep.snd (by assumption) ?_) | dsimp only

theorem State.startRetrain_keep (h : Keep s t) (a1 : Nat) (a2 : Nat) : Keep s (State.startRetrain t a1 a2) := by
  unfold State.startRetrain
  try extract_lets
  repeat' first | with_reducible assumption | with_reducible apply State.setPort_keep | with_reducible apply State.probeIfChanged_keep | with_reducible apply State.resprayPort_keep | split | intro _ | with_reducible (refine Keep.fst (by assumption) ?_) | with_reducible (refine Keep.snd (by assumption) ?_) | dsimp only

theorem State.retrainPort_keep (h : Keep s t) (a1 : Nat) : Keep s (State.retrainPort t a1) := by
  unfold State.retrainPort
  try extract_lets
  repeat' first | with_reducible assumption | with_reducible apply State.setPort_keep | with_reducible apply State.probeIfChanged_keep | with_reducible apply State.resprayPort_keep | split | with_reducible apply Keep.fold | with_reducible apply Keep.foldFst | with_reducible apply Keep.foldSnd | intro _ | with_reducible (refine Keep.fst (by assumption) ?_) | with_reducible (refine Keep.snd (by assumption) ?_) | dsimp only

theorem State.switchLaser_keep (h : Keep s t) (a1 : Nat) (a2 : Nat) : Keep s (State.switchLaser t a1 a2) := by
  unfold State.switchLaser
  try extract_lets
  repeat' first | with_reducible assumption | with_reducible apply State.log_keep | split | intro _ | with_reducible (refine Keep.upd ?_) | with_reducible (refine Keep.fst (by assumption) ?_) | with_reducible (refine Keep.snd (by assumption) ?_) | dsimp only

theorem State.wearSwitch_keep (h : Keep s t) (a1 : Nat) (a2 : Nat) : Keep s (State.wearSwitch t a1 a2) := by
  unfold State.wearSwitch
  try extract_lets
  repeat' first | with_reducible assumption | with_reducible apply State.startRetrain_keep | with_reducible apply State.switchLaser_keep | split | intro _ | with_reducible (refine Keep.upd ?_) | with_reducible (refine Keep.fst (by assumption) ?_) | with_reducible (refine Keep.snd (by assumption) ?_) | dsimp only

theorem State.wearNext_keep (h : Keep s t) : Keep s (State.wearNext t) := by
  unfold State.wearNext
  try extract_lets
  repeat' first | with_reducible assumption | with_reducible apply State.wearSwitch_keep | split | with_reducible apply Keep.fold | with_reducible apply Keep.foldFst | with_reducible apply Keep.foldSnd | intro _ | with_reducible (refine Keep.upd ?_) | with_reducible (refine Keep.fst (by assumption) ?_) | with_reducible (refine Keep.snd (by assumption) ?_) | dsimp only

theorem State.endTraining_keep (h : Keep s t) (a1 : Nat) (a2 : Nat) (a3 : BitVec 8) : Keep s (State.endTraining t a1 a2 a3) := by
  unfold State.endTraining
  try extract_lets
  repeat' first | with_reducible assumption | with_reducible apply State.setPort_keep | with_reducible apply State.log_keep | with_reducible apply State.flushAll_keep | with_reducible apply State.probeIfChanged_keep | with_reducible apply State.wearNext_keep | split | with_reducible apply Keep.fold | with_reducible apply Keep.foldFst | with_reducible apply Keep.foldSnd | intro _ | with_reducible (refine Keep.upd ?_) | with_reducible (refine Keep.fst (by assumption) ?_) | with_reducible (refine Keep.snd (by assumption) ?_) | dsimp only

theorem execLaneSignalLoss_keep (h : Keep s t) (a1 : Nat) (a2 : Nat) : Keeps s (execLaneSignalLoss a1 a2 t) := by
  unfold execLaneSignalLoss
  try extract_lets
  repeat' first | with_reducible assumption | with_reducible apply State.startRetrain_keep | with_reducible (refine Keeps.of ?_) | with_reducible exact Keeps.fault _ | split | intro _ | with_reducible (refine Keep.fst (by assumption) ?_) | with_reducible (refine Keep.snd (by assumption) ?_) | dsimp only

theorem execFecErrorBurst_keep (h : Keep s t) (a1 : Nat) (a2 : Nat) : Keeps s (execFecErrorBurst a1 a2 t) := by
  unfold execFecErrorBurst
  try extract_lets
  repeat' first | with_reducible assumption | with_reducible apply State.startRetrain_keep | with_reducible (refine Keeps.of ?_) | with_reducible exact Keeps.fault _ | split | intro _ | with_reducible (refine Keep.fst (by assumption) ?_) | with_reducible (refine Keep.snd (by assumption) ?_) | dsimp only

theorem execLaserFailure_keep (h : Keep s t) (a1 : Nat) (a2 : Nat) : Keeps s (execLaserFailure a1 a2 t) := by
  unfold execLaserFailure
  try extract_lets
  repeat' first | with_reducible assumption | with_reducible apply State.setPort_keep | with_reducible apply State.startRetrain_keep | with_reducible apply State.switchLaser_keep | with_reducible (refine Keeps.of ?_) | with_reducible exact Keeps.fault _ | split | intro _ | with_reducible (refine Keep.upd ?_) | with_reducible (refine Keep.fst (by assumption) ?_) | with_reducible (refine Keep.snd (by assumption) ?_) | dsimp only

theorem execLaserWear_keep (h : Keep s t) (a1 : Nat) (a2 : Nat) : Keeps s (execLaserWear a1 a2 t) := by
  unfold execLaserWear
  try extract_lets
  repeat' first | with_reducible assumption | with_reducible apply State.wearSwitch_keep | with_reducible (refine Keeps.of ?_) | with_reducible exact Keeps.fault _ | split | intro _ | with_reducible (refine Keep.fst (by assumption) ?_) | with_reducible (refine Keep.snd (by assumption) ?_) | dsimp only

theorem execRetrainEnd_keep (h : Keep s t) (a1 : Nat) (a2 : Nat) (a3 : BitVec 8) : Keeps s (execRetrainEnd a1 a2 a3 t) := by
  unfold execRetrainEnd
  try extract_lets
  repeat' first | with_reducible assumption | with_reducible apply State.endTraining_keep | with_reducible (refine Keeps.of ?_) | with_reducible exact Keeps.fault _ | split | intro _ | with_reducible (refine Keep.fst (by assumption) ?_) | with_reducible (refine Keep.snd (by assumption) ?_) | dsimp only

theorem execExcludedRetry_keep (h : Keep s t) (a1 : Nat) (a2 : Nat) : Keeps s (execExcludedRetry a1 a2 t) := by
  unfold execExcludedRetry
  try extract_lets
  repeat' first | with_reducible assumption | with_reducible apply State.setPort_keep | with_reducible apply State.startRetrain_keep | with_reducible (refine Keeps.of ?_) | with_reducible exact Keeps.fault _ | split | intro _ | with_reducible (refine Keep.upd ?_) | with_reducible (refine Keep.fst (by assumption) ?_) | with_reducible (refine Keep.snd (by assumption) ?_) | dsimp only

theorem execArpRequest_keep (h : Keep s t) (a1 : Nat) (a2 : Nat) : Keeps s (execArpRequest a1 a2 t) := by
  unfold execArpRequest
  try extract_lets
  repeat' first | with_reducible assumption | with_reducible apply State.emit_keep | with_reducible (refine Keeps.of ?_) | with_reducible exact Keeps.fault _ | split | intro _ | with_reducible (refine Keep.fst (by assumption) ?_) | with_reducible (refine Keep.snd (by assumption) ?_) | dsimp only

theorem execNeighbourSolicitation_keep (h : Keep s t) (a1 : Nat) (a2 : Nat) : Keeps s (execNeighbourSolicitation a1 a2 t) := by
  unfold execNeighbourSolicitation
  try extract_lets
  repeat' first | with_reducible assumption | with_reducible apply State.emit_keep | with_reducible (refine Keeps.of ?_) | with_reducible exact Keeps.fault _ | split | intro _ | with_reducible (refine Keep.fst (by assumption) ?_) | with_reducible (refine Keep.snd (by assumption) ?_) | dsimp only

theorem execPfcPauseFrame_keep (h : Keep s t) (a1 : Nat) (a2 : BitVec 8) : Keeps s (execPfcPauseFrame a1 a2 t) := by
  unfold execPfcPauseFrame
  try extract_lets
  repeat' first | with_reducible assumption | with_reducible apply State.setPort_keep | with_reducible apply State.resumePort_keep | with_reducible (refine Keeps.of ?_) | with_reducible exact Keeps.fault _ | split | intro _ | with_reducible (refine Keep.upd ?_) | with_reducible (refine Keep.fst (by assumption) ?_) | with_reducible (refine Keep.snd (by assumption) ?_) | dsimp only

theorem execForeignFrameDrop_keep (h : Keep s t) (a1 : Nat) : Keeps s (execForeignFrameDrop a1 t) := by
  unfold execForeignFrameDrop
  try extract_lets
  repeat' first | with_reducible assumption | with_reducible (refine Keeps.of ?_) | with_reducible exact Keeps.fault _ | split | intro _ | with_reducible (refine Keep.upd ?_) | with_reducible (refine Keep.fst (by assumption) ?_) | with_reducible (refine Keep.snd (by assumption) ?_) | dsimp only

end Sys2Proof.Machine
end

