-- ==== Sys2Proof/Laws/KeepPager.lean ====
section
/-! SUPPORT. The operations of Machine/Pager.lean keep the queue and the form of memory. -/
namespace Sys2Proof.Machine

variable {s t : State}

theorem State.joinDone_keep (h : Keep s t) (a1 : Done) : Keep s (State.joinDone t a1) := by
  unfold State.joinDone
  try extract_lets
  repeat' first | with_reducible assumption | with_reducible apply State.setSlot_keep | with_reducible apply State.gradOvf_keep | split | intro _ | with_reducible (refine Keep.upd ?_) | with_reducible (refine Keep.fst (by assumption) ?_) | with_reducible (refine Keep.snd (by assumption) ?_) | dsimp only

theorem State.storeOut_keep (h : Keep s t) (a1 : Panel) (a2 : Done) : Keep s (State.storeOut t a1 a2) := by
  unfold State.storeOut
  try dsimp only
  repeat' first | with_reducible assumption | with_reducible apply State.storeLine_keep | split | with_reducible apply Keep.fold | with_reducible apply Keep.foldFst | with_reducible apply Keep.foldSnd | intro _ | with_reducible (refine Keep.fst (by assumption) ?_) | with_reducible (refine Keep.snd (by assumption) ?_) | dsimp only

theorem State.backOne_keep (h : Keep s t) (a1 : Nat) (a2 : Done) : Keep s (State.backOne t a1 a2) := by
  unfold State.backOne
  try dsimp only
  repeat' first | with_reducible assumption | with_reducible apply State.poisonRange_keep | with_reducible apply State.touch_keep | with_reducible apply State.attnSeg_keep | with_reducible apply State.joinDone_keep | with_reducible apply State.storeOut_keep | split | with_reducible apply Keep.fold | with_reducible apply Keep.foldFst | with_reducible apply Keep.foldSnd | intro _ | with_reducible (refine Keep.fst (by assumption) ?_) | with_reducible (refine Keep.snd (by assumption) ?_) | dsimp only

theorem execWriteback_keep (h : Keep s t) (a1 : Nat) : Keeps s (execWriteback a1 t) := by
  unfold execWriteback
  try extract_lets
  repeat' first | with_reducible assumption | with_reducible apply State.setSlot_keep | with_reducible apply State.setPanel_keep | with_reducible apply State.backOne_keep | with_reducible (refine Keeps.of ?_) | with_reducible exact Keeps.fault _ | split | intro _ | with_reducible (refine Keep.upd ?_) | with_reducible (refine Keep.fst (by assumption) ?_) | with_reducible (refine Keep.snd (by assumption) ?_) | dsimp only

theorem State.setFar_keep (h : Keep s t) (a1 : FarPage) : Keep s (State.setFar t a1) := by
  unfold State.setFar
  try extract_lets
  repeat' first | with_reducible assumption | split | intro _ | with_reducible (refine Keep.upd ?_) | with_reducible (refine Keep.fst (by assumption) ?_) | with_reducible (refine Keep.snd (by assumption) ?_) | dsimp only

theorem State.evict_keep (h : Keep s t) (a1 : Nat) (a2 : Nat) (a3 : Option Nat) : Keep s (State.evict t a1 a2 a3) := by
  unfold State.evict
  try extract_lets
  repeat' first | with_reducible assumption | with_reducible apply State.emit_keep | with_reducible apply State.lsSendAll_keep | with_reducible apply State.setFar_keep | split | intro _ | with_reducible (refine Keep.upd ?_) | with_reducible (refine Keep.fst (by assumption) ?_) | with_reducible (refine Keep.snd (by assumption) ?_) | dsimp only

theorem execPageEvict_keep (h : Keep s t) (a1 : Nat) (a2 : Option Nat) : Keeps s (execPageEvict a1 a2 t) := by
  unfold execPageEvict
  try extract_lets
  repeat' first | with_reducible assumption | with_reducible apply State.evict_keep | with_reducible (refine Keeps.of ?_) | with_reducible exact Keeps.fault _ | split | intro _ | with_reducible (refine Keep.fst (by assumption) ?_) | with_reducible (refine Keep.snd (by assumption) ?_) | dsimp only

theorem State.landPage_keep (h : Keep s t) (f : FarPage) (bytes : List Byte) (sum : BitVec 64) : Keep s (t.landPage f bytes sum) := by
  unfold State.landPage
  extract_lets s1
  have h1 : Keep s s1 := State.framePage_keep h _
  clear_value s1
  split
  · refine Keep.memory (State.setFar_keep h1 _) ?_
    exact fun hm => Memory.wf_wrBs _ _ hm
  · exact State.log_keep (State.poisonRange_keep (Keep.upd h1) _ _) _

theorem execPageRecall_keep (h : Keep s t) (a1 : Nat) : Keeps s (execPageRecall a1 t) := by
  unfold execPageRecall
  try dsimp only
  repeat' first | with_reducible assumption | with_reducible apply State.lsSend_keep | with_reducible apply State.setFar_keep | with_reducible apply State.landPage_keep | with_reducible apply State.draw_keep | with_reducible (refine Keeps.of ?_) | with_reducible exact Keeps.fault _ | split | with_reducible apply Keep.fold | with_reducible apply Keep.foldFst | with_reducible apply Keep.foldSnd | intro _ | with_reducible (refine Keep.upd ?_) | with_reducible (refine Keep.fst (by assumption) ?_) | with_reducible (refine Keep.snd (by assumption) ?_) | dsimp only

theorem execHostSpillRegionUnreachable_keep (h : Keep s t) (a1 : Nat) : Keeps s (execHostSpillRegionUnreachable a1 t) := by
  unfold execHostSpillRegionUnreachable
  try extract_lets
  repeat' first | with_reducible assumption | with_reducible apply State.loseFar_keep | with_reducible (refine Keeps.of ?_) | with_reducible exact Keeps.fault _ | split | intro _ | with_reducible (refine Keep.fst (by assumption) ?_) | with_reducible (refine Keep.snd (by assumption) ?_) | dsimp only

theorem State.retire_keep (h : Keep s t) (a1 : Nat) : Keep s (State.retire t a1) := by
  unfold State.retire
  try extract_lets
  repeat' first | with_reducible assumption | with_reducible apply State.log_keep | split | intro _ | with_reducible (refine Keep.upd ?_) | with_reducible (refine Keep.fst (by assumption) ?_) | with_reducible (refine Keep.snd (by assumption) ?_) | dsimp only

theorem State.badBlock_keep (h : Keep s t) (a1 : Nat) : Keep s (State.badBlock t a1) := by
  unfold State.badBlock
  try extract_lets
  repeat' first | with_reducible assumption | with_reducible apply State.err_keep | with_reducible apply State.log_keep | with_reducible apply State.poisonRange_keep | with_reducible apply State.retire_keep | split | intro _ | with_reducible (refine Keep.fst (by assumption) ?_) | with_reducible (refine Keep.snd (by assumption) ?_) | dsimp only

theorem State.onEng_keep (h : Keep s t) (a1 : Nat) (a2 : Nat) (a3 : Engine → Engine) : Keep s (State.onEng t a1 a2 a3) := by
  unfold State.onEng
  try extract_lets
  repeat' first | with_reducible assumption | with_reducible apply State.setPanel_keep | split | intro _ | with_reducible (refine Keep.fst (by assumption) ?_) | with_reducible (refine Keep.snd (by assumption) ?_) | dsimp only

theorem execUncorrectableError_keep (h : Keep s t) (a1 : MemLoc) : Keeps s (execUncorrectableError a1 t) := by
  unfold execUncorrectableError
  try dsimp only
  repeat' first | with_reducible assumption | with_reducible apply State.setPanel_keep | with_reducible apply State.log_keep | with_reducible apply State.setRed_keep | with_reducible apply State.badBlock_keep | with_reducible apply State.onEng_keep | with_reducible apply State.draw_keep | with_reducible (refine Keeps.of ?_) | with_reducible exact Keeps.fault _ | split | intro _ | with_reducible (refine Keep.upd ?_) | with_reducible (refine Keep.fst (by assumption) ?_) | with_reducible (refine Keep.snd (by assumption) ?_) | dsimp only

theorem execPatrolScrub_keep (h : Keep s t) (a1 : List (Nat × Nat)) (a2 : List Nat) : Keeps s (execPatrolScrub a1 a2 t) := by
  unfold execPatrolScrub
  try extract_lets
  repeat' first | with_reducible assumption | with_reducible apply State.err_keep | with_reducible apply State.log_keep | with_reducible apply State.retire_keep | with_reducible apply State.badBlock_keep | with_reducible (refine Keeps.of ?_) | with_reducible exact Keeps.fault _ | split | with_reducible apply Keep.fold | with_reducible apply Keep.foldFst | with_reducible apply Keep.foldSnd | intro _ | with_reducible (refine Keep.upd ?_) | with_reducible (refine Keep.fst (by assumption) ?_) | with_reducible (refine Keep.snd (by assumption) ?_) | dsimp only

end Sys2Proof.Machine
end

