-- ==== Sys2Proof/Laws/KeepRx.lean ====
section
/-! SUPPORT. The operations of Machine/Rx.lean keep the queue and the form of memory. -/
namespace Sys2Proof.Machine

variable {s t : State}

theorem State.badLedger_keep (h : Keep s t) (hd : BitVec 512) {corrupt : State → State} (hc : ∀ u, Keep s u → Keep s (corrupt u)) :
    Keep s (t.badLedger hd corrupt).1 := by
  unfold State.badLedger
  dsimp only
  split
  · exact hc _ (State.drop_keep h _)
  · exact State.setStream_keep (State.drop_keep h _) _

theorem State.inRed_keep (h : Keep s t) (hd : BitVec 512) {f : Red → State × Bool} (hf : ∀ r, Keep s (f r).1) : Keep s (t.inRed hd f).1 := by
  unfold State.inRed
  split
  · exact h
  · split
    · exact h
    · dsimp only
      split
      · exact hf _
      · split <;> exact h

theorem State.addWords_keep (h : Keep s t) (a1 : Red) (a2 : Piece) (a3 : List (Nat × SkeinW)) : Keep s (State.addWords t a1 a2 a3).1 := by
  unfold State.addWords
  try dsimp only
  repeat' first | with_reducible assumption | split | with_reducible apply Keep.fold | with_reducible apply Keep.foldFst | with_reducible apply Keep.foldSnd | intro _ | with_reducible (refine Keep.upd ?_) | with_reducible (refine Keep.fst (by assumption) ?_) | with_reducible (refine Keep.snd (by assumption) ?_) | dsimp only

theorem State.contribRx_keep (h : Keep s t) (a1 : Packet) : Keep s (State.contribRx t a1).1 := by
  unfold State.contribRx
  try dsimp only
  repeat' first | with_reducible assumption | with_reducible apply State.setRed_keep | with_reducible apply State.corruptChunk_keep | with_reducible apply State.badLedger_keep | with_reducible apply State.inRed_keep | with_reducible apply State.addWords_keep | split | with_reducible apply Keep.fold | with_reducible apply Keep.foldFst | with_reducible apply Keep.foldSnd | intro _ | with_reducible (refine Keep.upd ?_) | with_reducible (refine Keep.fst (by assumption) ?_) | with_reducible (refine Keep.snd (by assumption) ?_) | dsimp only

theorem State.putStream_keep (h : Keep s t) (a1 : TRec) (a2 : List (Nat × Nat)) (a3 : Nat × Nat) (a4 : Nat) (a5 : List Byte) (a6 : Bool) : Keep s (State.putStream t a1 a2 a3 a4 a5 a6) := by
  unfold State.putStream
  try extract_lets
  repeat' first | with_reducible assumption | with_reducible apply State.mark_keep | with_reducible apply State.poisonRange_keep | with_reducible apply State.attachRow_keep | split | with_reducible apply Keep.fold | with_reducible apply Keep.foldFst | with_reducible apply Keep.foldSnd | intro _ | with_reducible (refine Keep.upd ?_) | with_reducible (refine Keep.memory ?_ (fun _ => ?_)) | with_reducible apply Memory.wf_wrBs | with_reducible apply Memory.wf_wrB | with_reducible apply Memory.wf_tset | with_reducible apply Memory.wf_tkeep | with_reducible apply TRec.retag_wf | with_reducible apply TRec.reshadow_wf | with_reducible apply TRec.fill_wf | with_reducible apply TRec.copyRow_wf | with_reducible apply TRec.putBlock_wf | with_reducible apply TRec.writeRow_wf | with_reducible apply Memory.wf_fold | with_reducible exact Memory.wf_nil | with_reducible (refine Keep.fst (by assumption) ?_) | with_reducible (refine Keep.snd (by assumption) ?_) | dsimp only

theorem State.arriveOvf_keep (h : Keep s t) (a1 : Nat) (a2 : TRec) (a3 : List (Nat × Nat)) : Keep s (State.arriveOvf t a1 a2 a3) := by
  unfold State.arriveOvf
  try extract_lets
  repeat' first | with_reducible assumption | with_reducible apply State.gradOvf_keep | split | intro _ | with_reducible (refine Keep.fst (by assumption) ?_) | with_reducible (refine Keep.snd (by assumption) ?_) | dsimp only

theorem State.gatherRx_keep (h : Keep s t) (a1 : Packet) : Keep s (State.gatherRx t a1).1 := by
  unfold State.gatherRx
  try dsimp only
  repeat' first | with_reducible assumption | with_reducible apply State.raiseFlag_keep | with_reducible apply State.setRed_keep | with_reducible apply State.sendChunk_keep | with_reducible apply State.corruptChunk_keep | with_reducible apply State.badLedger_keep | with_reducible apply State.putStream_keep | with_reducible apply State.arriveOvf_keep | split | intro _ | with_reducible (refine Keep.upd ?_) | with_reducible (refine Keep.fst (by assumption) ?_) | with_reducible (refine Keep.snd (by assumption) ?_) | dsimp only

theorem State.setP2P_keep (h : Keep s t) (a1 : P2P) : Keep s (State.setP2P t a1) := by
  unfold State.setP2P
  try extract_lets
  repeat' first | with_reducible assumption | split | intro _ | with_reducible (refine Keep.upd ?_) | with_reducible (refine Keep.fst (by assumption) ?_) | with_reducible (refine Keep.snd (by assumption) ?_) | dsimp only

theorem State.putPart_keep (h : Keep s t) (a1 : TRec) (a2 : Nat) (a3 : Nat) (a4 : Nat × Nat) (a5 : List Byte) (a6 : Bool) : Keep s (State.putPart t a1 a2 a3 a4 a5 a6) := by
  unfold State.putPart
  try extract_lets
  repeat' first | with_reducible assumption | with_reducible apply State.drop_keep | with_reducible apply State.writeRun_keep | split | intro _ | with_reducible (refine Keep.fst (by assumption) ?_) | with_reducible (refine Keep.snd (by assumption) ?_) | dsimp only

theorem State.putWindow_keep (h : Keep s t) (a1 : P2P) (a2 : TRec) (a3 : List (Nat × Nat)) (a4 : Nat × Nat) (a5 : Nat) (a6 : List Byte) (a7 : Bool) : Keep s (State.putWindow t a1 a2 a3 a4 a5 a6 a7).1 := by
  unfold State.putWindow
  try dsimp only
  repeat' first | with_reducible assumption | with_reducible apply State.drop_keep | with_reducible apply State.putStream_keep | with_reducible apply State.putPart_keep | split | with_reducible apply Keep.fold | with_reducible apply Keep.foldFst | with_reducible apply Keep.foldSnd | intro _ | with_reducible (refine Keep.upd ?_) | with_reducible (refine Keep.fst (by assumption) ?_) | with_reducible (refine Keep.snd (by assumption) ?_) | dsimp only

theorem State.p2pRx_keep (h : Keep s t) (a1 : Packet) : Keep s (State.p2pRx t a1).1 := by
  unfold State.p2pRx
  try dsimp only
  repeat' first | with_reducible assumption | with_reducible apply State.failAttempt_keep | with_reducible apply State.badLedger_keep | with_reducible apply State.setP2P_keep | with_reducible apply State.putWindow_keep | split | intro _ | with_reducible (refine Keep.upd ?_) | with_reducible (refine Keep.fst (by assumption) ?_) | with_reducible (refine Keep.snd (by assumption) ?_) | dsimp only

theorem State.p2pSend_keep (h : Keep s t) (a1 : P2P) : Keep s (State.p2pSend t a1) := by
  unfold State.p2pSend
  try extract_lets
  repeat' first | with_reducible assumption | with_reducible apply State.lsSendAll_keep | with_reducible apply State.setP2P_keep | split | intro _ | with_reducible (refine Keep.upd ?_) | with_reducible (refine Keep.fst (by assumption) ?_) | with_reducible (refine Keep.snd (by assumption) ?_) | dsimp only

theorem execLsDataRx_keep (h : Keep s t) (a1 : Frame) : Keeps s (execLsDataRx a1 t) := by
  unfold execLsDataRx
  try dsimp only
  repeat' first | with_reducible assumption | with_reducible apply State.acceptIf_keep | with_reducible apply State.contribRx_keep | with_reducible apply State.gatherRx_keep | with_reducible apply State.p2pRx_keep | with_reducible (refine Keeps.of ?_) | with_reducible exact Keeps.fault _ | split | intro _ | with_reducible (refine Keep.fst (by assumption) ?_) | with_reducible (refine Keep.snd (by assumption) ?_) | dsimp only

theorem State.signal_keep (h : Keep s t) (f : Frame) (kind : Nat) {handle : State → Packet → State × Bool}
    (hh : ∀ u p, Keep s u → Keep s (handle u p).1) : Keep s (t.signal f kind handle) := by
  unfold State.signal
  split
  · exact State.acceptIf_keep h f hh
  · exact h

theorem execRaise_keep (h : Keep s t) (a1 : Frame) : Keeps s (execRaise a1 t) := by
  unfold execRaise
  try extract_lets
  repeat' first | with_reducible assumption | with_reducible apply State.raiseFlag_keep | with_reducible apply State.signal_keep | with_reducible (refine Keeps.of ?_) | with_reducible exact Keeps.fault _ | split | intro _ | with_reducible (refine Keep.fst (by assumption) ?_) | with_reducible (refine Keep.snd (by assumption) ?_) | dsimp only

theorem execClimb_keep (h : Keep s t) (a1 : Frame) : Keeps s (execClimb a1 t) := by
  unfold execClimb
  try extract_lets
  repeat' first | with_reducible assumption | with_reducible apply State.setRed_keep | with_reducible apply State.inRed_keep | with_reducible apply State.signal_keep | with_reducible (refine Keeps.of ?_) | with_reducible exact Keeps.fault _ | split | intro _ | with_reducible (refine Keep.fst (by assumption) ?_) | with_reducible (refine Keep.snd (by assumption) ?_) | dsimp only

theorem execShareEnd_keep (h : Keep s t) (a1 : Frame) : Keeps s (execShareEnd a1 t) := by
  unfold execShareEnd
  try dsimp only
  repeat' first | with_reducible assumption | with_reducible apply State.takeEnd_keep | with_reducible apply State.inRed_keep | with_reducible apply State.setP2P_keep | with_reducible apply State.signal_keep | with_reducible (refine Keeps.of ?_) | with_reducible exact Keeps.fault _ | split | intro _ | with_reducible (refine Keep.upd ?_) | with_reducible (refine Keep.fst (by assumption) ?_) | with_reducible (refine Keep.snd (by assumption) ?_) | dsimp only

theorem State.earlyGrant_keep (h : Keep s t) (a1 : Nat) (a2 : Nat) (a3 : Nat) : Keep s (State.earlyGrant t a1 a2 a3) := by
  unfold State.earlyGrant
  try extract_lets
  repeat' first | with_reducible assumption | split | intro _ | with_reducible (refine Keep.upd ?_) | with_reducible (refine Keep.fst (by assumption) ?_) | with_reducible (refine Keep.snd (by assumption) ?_) | dsimp only

theorem execGrant_keep (h : Keep s t) (a1 : Frame) : Keeps s (execGrant a1 t) := by
  unfold execGrant
  try dsimp only
  repeat' first | with_reducible assumption | with_reducible apply State.setRed_keep | with_reducible apply State.flushPiece_keep | with_reducible apply State.inRed_keep | with_reducible apply State.p2pSend_keep | with_reducible apply State.signal_keep | with_reducible apply State.earlyGrant_keep | with_reducible (refine Keeps.of ?_) | with_reducible exact Keeps.fault _ | split | intro _ | with_reducible (refine Keep.upd ?_) | with_reducible (refine Keep.fst (by assumption) ?_) | with_reducible (refine Keep.snd (by assumption) ?_) | dsimp only

theorem execAnchorReport_keep (h : Keep s t) (a1 : Frame) : Keeps s (execAnchorReport a1 t) := by
  unfold execAnchorReport
  try dsimp only
  repeat' first | with_reducible assumption | with_reducible apply State.acceptIf_keep | with_reducible apply State.takeReport_keep | with_reducible apply State.takeSound_keep | with_reducible apply State.inRed_keep | with_reducible (refine Keeps.of ?_) | with_reducible exact Keeps.fault _ | split | intro _ | with_reducible (refine Keep.upd ?_) | with_reducible (refine Keep.fst (by assumption) ?_) | with_reducible (refine Keep.snd (by assumption) ?_) | dsimp only

theorem execAgreedAnchor_keep (h : Keep s t) (a1 : Frame) : Keeps s (execAgreedAnchor a1 t) := by
  unfold execAgreedAnchor
  try dsimp only
  repeat' first | with_reducible assumption | with_reducible apply State.acceptIf_keep | with_reducible apply State.setRed_keep | with_reducible apply State.toDown_keep | with_reducible apply State.inRed_keep | with_reducible (refine Keeps.of ?_) | with_reducible exact Keeps.fault _ | split | intro _ | with_reducible (refine Keep.upd ?_) | with_reducible (refine Keep.fst (by assumption) ?_) | with_reducible (refine Keep.snd (by assumption) ?_) | dsimp only

theorem execAnchorAgreementStart_keep (h : Keep s t) (a1 : Nat) (a2 : Nat) (a3 : Nat) : Keeps s (execAnchorAgreementStart a1 a2 a3 t) := by
  unfold execAnchorAgreementStart
  try extract_lets
  repeat' first | with_reducible assumption | with_reducible apply State.setRed_keep | with_reducible apply State.sendReports_keep | with_reducible apply State.sendSound_keep | with_reducible (refine Keeps.of ?_) | with_reducible exact Keeps.fault _ | split | intro _ | with_reducible (refine Keep.upd ?_) | with_reducible (refine Keep.fst (by assumption) ?_) | with_reducible (refine Keep.snd (by assumption) ?_) | dsimp only

theorem execShareEndSend_keep (h : Keep s t) (a1 : Nat) (a2 : Nat) (a3 : Nat) (a4 : Nat) : Keeps s (execShareEndSend a1 a2 a3 a4 t) := by
  unfold execShareEndSend
  try extract_lets
  repeat' first | with_reducible assumption | with_reducible apply State.sendEnd_keep | with_reducible (refine Keeps.of ?_) | with_reducible exact Keeps.fault _ | split | intro _ | with_reducible (refine Keep.fst (by assumption) ?_) | with_reducible (refine Keep.snd (by assumption) ?_) | dsimp only

theorem execPieceDrain_keep (h : Keep s t) (c r ch p : Nat) : Keeps s (execPieceDrain c r ch p t) :=
  Keeps.of (State.pieceOut_keep h _ _ _ _ fun _ _ _ h => State.attnDrain_keep h _ _)

theorem State.logClimb_keep (h : Keep s t) (a1 : Nat) (a2 : Nat) (a3 : Nat) (a4 : Int) : Keep s (State.logClimb t a1 a2 a3 a4) := by
  unfold State.logClimb
  try extract_lets
  repeat' first | with_reducible assumption | with_reducible apply State.log_keep | split | intro _ | with_reducible (refine Keep.fst (by assumption) ?_) | with_reducible (refine Keep.snd (by assumption) ?_) | dsimp only

theorem execEpochEnd_keep (h : Keep s t) (a1 : Nat) (a2 : Nat) : Keeps s (execEpochEnd a1 a2 t) := by
  unfold execEpochEnd
  try extract_lets
  repeat' first | with_reducible assumption | with_reducible apply State.setSlot_keep | with_reducible apply State.nextEpoch_keep | with_reducible apply State.logClimb_keep | with_reducible (refine Keeps.of ?_) | with_reducible exact Keeps.fault _ | split | with_reducible apply Keep.fold | with_reducible apply Keep.foldFst | with_reducible apply Keep.foldSnd | intro _ | with_reducible (refine Keep.upd ?_) | with_reducible (refine Keep.fst (by assumption) ?_) | with_reducible (refine Keep.snd (by assumption) ?_) | dsimp only

theorem State.p2pOver_keep (h : Keep s t) (a1 : Nat) (a2 : Nat) (a3 : Nat) : Keep s (State.p2pOver t a1 a2 a3) := by
  unfold State.p2pOver
  try extract_lets
  repeat' first | with_reducible assumption | with_reducible apply State.endsWith_keep | split | intro _ | with_reducible (refine Keep.upd ?_) | with_reducible (refine Keep.fst (by assumption) ?_) | with_reducible (refine Keep.snd (by assumption) ?_) | dsimp only

theorem execCollTaskComplete_keep (h : Keep s t) (a1 : Nat) (a2 : Nat) : Keeps s (execCollTaskComplete a1 a2 t) := by
  unfold execCollTaskComplete
  try extract_lets
  repeat' first | with_reducible assumption | with_reducible apply State.endsWith_keep | with_reducible apply State.arriveOvf_keep | with_reducible apply State.p2pOver_keep | with_reducible (refine Keeps.of ?_) | with_reducible exact Keeps.fault _ | split | intro _ | with_reducible (refine Keep.fst (by assumption) ?_) | with_reducible (refine Keep.snd (by assumption) ?_) | dsimp only

theorem State.lendRx_keep (h : Keep s t) (a1 : Packet) : Keep s (State.lendRx t a1).1 := by
  unfold State.lendRx
  try dsimp only
  repeat' first | with_reducible assumption | with_reducible apply State.draw_keep | split | intro _ | with_reducible (refine Keep.upd ?_) | with_reducible (refine Keep.fst (by assumption) ?_) | with_reducible (refine Keep.snd (by assumption) ?_) | dsimp only

theorem State.lendAnswer_keep (h : Keep s t) (a1 : Packet) : Keep s (State.lendAnswer t a1) := by
  unfold State.lendAnswer
  try extract_lets
  repeat' first | with_reducible assumption | with_reducible apply State.lsSendAll_keep | split | intro _ | with_reducible (refine Keep.fst (by assumption) ?_) | with_reducible (refine Keep.snd (by assumption) ?_) | dsimp only

theorem State.recallRx_keep (h : Keep s t) (a1 : Packet) : Keep s (State.recallRx t a1) := by
  unfold State.recallRx
  try extract_lets
  repeat' first | with_reducible assumption | with_reducible apply State.setFar_keep | with_reducible apply State.landPage_keep | split | intro _ | with_reducible (refine Keep.upd ?_) | with_reducible (refine Keep.fst (by assumption) ?_) | with_reducible (refine Keep.snd (by assumption) ?_) | dsimp only

theorem execPageData_keep (h : Keep s t) (a1 : Frame) : Keeps s (execPageData a1 t) := by
  unfold execPageData
  try extract_lets
  repeat' first | with_reducible assumption | with_reducible apply State.acceptIf_keep | with_reducible apply State.lendRx_keep | with_reducible apply State.lendAnswer_keep | with_reducible apply State.recallRx_keep | with_reducible (refine Keeps.of ?_) | with_reducible exact Keeps.fault _ | split | intro _ | with_reducible (refine Keep.fst (by assumption) ?_) | with_reducible (refine Keep.snd (by assumption) ?_) | dsimp only

theorem State.setAdState_keep (h : Keep s t) (a1 : Nat) (a2 : Nat) : Keep s (State.setAdState t a1 a2) := by
  unfold State.setAdState
  try extract_lets
  repeat' first | with_reducible assumption | with_reducible apply State.setCtx_keep | split | intro _ | with_reducible (refine Keep.upd ?_) | with_reducible (refine Keep.fst (by assumption) ?_) | with_reducible (refine Keep.snd (by assumption) ?_) | dsimp only

theorem State.twinOpen_keep (h : Keep s t) (a1 : Nat) : Keep s (State.twinOpen t a1) := by
  unfold State.twinOpen
  try extract_lets
  repeat' first | with_reducible assumption | with_reducible apply State.setCtx_keep | split | with_reducible apply Keep.fold | with_reducible apply Keep.foldFst | with_reducible apply Keep.foldSnd | intro _ | with_reducible (refine Keep.upd ?_) | with_reducible (refine Keep.memory ?_ (fun _ => ?_)) | with_reducible apply Memory.wf_wrBs | with_reducible apply Memory.wf_wrB | with_reducible apply Memory.wf_tset | with_reducible apply Memory.wf_tkeep | with_reducible apply TRec.retag_wf | with_reducible apply TRec.reshadow_wf | with_reducible apply TRec.fill_wf | with_reducible apply TRec.copyRow_wf | with_reducible apply TRec.putBlock_wf | with_reducible apply TRec.writeRow_wf | with_reducible apply Memory.wf_fold | with_reducible exact Memory.wf_nil | with_reducible (refine Keep.fst (by assumption) ?_) | with_reducible (refine Keep.snd (by assumption) ?_) | dsimp only

theorem execTwinDelta_keep (h : Keep s t) (f : Frame) : Keeps s (execTwinDelta f t) := by
  unfold execTwinDelta
  refine Keeps.of ?_
  split
  · exact h
  · refine State.acceptIf_keep h f fun u p hu => ?_
    extract_lets
    split
    · exact hu
    · extract_lets
      split
      · exact State.badLedger_keep hu _ fun _ h => h
      · refine State.store_keep (State.setCtx_keep ?_ _ _) _ _ _ _
        show Keep s (ite (_ = true) (State.setCtx u _ _) (u.twinOpen _))
        split
        · exact State.setCtx_keep hu _ _
        · exact State.twinOpen_keep hu _

theorem State.twinClose_keep (h : Keep s t) (a1 : Nat) (a2 : Nat) (a3 : Nat) (a4 : Nat) (a5 : Nat) : Keep s (State.twinClose t a1 a2 a3 a4 a5) := by
  unfold State.twinClose
  try dsimp only
  repeat' first | with_reducible assumption | with_reducible apply State.setCtx_keep | with_reducible apply State.lsSend_keep | with_reducible apply State.setUpd_keep | with_reducible apply State.twinOpen_keep | split | with_reducible apply Keep.fold | with_reducible apply Keep.foldFst | with_reducible apply Keep.foldSnd | intro _ | with_reducible (refine Keep.upd ?_) | with_reducible (refine Keep.fst (by assumption) ?_) | with_reducible (refine Keep.snd (by assumption) ?_) | dsimp only

theorem State.adoptClose_keep (h : Keep s t) (a1 : Nat) (a2 : Nat) (a3 : Bool) : Keep s (State.adoptClose t a1 a2 a3) := by
  unfold State.adoptClose
  try extract_lets
  repeat' first | with_reducible assumption | with_reducible apply State.setCtx_keep | with_reducible apply State.log_keep | with_reducible apply State.setUpd_keep | with_reducible apply State.setAdState_keep | split | with_reducible apply Keep.fold | with_reducible apply Keep.foldFst | with_reducible apply Keep.foldSnd | intro _ | with_reducible (refine Keep.upd ?_) | with_reducible (refine Keep.fst (by assumption) ?_) | with_reducible (refine Keep.snd (by assumption) ?_) | dsimp only

theorem execTwinDeltaClose_keep (h : Keep s t) (a1 : Frame) : Keeps s (execTwinDeltaClose a1 t) := by
  unfold execTwinDeltaClose
  try extract_lets
  repeat' first | with_reducible assumption | with_reducible apply State.acceptIf_keep | with_reducible apply State.twinClose_keep | with_reducible apply State.adoptClose_keep | with_reducible (refine Keeps.of ?_) | with_reducible exact Keeps.fault _ | split | intro _ | with_reducible (refine Keep.fst (by assumption) ?_) | with_reducible (refine Keep.snd (by assumption) ?_) | dsimp only

theorem execTwinEcho_keep (h : Keep s t) (a1 : Frame) : Keeps s (execTwinEcho a1 t) := by
  unfold execTwinEcho
  try dsimp only
  repeat' first | with_reducible assumption | with_reducible apply State.setCtx_keep | with_reducible apply State.log_keep | with_reducible apply State.lsSendAll_keep | with_reducible apply State.acceptIf_keep | with_reducible (refine Keeps.of ?_) | with_reducible exact Keeps.fault _ | split | intro _ | with_reducible (refine Keep.upd ?_) | with_reducible (refine Keep.fst (by assumption) ?_) | with_reducible (refine Keep.snd (by assumption) ?_) | dsimp only

theorem State.startAdopt_keep (h : Keep s t) (a1 : Nat) : Keep s (State.startAdopt t a1) := by
  unfold State.startAdopt
  try extract_lets
  repeat' first | with_reducible assumption | with_reducible apply State.setCtx_keep | with_reducible apply State.emit_keep | with_reducible apply State.setAdState_keep | split | intro _ | with_reducible (refine Keep.upd ?_) | with_reducible (refine Keep.fst (by assumption) ?_) | with_reducible (refine Keep.snd (by assumption) ?_) | dsimp only

theorem execAdGo_keep (h : Keep s t) (a1 : Nat) : Keeps s (execAdGo a1 t) := by
  unfold execAdGo
  try extract_lets
  repeat' first | with_reducible assumption | with_reducible apply State.startAdopt_keep | with_reducible (refine Keeps.of ?_) | with_reducible exact Keeps.fault _ | split | intro _ | with_reducible (refine Keep.fst (by assumption) ?_) | with_reducible (refine Keep.snd (by assumption) ?_) | dsimp only

theorem execAdoptionPullRequest_keep (h : Keep s t) (a1 : Nat) (a2 : Nat) (a3 : Nat) : Keeps s (execAdoptionPullRequest a1 a2 a3 t) := by
  unfold execAdoptionPullRequest
  try extract_lets
  repeat' first | with_reducible assumption | with_reducible apply State.lsSendAll_keep | with_reducible (refine Keeps.of ?_) | with_reducible exact Keeps.fault _ | split | intro _ | with_reducible (refine Keep.fst (by assumption) ?_) | with_reducible (refine Keep.snd (by assumption) ?_) | dsimp only

end Sys2Proof.Machine
end

