-- ==== Sys2Proof/Laws/KeepResets.lean ====
section
/-! SUPPORT. The operations of Machine/Resets.lean keep the queue and the form of memory. -/
namespace Sys2Proof.Machine

variable {s t : State}

theorem State.dumpTo_keep (h : Keep s t) (a1 : Nat) : Keep s (State.dumpTo t a1) := by
  unfold State.dumpTo
  try dsimp only
  repeat' first | with_reducible assumption | with_reducible apply State.drop_keep | with_reducible apply State.draw_keep | split | with_reducible apply Keep.fold | with_reducible apply Keep.foldFst | with_reducible apply Keep.foldSnd | intro _ | with_reducible (refine Keep.upd ?_) | with_reducible (refine Keep.fst (by assumption) ?_) | with_reducible (refine Keep.snd (by assumption) ?_) | dsimp only

theorem State.startDump_keep (h : Keep s t) : Keep s (State.startDump t) := by
  unfold State.startDump
  try extract_lets
  repeat' first | with_reducible assumption | with_reducible apply State.log_keep | split | intro _ | with_reducible (refine Keep.upd ?_) | with_reducible (refine Keep.fst (by assumption) ?_) | with_reducible (refine Keep.snd (by assumption) ?_) | dsimp only

theorem State.report_keep (h : Keep s t) (a1 : Nat) (a2 : Nat) (a3 : Nat) (a4 : Nat) (a5 : Nat) (a6 : Nat) (a7 : Nat) (a8 : Nat) (a9 : Nat) : Keep s (State.report t a1 a2 a3 a4 a5 a6 a7 a8 a9) := by
  unfold State.report
  try extract_lets
  repeat' first | with_reducible assumption | with_reducible apply State.log_keep | split | intro _ | with_reducible (refine Keep.upd ?_) | with_reducible (refine Keep.fst (by assumption) ?_) | with_reducible (refine Keep.snd (by assumption) ?_) | dsimp only

theorem State.skipStages_keep (f : Nat) : ∀ {t : State} (stage : Nat), Keep s t → Keep s (t.skipStages stage f) := by
  induction f with
  | zero => exact fun _ h => h
  | succ f ih =>
    intro t stage h
    unfold State.skipStages
    split
    · exact Keep.upd h
    · exact ih _ (Keep.fold (fun _ _ h => State.report_keep h _ _ _ _ _ _ _ _ _) _ _ h)

theorem State.startBring_keep (h : Keep s t) (path part : Nat) : Keep s (t.startBring path part) := by
  unfold State.startBring
  extract_lets slack src s1 srcp s2 _ srcs s3
  have h1 : Keep s s1 := Keep.upd h
  have h2 : Keep s s2 := by
    unfold s2; split
    · exact h1
    · exact State.release_keep (Keep.upd h1) _ _
  have h3 : Keep s s3 := by
    unfold s3; split
    · exact Keep.upd h2
    · exact h2
  exact State.skipStages_keep _ _ h3

theorem State.sealFirst_keep (h : Keep s t) : Keep s (State.sealFirst t) := by
  unfold State.sealFirst
  try extract_lets
  repeat' first | with_reducible assumption | with_reducible apply State.applyOutcome_keep | split | with_reducible apply Keep.fold | with_reducible apply Keep.foldFst | with_reducible apply Keep.foldSnd | intro _ | with_reducible (refine Keep.fst (by assumption) ?_) | with_reducible (refine Keep.snd (by assumption) ?_) | dsimp only

theorem State.failAll_keep (h : Keep s t) : Keep s (State.failAll t) := by
  unfold State.failAll
  try extract_lets
  repeat' first | with_reducible assumption | with_reducible apply State.failRunning_keep | split | with_reducible apply Keep.fold | with_reducible apply Keep.foldFst | with_reducible apply Keep.foldSnd | intro _ | with_reducible (refine Keep.fst (by assumption) ?_) | with_reducible (refine Keep.snd (by assumption) ?_) | dsimp only

theorem State.losePanel_keep (h : Keep s t) (a1 : Nat) : Keep s (State.losePanel t a1) := by
  unfold State.losePanel
  try extract_lets
  repeat' first | with_reducible assumption | with_reducible apply State.setPanel_keep | with_reducible apply State.loseSeg_keep | split | with_reducible apply Keep.fold | with_reducible apply Keep.foldFst | with_reducible apply Keep.foldSnd | intro _ | with_reducible (refine Keep.fst (by assumption) ?_) | with_reducible (refine Keep.snd (by assumption) ?_) | dsimp only

theorem State.loseStreams_keep (h : Keep s t) : Keep s (State.loseStreams t) := by
  unfold State.loseStreams
  try extract_lets
  repeat' first | with_reducible assumption | split | intro _ | with_reducible (refine Keep.upd ?_) | with_reducible (refine Keep.fst (by assumption) ?_) | with_reducible (refine Keep.snd (by assumption) ?_) | dsimp only

theorem State.losePool_keep (h : Keep s t) (a1 : Nat) : Keep s (State.losePool t a1) := by
  unfold State.losePool
  try extract_lets
  repeat' first | with_reducible assumption | with_reducible apply State.failAttempt_keep | split | with_reducible apply Keep.fold | with_reducible apply Keep.foldFst | with_reducible apply Keep.foldSnd | intro _ | with_reducible (refine Keep.upd ?_) | with_reducible (refine Keep.fst (by assumption) ?_) | with_reducible (refine Keep.snd (by assumption) ?_) | dsimp only

theorem State.discardTxn_keep (h : Keep s t) (a1 : Nat) : Keep s (State.discardTxn t a1) := by
  unfold State.discardTxn
  try extract_lets
  repeat' first | with_reducible assumption | with_reducible apply State.setTxn_keep | with_reducible apply State.fire_keep | split | intro _ | with_reducible (refine Keep.upd ?_) | with_reducible (refine Keep.fst (by assumption) ?_) | with_reducible (refine Keep.snd (by assumption) ?_) | dsimp only

theorem State.loseModule_keep (h : Keep s t) (a1 : Bool) (a2 : Bool) : Keep s (State.loseModule t a1 a2) := by
  unfold State.loseModule
  try extract_lets
  repeat' first | with_reducible assumption | with_reducible apply State.abandonStep_keep | with_reducible apply State.dropTensor_keep | with_reducible apply State.losePage_keep | with_reducible apply State.discardTxn_keep | split | with_reducible apply Keep.fold | with_reducible apply Keep.foldFst | with_reducible apply Keep.foldSnd | intro _ | with_reducible (refine Keep.upd ?_) | with_reducible (refine Keep.memory ?_ (fun _ => ?_)) | with_reducible apply Memory.wf_wrBs | with_reducible apply Memory.wf_wrB | with_reducible apply Memory.wf_tset | with_reducible apply Memory.wf_tkeep | with_reducible apply TRec.retag_wf | with_reducible apply TRec.reshadow_wf | with_reducible apply TRec.fill_wf | with_reducible apply TRec.copyRow_wf | with_reducible apply TRec.putBlock_wf | with_reducible apply TRec.writeRow_wf | with_reducible apply Memory.wf_fold | with_reducible exact Memory.wf_nil | with_reducible (refine Keep.fst (by assumption) ?_) | with_reducible (refine Keep.snd (by assumption) ?_) | dsimp only

theorem State.beginCtx_keep (h : Keep s t) (a1 : Nat) : Keep s (State.beginCtx t a1) := by
  unfold State.beginCtx
  try extract_lets
  repeat' first | with_reducible assumption | with_reducible apply State.setCtx_keep | with_reducible apply State.setSlot_keep | with_reducible apply State.dropStep_keep | with_reducible apply State.announceReset_keep | split | with_reducible apply Keep.fold | with_reducible apply Keep.foldFst | with_reducible apply Keep.foldSnd | intro _ | with_reducible (refine Keep.upd ?_) | with_reducible (refine Keep.fst (by assumption) ?_) | with_reducible (refine Keep.snd (by assumption) ?_) | dsimp only

theorem State.takeOut_keep (h : Keep s t) (a1 : Nat) : Keep s (State.takeOut t a1) := by
  unfold State.takeOut
  try extract_lets
  repeat' first | with_reducible assumption | with_reducible apply State.passOn_keep | split | intro _ | with_reducible (refine Keep.upd ?_) | with_reducible (refine Keep.fst (by assumption) ?_) | with_reducible (refine Keep.snd (by assumption) ?_) | dsimp only

theorem State.beginEng_keep (h : Keep s t) (a1 : Nat) : Keep s (State.beginEng t a1) := by
  unfold State.beginEng
  try extract_lets
  repeat' first | with_reducible assumption | with_reducible apply State.setPanel_keep | with_reducible apply State.failAll_keep | with_reducible apply State.takeOut_keep | split | intro _ | with_reducible (refine Keep.upd ?_) | with_reducible (refine Keep.fst (by assumption) ?_) | with_reducible (refine Keep.snd (by assumption) ?_) | dsimp only

theorem State.beginPart_keep (h : Keep s t) (a1 : Nat) : Keep s (State.beginPart t a1) := by
  unfold State.beginPart
  try extract_lets
  repeat' first | with_reducible assumption | with_reducible apply State.announceReset_keep | with_reducible apply State.retrainPort_keep | with_reducible apply State.startBring_keep | with_reducible apply State.failAll_keep | with_reducible apply State.losePanel_keep | with_reducible apply State.loseStreams_keep | with_reducible apply State.losePool_keep | split | with_reducible apply Keep.fold | with_reducible apply Keep.foldFst | with_reducible apply Keep.foldSnd | intro _ | with_reducible (refine Keep.upd ?_) | with_reducible (refine Keep.fst (by assumption) ?_) | with_reducible (refine Keep.snd (by assumption) ?_) | dsimp only

theorem State.beginModule_keep (h : Keep s t) (a1 : Bool) : Keep s (State.beginModule t a1) := by
  unfold State.beginModule
  try extract_lets
  repeat' first | with_reducible assumption | with_reducible apply State.announceReset_keep | with_reducible apply State.startBring_keep | with_reducible apply State.sealFirst_keep | with_reducible apply State.loseModule_keep | split | intro _ | with_reducible (refine Keep.upd ?_) | with_reducible (refine Keep.fst (by assumption) ?_) | with_reducible (refine Keep.snd (by assumption) ?_) | dsimp only

theorem State.logReset_keep (h : Keep s t) (a1 : Nat) (a2 : Nat) (a3 : Esc) : Keep s (State.logReset t a1 a2 a3) := by
  unfold State.logReset
  try extract_lets
  repeat' first | with_reducible assumption | with_reducible apply State.log_keep | split | intro _ | with_reducible (refine Keep.fst (by assumption) ?_) | with_reducible (refine Keep.snd (by assumption) ?_) | dsimp only

theorem State.beginReset_keep (h : Keep s t) (l d cause : Nat) (escal : Bool) : Keep s (t.beginReset l d cause escal) := by
  unfold State.beginReset
  extract_lets out unit gone tests src e _ s1 s2 s3
  have h1 : Keep s s1 := Keep.upd (State.logReset_keep h _ _ _)
  have h2 : Keep s s2 := Keep.fold (fun _ _ h => by split; exact State.takeOut_keep h _; exact h) _ _ h1
  have h3 : Keep s s3 := by
    unfold s3; split
    · exact State.startDump_keep h2
    · exact h2
  clear_value s3
  split
  · exact State.beginCtx_keep h3 _
  · exact State.beginEng_keep h3 _
  · exact State.failAll_keep (State.losePanel_keep h3 _)
  · exact State.beginPart_keep h3 _
  · exact State.beginModule_keep h3 _
  · exact State.beginModule_keep h3 _

theorem State.overlap_keep (h : Keep s t) (l d cause : Nat) : Keep s (t.overlap l d cause) := by
  unfold State.overlap
  extract_lets a b s1 u s2
  have h1 : Keep s s1 := State.logReset_keep h _ _ _
  have h2 : Keep s s2 := State.logReset_keep h1 _ _ _
  clear_value s1 s2
  split
  · exact State.beginReset_keep (Keep.upd h2) _ _ _ _
  · split
    · exact State.beginReset_keep (Keep.upd h1) _ _ _ _
    · exact Keep.upd h1

theorem State.resetReq_keep (h : Keep s t) (a1 : Nat) (a2 : Nat) (a3 : Nat) : Keep s (State.resetReq t a1 a2 a3) := by
  unfold State.resetReq
  try extract_lets
  repeat' first | with_reducible assumption | with_reducible apply State.beginReset_keep | with_reducible apply State.overlap_keep | split | intro _ | with_reducible (refine Keep.upd ?_) | with_reducible (refine Keep.fst (by assumption) ?_) | with_reducible (refine Keep.snd (by assumption) ?_) | dsimp only

theorem State.dumpReq_keep (h : Keep s t) : Keep s (State.dumpReq t) := by
  unfold State.dumpReq
  try extract_lets
  repeat' first | with_reducible assumption | with_reducible apply State.log_keep | with_reducible apply State.startDump_keep | split | intro _ | with_reducible (refine Keep.upd ?_) | with_reducible (refine Keep.fst (by assumption) ?_) | with_reducible (refine Keep.snd (by assumption) ?_) | dsimp only

theorem State.beginWaiting_keep (h : Keep s t) : Keep s (State.beginWaiting t) := by
  unfold State.beginWaiting
  try extract_lets
  repeat' first | with_reducible assumption | with_reducible apply State.log_keep | with_reducible apply State.startDump_keep | with_reducible apply State.sealFirst_keep | with_reducible apply State.beginReset_keep | with_reducible apply State.overlap_keep | split | with_reducible apply Keep.fold | with_reducible apply Keep.foldFst | with_reducible apply Keep.foldSnd | intro _ | with_reducible (refine Keep.upd ?_) | with_reducible (refine Keep.fst (by assumption) ?_) | with_reducible (refine Keep.snd (by assumption) ?_) | dsimp only

end Sys2Proof.Machine
end

