-- ==== Sys2Proof/Laws/KeepPower.lean ====
section
/-! SUPPORT. The operations of Machine/Power.lean keep the queue and the form of memory. -/
namespace Sys2Proof.Machine

variable {s t : State}

theorem execThrottleWindow_keep (h : Keep s t) (a1 : Nat) (a2 : Nat) (a3 : Nat) : Keeps s (execThrottleWindow a1 a2 a3 t) := by
  unfold execThrottleWindow
  try dsimp only
  repeat' first | with_reducible assumption | with_reducible apply State.pwrSet_keep | with_reducible apply State.log_keep | with_reducible apply State.draw_keep | with_reducible (refine Keeps.of ?_) | with_reducible exact Keeps.fault _ | split | intro _ | with_reducible (refine Keep.upd ?_) | with_reducible (refine Keep.fst (by assumption) ?_) | with_reducible (refine Keep.snd (by assumption) ?_) | dsimp only

theorem State.refusePower_keep (h : Keep s t) : Keep s (State.refusePower t) := by
  unfold State.refusePower
  try extract_lets
  repeat' first | with_reducible assumption | with_reducible apply State.pwrSet_keep | split | intro _ | with_reducible (refine Keep.fst (by assumption) ?_) | with_reducible (refine Keep.snd (by assumption) ?_) | dsimp only

theorem State.powerReq_keep (h : Keep s t) (a1 : Nat) : Keep s (State.powerReq t a1) := by
  unfold State.powerReq
  try extract_lets
  repeat' first | with_reducible assumption | with_reducible apply State.startBring_keep | with_reducible apply State.refusePower_keep | split | intro _ | with_reducible (refine Keep.upd ?_) | with_reducible (refine Keep.fst (by assumption) ?_) | with_reducible (refine Keep.snd (by assumption) ?_) | dsimp only

theorem State.toDry_keep (h : Keep s t) (a1 : BitVec 4) : Keep s (State.toDry t a1) := by
  unfold State.toDry
  try extract_lets
  repeat' first | with_reducible assumption | with_reducible apply State.loseModule_keep | split | intro _ | with_reducible (refine Keep.upd ?_) | with_reducible (refine Keep.fst (by assumption) ?_) | with_reducible (refine Keep.snd (by assumption) ?_) | dsimp only

theorem execPowerStateTransitionDone_keep (h : Keep s t) : Keeps s (execPowerStateTransitionDone t) := by
  unfold execPowerStateTransitionDone
  try extract_lets
  repeat' first | with_reducible assumption | with_reducible apply State.pwrSet_keep | with_reducible apply State.loseStreams_keep | with_reducible apply State.toDry_keep | with_reducible (refine Keeps.of ?_) | with_reducible exact Keeps.fault _ | split | intro _ | with_reducible (refine Keep.upd ?_) | with_reducible (refine Keep.fst (by assumption) ?_) | with_reducible (refine Keep.snd (by assumption) ?_) | dsimp only

theorem execPwrReqOperating_keep (h : Keep s t) : Keeps s (execPwrReqOperating t) := by
  unfold execPwrReqOperating
  try extract_lets
  repeat' first | with_reducible assumption | with_reducible apply State.powerReq_keep | with_reducible (refine Keeps.of ?_) | with_reducible exact Keeps.fault _ | split | intro _ | with_reducible (refine Keep.fst (by assumption) ?_) | with_reducible (refine Keep.snd (by assumption) ?_) | dsimp only

theorem execSlackRequest_keep (h : Keep s t) : Keeps s (execSlackRequest t) := by
  unfold execSlackRequest
  try extract_lets
  repeat' first | with_reducible assumption | with_reducible apply State.powerReq_keep | with_reducible (refine Keeps.of ?_) | with_reducible exact Keeps.fault _ | split | intro _ | with_reducible (refine Keep.fst (by assumption) ?_) | with_reducible (refine Keep.snd (by assumption) ?_) | dsimp only

theorem execNeapRequest_keep (h : Keep s t) : Keeps s (execNeapRequest t) := by
  unfold execNeapRequest
  try extract_lets
  repeat' first | with_reducible assumption | with_reducible apply State.powerReq_keep | with_reducible (refine Keeps.of ?_) | with_reducible exact Keeps.fault _ | split | intro _ | with_reducible (refine Keep.fst (by assumption) ?_) | with_reducible (refine Keep.snd (by assumption) ?_) | dsimp only

theorem execDryRequest_keep (h : Keep s t) : Keeps s (execDryRequest t) := by
  unfold execDryRequest
  try extract_lets
  repeat' first | with_reducible assumption | with_reducible apply State.powerReq_keep | with_reducible (refine Keeps.of ?_) | with_reducible exact Keeps.fault _ | split | intro _ | with_reducible (refine Keep.fst (by assumption) ?_) | with_reducible (refine Keep.snd (by assumption) ?_) | dsimp only

theorem execInputExcursion_keep (h : Keep s t) : Keeps s (execInputExcursion t) := by
  unfold execInputExcursion
  try extract_lets
  repeat' first | with_reducible assumption | with_reducible apply State.pwrSet_keep | with_reducible apply State.log_keep | with_reducible apply State.toDry_keep | with_reducible (refine Keeps.of ?_) | with_reducible exact Keeps.fault _ | split | intro _ | with_reducible (refine Keep.fst (by assumption) ?_) | with_reducible (refine Keep.snd (by assumption) ?_) | dsimp only

theorem execThermalTrip_keep (h : Keep s t) : Keeps s (execThermalTrip t) := by
  unfold execThermalTrip
  try extract_lets
  repeat' first | with_reducible assumption | with_reducible apply State.log_keep | with_reducible apply State.toDry_keep | with_reducible (refine Keeps.of ?_) | with_reducible exact Keeps.fault _ | split | intro _ | with_reducible (refine Keep.upd ?_) | with_reducible (refine Keep.fst (by assumption) ?_) | with_reducible (refine Keep.snd (by assumption) ?_) | dsimp only

theorem execPowerDownHandshake_keep (h : Keep s t) : Keeps s (execPowerDownHandshake t) := by
  unfold execPowerDownHandshake
  try dsimp only
  repeat' first | with_reducible assumption | with_reducible apply State.announceReset_keep | with_reducible apply State.draw_keep | with_reducible (refine Keeps.of ?_) | with_reducible exact Keeps.fault _ | split | intro _ | with_reducible (refine Keep.upd ?_) | with_reducible (refine Keep.fst (by assumption) ?_) | with_reducible (refine Keep.snd (by assumption) ?_) | dsimp only

theorem State.unpowered_keep (h : Keep s t) (input : Bool) : Keep s (t.unpowered input) := by
  unfold State.unpowered
  exact ⟨h.queue, fun _ => Memory.wf_nil⟩

theorem execPowerDownHandshakeEnd_keep (h : Keep s t) : Keeps s (execPowerDownHandshakeEnd t) := by
  unfold execPowerDownHandshakeEnd
  try extract_lets
  repeat' first | with_reducible assumption | with_reducible apply State.startBring_keep | with_reducible apply State.unpowered_keep | with_reducible (refine Keeps.of ?_) | with_reducible exact Keeps.fault _ | split | intro _ | with_reducible (refine Keep.upd ?_) | with_reducible (refine Keep.fst (by assumption) ?_) | with_reducible (refine Keep.snd (by assumption) ?_) | dsimp only

theorem execInputPowerLoss_keep (h : Keep s t) : Keeps s (execInputPowerLoss t) := by
  unfold execInputPowerLoss
  try extract_lets
  repeat' first | with_reducible assumption | with_reducible apply State.unpowered_keep | with_reducible (refine Keeps.of ?_) | with_reducible exact Keeps.fault _ | split | intro _ | with_reducible (refine Keep.fst (by assumption) ?_) | with_reducible (refine Keep.snd (by assumption) ?_) | dsimp only

theorem execHeartbeat_keep (h : Keep s t) : Keeps s (execHeartbeat t) := by
  unfold execHeartbeat
  try extract_lets
  repeat' first | with_reducible assumption | with_reducible (refine Keeps.of ?_) | with_reducible exact Keeps.fault _ | split | intro _ | with_reducible (refine Keep.upd ?_) | with_reducible (refine Keep.fst (by assumption) ?_) | with_reducible (refine Keep.snd (by assumption) ?_) | dsimp only

theorem execWracklineFlashCopy_keep (h : Keep s t) : Keeps s (execWracklineFlashCopy t) := by
  unfold execWracklineFlashCopy
  try extract_lets
  repeat' first | with_reducible assumption | with_reducible (refine Keeps.of ?_) | with_reducible exact Keeps.fault _ | split | intro _ | with_reducible (refine Keep.upd ?_) | with_reducible (refine Keep.fst (by assumption) ?_) | with_reducible (refine Keep.snd (by assumption) ?_) | dsimp only

theorem State.wear_keep (h : Keep s t) (a1 : Nat) (a2 : WearSample) : Keep s (State.wear t a1 a2) := by
  unfold State.wear
  try extract_lets
  repeat' first | with_reducible assumption | with_reducible apply State.log_keep | split | intro _ | with_reducible (refine Keep.upd ?_) | with_reducible (refine Keep.fst (by assumption) ?_) | with_reducible (refine Keep.snd (by assumption) ?_) | dsimp only

theorem execWearSample_keep (h : Keep s t) (a1 : Nat) (a2 : List WearSample) : Keeps s (execWearSample a1 a2 t) := by
  unfold execWearSample
  try extract_lets
  repeat' first | with_reducible assumption | with_reducible apply State.wear_keep | with_reducible (refine Keeps.of ?_) | with_reducible exact Keeps.fault _ | split | with_reducible apply Keep.fold | with_reducible apply Keep.foldFst | with_reducible apply Keep.foldSnd | intro _ | with_reducible (refine Keep.upd ?_) | with_reducible (refine Keep.fst (by assumption) ?_) | with_reducible (refine Keep.snd (by assumption) ?_) | dsimp only

theorem execPldmSensorRequest_keep (h : Keep s t) (a1 : Nat) : Keeps s (execPldmSensorRequest a1 t) := by
  unfold execPldmSensorRequest
  try dsimp only
  repeat' first | with_reducible assumption | with_reducible apply State.emit_keep | with_reducible apply State.draw_keep | with_reducible (refine Keeps.of ?_) | with_reducible exact Keeps.fault _ | split | intro _ | with_reducible (refine Keep.fst (by assumption) ?_) | with_reducible (refine Keep.snd (by assumption) ?_) | dsimp only

end Sys2Proof.Machine
end

