-- ==== Sys2Proof/Laws/KeepBringUp.lean ====
section
/-! SUPPORT. The operations of Machine/BringUp.lean keep the queue and the form of memory. -/
namespace Sys2Proof.Machine

variable {s t : State}

theorem State.logFailed_keep (h : Keep s t) (a1 : List Flaw) (a2 : List Nat) : Keep s (State.logFailed t a1 a2) := by
  unfold State.logFailed
  try extract_lets
  repeat' first | with_reducible assumption | with_reducible apply State.log_keep | split | with_reducible apply Keep.fold | with_reducible apply Keep.foldFst | with_reducible apply Keep.foldSnd | intro _ | with_reducible (refine Keep.fst (by assumption) ?_) | with_reducible (refine Keep.snd (by assumption) ?_) | dsimp only

theorem State.fenceEng_keep (h : Keep s t) (a1 : Nat) : Keep s (State.fenceEng t a1) := by
  unfold State.fenceEng
  try extract_lets
  repeat' first | with_reducible assumption | with_reducible apply State.passOn_keep | split | intro _ | with_reducible (refine Keep.upd ?_) | with_reducible (refine Keep.fst (by assumption) ?_) | with_reducible (refine Keep.snd (by assumption) ?_) | dsimp only

theorem State.fencePan_keep (h : Keep s t) (a1 : Nat) : Keep s (State.fencePan t a1) := by
  unfold State.fencePan
  try extract_lets
  repeat' first | with_reducible assumption | with_reducible apply State.replacePanel_keep | split | intro _ | with_reducible (refine Keep.upd ?_) | with_reducible (refine Keep.fst (by assumption) ?_) | with_reducible (refine Keep.snd (by assumption) ?_) | dsimp only

theorem State.poisonStack_keep (h : Keep s t) (a1 : Nat) : Keep s (State.poisonStack t a1) := by
  unfold State.poisonStack
  try dsimp only
  repeat' first | with_reducible assumption | with_reducible apply State.poisonRange_keep | split | with_reducible apply Keep.fold | with_reducible apply Keep.foldFst | with_reducible apply Keep.foldSnd | intro _ | with_reducible (refine Keep.fst (by assumption) ?_) | with_reducible (refine Keep.snd (by assumption) ?_) | dsimp only

theorem State.stageFail_keep (h : Keep s t) (a1 : Nat) (a2 : Nat) (a3 : BitVec 384) : Keep s (State.stageFail t a1 a2 a3) := by
  unfold State.stageFail
  try dsimp only
  repeat' first | with_reducible assumption | with_reducible apply State.endTraining_keep | with_reducible apply State.fenceEng_keep | with_reducible apply State.fencePan_keep | split | with_reducible apply Keep.fold | with_reducible apply Keep.foldFst | with_reducible apply Keep.foldSnd | intro _ | with_reducible (refine Keep.fst (by assumption) ?_) | with_reducible (refine Keep.snd (by assumption) ?_) | dsimp only

theorem State.takeLasers_keep (h : Keep s t) (a1 : Nat) (a2 : Nat) : Keep s (State.takeLasers t a1 a2) := by
  unfold State.takeLasers
  try dsimp only
  repeat' first | with_reducible assumption | with_reducible apply State.draw_keep | split | with_reducible apply Keep.fold | with_reducible apply Keep.foldFst | with_reducible apply Keep.foldSnd | intro _ | with_reducible (refine Keep.upd ?_) | with_reducible (refine Keep.fst (by assumption) ?_) | with_reducible (refine Keep.snd (by assumption) ?_) | dsimp only

theorem State.readSpares_keep (h : Keep s t) : Keep s (State.readSpares t) := by
  unfold State.readSpares
  try extract_lets
  repeat' first | with_reducible assumption | split | intro _ | with_reducible (refine Keep.upd ?_) | with_reducible (refine Keep.fst (by assumption) ?_) | with_reducible (refine Keep.snd (by assumption) ?_) | dsimp only

theorem State.capture_keep (h : Keep s t) (a1 : Nat) (a2 : Nat) (a3 : BitVec 384) (a4 : Bool) (a5 : List Nat) : Keep s (State.capture t a1 a2 a3 a4 a5) := by
  unfold State.capture
  try extract_lets
  repeat' first | with_reducible assumption | split | intro _ | with_reducible (refine Keep.upd ?_) | with_reducible (refine Keep.fst (by assumption) ?_) | with_reducible (refine Keep.snd (by assumption) ?_) | dsimp only

theorem State.stagePart_keep (h : Keep s t) (a1 : Nat) (a2 : Nat) (a3 : BitVec 384) (a4 : Nat) (a5 : StageFacts) (a6 : Option Nat) : Keep s (State.stagePart t a1 a2 a3 a4 a5 a6) := by
  unfold State.stagePart
  try dsimp only
  repeat' first | with_reducible assumption | with_reducible apply State.report_keep | with_reducible apply State.poisonStack_keep | with_reducible apply State.stageFail_keep | with_reducible apply State.takeLasers_keep | with_reducible apply State.capture_keep | split | with_reducible apply Keep.fold | with_reducible apply Keep.foldFst | with_reducible apply Keep.foldSnd | intro _ | with_reducible (refine Keep.fst (by assumption) ?_) | with_reducible (refine Keep.snd (by assumption) ?_) | dsimp only

theorem State.restoreLog_keep (h : Keep s t) : Keep s (State.restoreLog t) := by
  unfold State.restoreLog
  try extract_lets
  repeat' first | with_reducible assumption | with_reducible apply State.escSet_keep | split | with_reducible apply Keep.fold | with_reducible apply Keep.foldFst | with_reducible apply Keep.foldSnd | intro _ | with_reducible (refine Keep.upd ?_) | with_reducible (refine Keep.fst (by assumption) ?_) | with_reducible (refine Keep.snd (by assumption) ?_) | dsimp only

theorem State.stopBring_keep (h : Keep s t) : Keep s (State.stopBring t) := by
  unfold State.stopBring
  try extract_lets
  repeat' first | with_reducible assumption | with_reducible apply State.hold_keep | split | intro _ | with_reducible (refine Keep.upd ?_) | with_reducible (refine Keep.fst (by assumption) ?_) | with_reducible (refine Keep.snd (by assumption) ?_) | dsimp only

theorem State.stageReady_keep (h : Keep s t) (a1 : Nat) : Keep s (State.stageReady t a1) := by
  unfold State.stageReady
  try dsimp only
  repeat' first | with_reducible assumption | with_reducible apply State.hold_keep | with_reducible apply State.pwrSet_keep | with_reducible apply State.report_keep | with_reducible apply State.resetReq_keep | split | intro _ | with_reducible (refine Keep.upd ?_) | with_reducible (refine Keep.fst (by assumption) ?_) | with_reducible (refine Keep.snd (by assumption) ?_) | dsimp only

theorem State.stageEnd_keep (h : Keep s t) (a1 : StageFacts) : Keep s (State.stageEnd t a1) := by
  have h1 : Keep s (a1.digests.foldl (fun s d => s.extend d.1 d.2) t) := Keep.fold (fun _ _ h => State.extend_keep h _ _) _ _ h
  unfold State.stageEnd
  extract_lets stage path fatal s1 s2 s3 s4 _ _ s5 s6
  clear_value stage path fatal
  have h2 : Keep s s2 := by
    unfold s2; split
    · exact State.restoreLog_keep h1
    · exact h1
  have h3 : Keep s s3 := by
    refine Keep.fold (fun _ _ h => ?_) _ _ h2
    split
    · exact State.log_keep h _
    · exact h
  have h4 : Keep s s4 := by
    unfold s4; split
    · exact State.report_keep h3 _ _ _ _ _ _ _ _ _
    · exact State.report_keep h1 _ _ _ _ _ _ _ _ _
    · exact Keep.fold (fun _ _ h => State.stagePart_keep (State.logFailed_keep h _ _) _ _ _ _ _ _) _ _ h1
    · exact Keep.fold (fun _ _ h => State.stagePart_keep h _ _ _ _ _ _) _ _ h1
  have h5 : Keep s s5 := by
    unfold s5; split
    · exact Keep.upd (State.readSpares_keep h4)
    · exact h4
  have h6 : Keep s s6 := by
    unfold s6; split
    · exact Keep.upd h5
    · exact h5
  split
  · exact State.stopBring_keep h4
  · split
    · exact State.stageReady_keep h4 _
    · split
      · exact h6
      · exact State.skipStages_keep _ _ h6

theorem execBringupStageEnd_keep (h : Keep s t) (a1 : StageFacts) : Keeps s (execBringupStageEnd a1 t) := by
  unfold execBringupStageEnd
  try extract_lets
  repeat' first | with_reducible assumption | with_reducible apply State.stageEnd_keep | with_reducible (refine Keeps.of ?_) | with_reducible exact Keeps.fault _ | split | intro _ | with_reducible (refine Keep.fst (by assumption) ?_) | with_reducible (refine Keep.snd (by assumption) ?_) | dsimp only

theorem execInputPowerApplied_keep (h : Keep s t) (a1 : Nat) : Keeps s (execInputPowerApplied a1 t) := by
  unfold execInputPowerApplied
  try extract_lets
  repeat' first | with_reducible assumption | with_reducible (refine Keeps.of ?_) | with_reducible exact Keeps.fault _ | split | intro _ | with_reducible (refine Keep.upd ?_) | with_reducible (refine Keep.fst (by assumption) ?_) | with_reducible (refine Keep.snd (by assumption) ?_) | dsimp only

theorem execPwrEnRise_keep (h : Keep s t) : Keeps s (execPwrEnRise t) := by
  unfold execPwrEnRise
  try extract_lets
  repeat' first | with_reducible assumption | with_reducible apply State.startBring_keep | with_reducible (refine Keeps.of ?_) | with_reducible exact Keeps.fault _ | split | intro _ | with_reducible (refine Keep.upd ?_) | with_reducible (refine Keep.fst (by assumption) ?_) | with_reducible (refine Keep.snd (by assumption) ?_) | dsimp only

theorem execInputQualified_keep (h : Keep s t) (a1 : Nat) : Keeps s (execInputQualified a1 t) := by
  unfold execInputQualified
  try extract_lets
  repeat' first | with_reducible assumption | with_reducible apply State.report_keep | with_reducible apply State.stopBring_keep | with_reducible (refine Keeps.of ?_) | with_reducible exact Keeps.fault _ | split | intro _ | with_reducible (refine Keep.upd ?_) | with_reducible (refine Keep.fst (by assumption) ?_) | with_reducible (refine Keep.snd (by assumption) ?_) | dsimp only

theorem execPerstAssert_keep (h : Keep s t) : Keeps s (execPerstAssert t) := by
  unfold execPerstAssert
  try extract_lets
  repeat' first | with_reducible assumption | with_reducible apply State.resetReq_keep | with_reducible (refine Keeps.of ?_) | with_reducible exact Keeps.fault _ | split | intro _ | with_reducible (refine Keep.upd ?_) | with_reducible (refine Keep.fst (by assumption) ?_) | with_reducible (refine Keep.snd (by assumption) ?_) | dsimp only

theorem execPerstDeassert_keep (h : Keep s t) : Keeps s (execPerstDeassert t) := by
  unfold execPerstDeassert
  try extract_lets
  repeat' first | with_reducible assumption | with_reducible apply State.skipStages_keep | with_reducible apply State.startBring_keep | with_reducible (refine Keeps.of ?_) | with_reducible exact Keeps.fault _ | split | intro _ | with_reducible (refine Keep.upd ?_) | with_reducible (refine Keep.fst (by assumption) ?_) | with_reducible (refine Keep.snd (by assumption) ?_) | dsimp only

theorem execInternalLinkRelease_keep (h : Keep s t) : Keeps s (execInternalLinkRelease t) := by
  unfold execInternalLinkRelease
  try extract_lets
  repeat' first | with_reducible assumption | with_reducible (refine Keeps.of ?_) | with_reducible exact Keeps.fault _ | split | intro _ | with_reducible (refine Keep.upd ?_) | with_reducible (refine Keep.fst (by assumption) ?_) | with_reducible (refine Keep.snd (by assumption) ?_) | dsimp only

theorem execPcieLinkTrained_keep (h : Keep s t) : Keeps s (execPcieLinkTrained t) := by
  unfold execPcieLinkTrained
  try extract_lets
  repeat' first | with_reducible assumption | with_reducible (refine Keeps.of ?_) | with_reducible exact Keeps.fault _ | split | intro _ | with_reducible (refine Keep.upd ?_) | with_reducible (refine Keep.fst (by assumption) ?_) | with_reducible (refine Keep.snd (by assumption) ?_) | dsimp only

end Sys2Proof.Machine
end

