-- ==== Sys2Proof/Laws/KeepResetCmds.lean ====
section
/-! SUPPORT. The operations of Machine/ResetCmds.lean keep the queue and the form of memory. -/
namespace Sys2Proof.Machine

variable {s t : State}

theorem State.endCtx_keep (h : Keep s t) (a1 : Nat) : Keep s (State.endCtx t a1) := by
  unfold State.endCtx
  try extract_lets
  repeat' first | with_reducible assumption | with_reducible apply State.setCtx_keep | with_reducible apply State.setSlot_keep | split | with_reducible apply Keep.fold | with_reducible apply Keep.foldFst | with_reducible apply Keep.foldSnd | intro _ | with_reducible (refine Keep.upd ?_) | with_reducible (refine Keep.fst (by assumption) ?_) | with_reducible (refine Keep.snd (by assumption) ?_) | dsimp only

theorem State.freeEngines_keep (h : Keep s t) (a1 : Nat) (a2 : Nat) : Keep s (State.freeEngines t a1 a2) := by
  unfold State.freeEngines
  try extract_lets
  repeat' first | with_reducible assumption | split | intro _ | with_reducible (refine Keep.upd ?_) | with_reducible (refine Keep.fst (by assumption) ?_) | with_reducible (refine Keep.snd (by assumption) ?_) | dsimp only

theorem State.endUnit_keep (h : Keep s t) (a1 : Nat) (a2 : Nat) (a3 : Bool) (a4 : List Flaw) : Keep s (State.endUnit t a1 a2 a3 a4) := by
  unfold State.endUnit
  try extract_lets
  repeat' first | with_reducible assumption | with_reducible apply State.report_keep | with_reducible apply State.logFailed_keep | split | intro _ | with_reducible (refine Keep.upd ?_) | with_reducible (refine Keep.fst (by assumption) ?_) | with_reducible (refine Keep.snd (by assumption) ?_) | dsimp only

theorem State.endLevel_keep (h : Keep s t) (a1 : Nat) (a2 : Nat) (a3 : Bool) (a4 : List Flaw) : Keep s (State.endLevel t a1 a2 a3 a4) := by
  unfold State.endLevel
  try extract_lets
  repeat' first | with_reducible assumption | with_reducible apply State.freeCtx_keep | with_reducible apply State.endCtx_keep | with_reducible apply State.freeEngines_keep | with_reducible apply State.endUnit_keep | split | with_reducible apply Keep.fold | with_reducible apply Keep.foldFst | with_reducible apply Keep.foldSnd | intro _ | with_reducible (refine Keep.upd ?_) | with_reducible (refine Keep.fst (by assumption) ?_) | with_reducible (refine Keep.snd (by assumption) ?_) | dsimp only

theorem execResetComplete_keep (h : Keep s t) (a1 : ResetTests) (a2 : Nat) : Keeps s (execResetComplete a1 a2 t) := by
  unfold execResetComplete
  try extract_lets
  repeat' first | with_reducible assumption | with_reducible apply State.drop_keep | with_reducible apply State.powerReq_keep | with_reducible apply State.endLevel_keep | with_reducible (refine Keeps.of ?_) | with_reducible exact Keeps.fault _ | split | intro _ | with_reducible (refine Keep.upd ?_) | with_reducible (refine Keep.fst (by assumption) ?_) | with_reducible (refine Keep.snd (by assumption) ?_) | dsimp only

theorem execResetBoundExpiry_keep (h : Keep s t) : Keeps s (execResetBoundExpiry t) := by
  unfold execResetBoundExpiry
  try extract_lets
  repeat' first | with_reducible assumption | with_reducible apply State.escSet_keep | with_reducible apply State.beginReset_keep | with_reducible (refine Keeps.of ?_) | with_reducible exact Keeps.fault _ | split | intro _ | with_reducible (refine Keep.upd ?_) | with_reducible (refine Keep.fst (by assumption) ?_) | with_reducible (refine Keep.snd (by assumption) ?_) | dsimp only

theorem execContextReset_keep (h : Keep s t) (a1 : Nat) : Keeps s (execContextReset a1 t) := by
  unfold execContextReset
  try extract_lets
  repeat' first | with_reducible assumption | with_reducible apply State.resetReq_keep | with_reducible (refine Keeps.of ?_) | with_reducible exact Keeps.fault _ | split | intro _ | with_reducible (refine Keep.fst (by assumption) ?_) | with_reducible (refine Keep.snd (by assumption) ?_) | dsimp only

theorem execEngineReset_keep (h : Keep s t) (a1 : Nat) (a2 : Nat) : Keeps s (execEngineReset a1 a2 t) := by
  unfold execEngineReset
  try extract_lets
  repeat' first | with_reducible assumption | with_reducible apply State.resetReq_keep | with_reducible (refine Keeps.of ?_) | with_reducible exact Keeps.fault _ | split | intro _ | with_reducible (refine Keep.fst (by assumption) ?_) | with_reducible (refine Keep.snd (by assumption) ?_) | dsimp only

theorem execPanelReset_keep (h : Keep s t) (a1 : Nat) : Keeps s (execPanelReset a1 t) := by
  unfold execPanelReset
  try extract_lets
  repeat' first | with_reducible assumption | with_reducible apply State.resetReq_keep | with_reducible (refine Keeps.of ?_) | with_reducible exact Keeps.fault _ | split | intro _ | with_reducible (refine Keep.fst (by assumption) ?_) | with_reducible (refine Keep.snd (by assumption) ?_) | dsimp only

theorem execPartitionReset_keep (h : Keep s t) (a1 : Nat) : Keeps s (execPartitionReset a1 t) := by
  unfold execPartitionReset
  try extract_lets
  repeat' first | with_reducible assumption | with_reducible apply State.resetReq_keep | with_reducible (refine Keeps.of ?_) | with_reducible exact Keeps.fault _ | split | intro _ | with_reducible (refine Keep.fst (by assumption) ?_) | with_reducible (refine Keep.snd (by assumption) ?_) | dsimp only

theorem execModuleFastPathReset_keep (h : Keep s t) : Keeps s (execModuleFastPathReset t) := by
  unfold execModuleFastPathReset
  try extract_lets
  repeat' first | with_reducible assumption | with_reducible apply State.resetReq_keep | with_reducible (refine Keeps.of ?_) | with_reducible exact Keeps.fault _ | split | intro _ | with_reducible (refine Keep.fst (by assumption) ?_) | with_reducible (refine Keep.snd (by assumption) ?_) | dsimp only

theorem execFullModuleReset_keep (h : Keep s t) : Keeps s (execFullModuleReset t) := by
  unfold execFullModuleReset
  try extract_lets
  repeat' first | with_reducible assumption | with_reducible apply State.resetReq_keep | with_reducible (refine Keeps.of ?_) | with_reducible exact Keeps.fault _ | split | intro _ | with_reducible (refine Keep.fst (by assumption) ?_) | with_reducible (refine Keep.snd (by assumption) ?_) | dsimp only

theorem execCrashDumpOnly_keep (h : Keep s t) : Keeps s (execCrashDumpOnly t) := by
  unfold execCrashDumpOnly
  try extract_lets
  repeat' first | with_reducible assumption | with_reducible apply State.dumpReq_keep | with_reducible (refine Keeps.of ?_) | with_reducible exact Keeps.fault _ | split | intro _ | with_reducible (refine Keep.fst (by assumption) ?_) | with_reducible (refine Keep.snd (by assumption) ?_) | dsimp only

theorem execHardwareFault_keep (h : Keep s t) (a1 : FaultDom) : Keeps s (execHardwareFault a1 t) := by
  unfold execHardwareFault
  try extract_lets
  repeat' first | with_reducible assumption | with_reducible apply State.setPanel_keep | with_reducible apply State.resetReq_keep | with_reducible (refine Keeps.of ?_) | with_reducible exact Keeps.fault _ | split | intro _ | with_reducible (refine Keep.upd ?_) | with_reducible (refine Keep.fst (by assumption) ?_) | with_reducible (refine Keep.snd (by assumption) ?_) | dsimp only

theorem execFlrPf0_keep (h : Keep s t) : Keeps s (execFlrPf0 t) := by
  unfold execFlrPf0
  try extract_lets
  repeat' first | with_reducible assumption | with_reducible apply State.discardTxn_keep | with_reducible apply State.resetReq_keep | with_reducible (refine Keeps.of ?_) | with_reducible exact Keeps.fault _ | split | intro _ | with_reducible (refine Keep.fst (by assumption) ?_) | with_reducible (refine Keep.snd (by assumption) ?_) | dsimp only

theorem execFlrVf_keep (h : Keep s t) (a1 : Nat) : Keeps s (execFlrVf a1 t) := by
  unfold execFlrVf
  try extract_lets
  repeat' first | with_reducible assumption | with_reducible apply State.discardTxn_keep | with_reducible apply State.resetReq_keep | with_reducible (refine Keeps.of ?_) | with_reducible exact Keeps.fault _ | split | intro _ | with_reducible (refine Keep.fst (by assumption) ?_) | with_reducible (refine Keep.snd (by assumption) ?_) | dsimp only

theorem execTeardownTimeout_keep (h : Keep s t) (a1 : Nat) : Keeps s (execTeardownTimeout a1 t) := by
  unfold execTeardownTimeout
  try extract_lets
  repeat' first | with_reducible assumption | with_reducible apply State.resetReq_keep | with_reducible (refine Keeps.of ?_) | with_reducible exact Keeps.fault _ | split | with_reducible apply Keep.fold | with_reducible apply Keep.foldFst | with_reducible apply Keep.foldSnd | intro _ | with_reducible (refine Keep.fst (by assumption) ?_) | with_reducible (refine Keep.snd (by assumption) ?_) | dsimp only

theorem execDumpUnitTimeout_keep (h : Keep s t) : Keeps s (execDumpUnitTimeout t) := by
  unfold execDumpUnitTimeout
  try dsimp only
  repeat' first | with_reducible assumption | with_reducible apply State.dumpTo_keep | with_reducible apply State.draw_keep | with_reducible (refine Keeps.of ?_) | with_reducible exact Keeps.fault _ | split | intro _ | with_reducible (refine Keep.upd ?_) | with_reducible (refine Keep.fst (by assumption) ?_) | with_reducible (refine Keep.snd (by assumption) ?_) | dsimp only

theorem execCrashDumpComplete_keep (h : Keep s t) : Keeps s (execCrashDumpComplete t) := by
  unfold execCrashDumpComplete
  try extract_lets
  repeat' first | with_reducible assumption | with_reducible apply State.escSet_keep | with_reducible apply State.dumpTo_keep | with_reducible (refine Keeps.of ?_) | with_reducible exact Keeps.fault _ | split | intro _ | with_reducible (refine Keep.upd ?_) | with_reducible (refine Keep.fst (by assumption) ?_) | with_reducible (refine Keep.snd (by assumption) ?_) | dsimp only

end Sys2Proof.Machine
end

