-- ==== Sys2Proof/Laws/KeepRegs.lean ====
section
/-! SUPPORT. The operations of Machine/Regs.lean keep the queue and the form of memory. -/
namespace Sys2Proof.Machine

variable {s t : State}

theorem State.setCfg_keep (h : Keep s t) (a1 : Nat) (a2 : CtxCfg → CtxCfg) : Keep s (State.setCfg t a1 a2) := by
  unfold State.setCfg
  try extract_lets
  repeat' first | with_reducible assumption | with_reducible apply State.setCtx_keep | split | intro _ | with_reducible (refine Keep.upd ?_) | with_reducible (refine Keep.fst (by assumption) ?_) | with_reducible (refine Keep.snd (by assumption) ?_) | dsimp only

theorem State.putFn_keep (h : Keep s t) (a1 : Reg) (a2 : BitVec 64) : Keep s (State.putFn t a1 a2) := by
  unfold State.putFn
  try extract_lets
  repeat' first | with_reducible assumption | split | with_reducible apply Keep.fold | with_reducible apply Keep.foldFst | with_reducible apply Keep.foldSnd | intro _ | with_reducible (refine Keep.upd ?_) | with_reducible (refine Keep.fst (by assumption) ?_) | with_reducible (refine Keep.snd (by assumption) ?_) | dsimp only

theorem State.putGrf_keep (h : Keep s t) (a1 : Reg) (a2 : BitVec 64) : Keep s (State.putGrf t a1 a2) := by
  unfold State.putGrf
  try extract_lets
  repeat' first | with_reducible assumption | with_reducible apply State.setSlot_keep | with_reducible apply State.setCfg_keep | split | intro _ | with_reducible (refine Keep.upd ?_) | with_reducible (refine Keep.fst (by assumption) ?_) | with_reducible (refine Keep.snd (by assumption) ?_) | dsimp only

theorem State.putPwr_keep (h : Keep s t) (a1 : Reg) (a2 : BitVec 64) : Keep s (State.putPwr t a1 a2) := by
  unfold State.putPwr
  try extract_lets
  repeat' first | with_reducible assumption | split | intro _ | with_reducible (refine Keep.upd ?_) | with_reducible (refine Keep.fst (by assumption) ?_) | with_reducible (refine Keep.snd (by assumption) ?_) | dsimp only

theorem State.putSwt_keep (h : Keep s t) (a1 : Reg) (a2 : BitVec 64) : Keep s (State.putSwt t a1 a2) := by
  unfold State.putSwt
  try extract_lets
  repeat' first | with_reducible assumption | split | intro _ | with_reducible (refine Keep.upd ?_) | with_reducible (refine Keep.fst (by assumption) ?_) | with_reducible (refine Keep.snd (by assumption) ?_) | dsimp only

theorem State.putTdp_keep (h : Keep s t) (a1 : Reg) (a2 : BitVec 64) : Keep s (State.putTdp t a1 a2) := by
  unfold State.putTdp
  try extract_lets
  repeat' first | with_reducible assumption | split | intro _ | with_reducible (refine Keep.upd ?_) | with_reducible (refine Keep.fst (by assumption) ?_) | with_reducible (refine Keep.snd (by assumption) ?_) | dsimp only

theorem State.putPgr_keep (h : Keep s t) (a1 : Reg) (a2 : BitVec 64) : Keep s (State.putPgr t a1 a2) := by
  unfold State.putPgr
  try extract_lets
  repeat' first | with_reducible assumption | with_reducible apply State.setCfg_keep | split | intro _ | with_reducible (refine Keep.upd ?_) | with_reducible (refine Keep.fst (by assumption) ?_) | with_reducible (refine Keep.snd (by assumption) ?_) | dsimp only

theorem State.putHbm_keep (h : Keep s t) (a1 : Reg) (a2 : BitVec 64) : Keep s (State.putHbm t a1 a2) := by
  unfold State.putHbm
  try extract_lets
  repeat' first | with_reducible assumption | split | intro _ | with_reducible (refine Keep.upd ?_) | with_reducible (refine Keep.fst (by assumption) ?_) | with_reducible (refine Keep.snd (by assumption) ?_) | dsimp only

theorem State.putLsh_keep (h : Keep s t) (a1 : Reg) (a2 : BitVec 64) : Keep s (State.putLsh t a1 a2) := by
  unfold State.putLsh
  try extract_lets
  repeat' first | with_reducible assumption | with_reducible apply State.setCfg_keep | split | intro _ | with_reducible (refine Keep.upd ?_) | with_reducible (refine Keep.fst (by assumption) ?_) | with_reducible (refine Keep.snd (by assumption) ?_) | dsimp only

theorem State.putAddr_keep (h : Keep s t) (a1 : Nat) (a2 : Nat) (a3 : BitVec 64) : Keep s (State.putAddr t a1 a2 a3) := by
  unfold State.putAddr
  try extract_lets
  repeat' first | with_reducible assumption | split | intro _ | with_reducible (refine Keep.upd ?_) | with_reducible (refine Keep.fst (by assumption) ?_) | with_reducible (refine Keep.snd (by assumption) ?_) | dsimp only

theorem State.putPrt_keep (h : Keep s t) (a1 : Reg) (a2 : BitVec 64) : Keep s (State.putPrt t a1 a2) := by
  unfold State.putPrt
  try extract_lets
  repeat' first | with_reducible assumption | with_reducible apply State.setPort_keep | with_reducible apply State.putAddr_keep | split | intro _ | with_reducible (refine Keep.upd ?_) | with_reducible (refine Keep.fst (by assumption) ?_) | with_reducible (refine Keep.snd (by assumption) ?_) | dsimp only

theorem State.putFin_keep (h : Keep s t) (a1 : Reg) (a2 : BitVec 64) : Keep s (State.putFin t a1 a2) := by
  unfold State.putFin
  try extract_lets
  repeat' first | with_reducible assumption | with_reducible apply State.setCfg_keep | split | intro _ | with_reducible (refine Keep.upd ?_) | with_reducible (refine Keep.fst (by assumption) ?_) | with_reducible (refine Keep.snd (by assumption) ?_) | dsimp only

theorem State.putSgn_keep (h : Keep s t) (a1 : Reg) (a2 : BitVec 64) : Keep s (State.putSgn t a1 a2) := by
  unfold State.putSgn
  try extract_lets
  repeat' first | with_reducible assumption | with_reducible apply State.setCfg_keep | split | intro _ | with_reducible (refine Keep.upd ?_) | with_reducible (refine Keep.fst (by assumption) ?_) | with_reducible (refine Keep.snd (by assumption) ?_) | dsimp only

theorem State.putSetting_keep (h : Keep s t) (r : Reg) (v : BitVec 64) : Keep s (t.putSetting r v) := by
  unfold State.putSetting
  split
  · exact State.putFn_keep h _ _
  · exact State.putGrf_keep h _ _
  · exact State.putPwr_keep h _ _
  · exact State.putSwt_keep h _ _
  · exact State.putTdp_keep h _ _
  · exact State.putPgr_keep h _ _
  · exact State.putHbm_keep h _ _
  · exact State.putLsh_keep h _ _
  · exact State.putPrt_keep h _ _
  · exact State.putFin_keep h _ _
  · exact State.putSgn_keep h _ _
  · exact h

theorem State.createOf_keep (h : Keep s t) (c : Nat) (v : BitVec 64) : ∀ u, State.createOf t c v = some u → Keep s u :=
  State.createCtx_keep h _ _ _ _

theorem State.actCreate_keep (h : Keep s t) (w : Staged) : Keep s (t.actCreate w) := by
  unfold State.actCreate
  split
  · cases e : t.createOf w.reg.inst w.cmd with
    | none => exact h
    | some u => exact State.createOf_keep h _ _ _ e
  · exact h

theorem State.rejoin_keep (h : Keep s t) (a1 : Nat) (a2 : Nat) : Keep s (State.rejoin t a1 a2) := by
  unfold State.rejoin
  try extract_lets
  repeat' first | with_reducible assumption | with_reducible apply State.setPeer_keep | with_reducible apply State.sendJoin_keep | split | intro _ | with_reducible (refine Keep.upd ?_) | with_reducible (refine Keep.fst (by assumption) ?_) | with_reducible (refine Keep.snd (by assumption) ?_) | dsimp only

theorem State.act_keep (h : Keep s t) (s0 : State) (w : Staged) : Keep s (State.act s0 t w) := by
  unfold State.act
  extract_lets r i v k old new first a b s1
  have h1 : Keep s s1 := by
    unfold s1
    split
    · exact State.resumePort_keep (State.setPort_keep h _ _) _
    · exact h
  clear_value s1
  repeat' first | with_reducible assumption | split | with_reducible apply State.teardownCtx_keep | with_reducible apply State.jobKey_keep | with_reducible apply State.armSlot_keep | with_reducible apply State.cancelSlot_keep | with_reducible apply State.powerReq_keep | with_reducible apply State.rejoin_keep | with_reducible apply State.retrainPort_keep | with_reducible apply State.startAdopt_keep | with_reducible apply State.setCtx_keep | with_reducible apply State.resumePort_keep | with_reducible apply State.setPort_keep | extract_lets

theorem State.applyAll_keep (h : Keep s t) (l : List Staged) : ∀ u, t.applyAll l = .inl u → Keep s u := by
  intro u hu
  unfold State.applyAll at hu
  extract_lets t1 at hu
  have h1 : Keep s t1 := Keep.fold (fun _ _ h => State.putSetting_keep h _ _) _ _ h
  clear_value t1
  split at hu
  rename_i t2 bad k e
  have h2 : Keep s t2 := Keep.fst e (Keep.foldFst (fun _ _ h => State.actCreate_keep h _) _ _ h1)
  split at hu
  · cases hu
  · cases hu
    exact Keep.fold (fun _ _ h => State.act_keep h _ _) _ _ h2

theorem State.endTxn_keep (h : Keep s t) (a1 : Nat) (a2 : BitVec 6) : Keep s (State.endTxn t a1 a2) := by
  unfold State.endTxn
  try extract_lets
  repeat' first | with_reducible assumption | with_reducible apply State.setTxn_keep | with_reducible apply State.fire_keep | split | intro _ | with_reducible (refine Keep.upd ?_) | with_reducible (refine Keep.fst (by assumption) ?_) | with_reducible (refine Keep.snd (by assumption) ?_) | dsimp only

theorem State.refuseTxn_keep (h : Keep s t) (a1 : Nat) (a2 : BitVec 6) (a3 : Nat) (a4 : Reg) : Keep s (State.refuseTxn t a1 a2 a3 a4) := by
  unfold State.refuseTxn
  try extract_lets
  repeat' first | with_reducible assumption | with_reducible apply State.setTxn_keep | with_reducible apply State.err_keep | with_reducible apply State.endTxn_keep | split | intro _ | with_reducible (refine Keep.upd ?_) | with_reducible (refine Keep.fst (by assumption) ?_) | with_reducible (refine Keep.snd (by assumption) ?_) | dsimp only

theorem State.runTCmds_keep (l : List TCmd) : ∀ {t : State} (k : Nat), Keep s t → ∀ u, t.runTCmds l k = .inl u → Keep s u := by
  induction l with
  | nil => intro t k h u hu; cases hu; exact h
  | cons x l ih =>
    intro t k h u hu
    unfold State.runTCmds at hu
    split at hu
    · exact ih _ (State.runTCmd_keep h _ _ ‹_›) _ hu
    · cases hu

theorem State.commitLone_keep (h : Keep s t) (fn : Nat) : Keep s (t.commitLone fn) := by
  unfold State.commitLone
  exact Keep.fold (fun _ _ h => Keep.getD (State.runTCmd_keep h _) (State.refuseAt_keep h _ _ _)) _ _ (State.setTxn_keep h _ _)

theorem State.commit_keep (h : Keep s t) (fn : Nat) : Keep s (t.commit fn) := by
  unfold State.commit
  extract_lets s1 x mem
  have h1 : Keep s s1 := State.commitLone_keep h _
  clear_value s1
  have hm : ∀ u j, Keep s u → Keep s (mem u j) := fun _ _ h => State.refuseTxn_keep h _ _ _ _
  clear_value mem
  split
  · exact h1
  · split
    · exact State.refuseTxn_keep h1 _ _ _ _
    · split
      · have h2 := State.applyAll_keep h1 _ _ ‹_›
        split
        · exact State.endTxn_keep (State.runTCmds_keep _ _ h2 _ ‹_›) _ _
        · exact hm _ _ h1
      · extract_lets
        split
        · exact State.refuseTxn_keep h1 _ _ _ _
        · exact hm _ _ h1

theorem State.commitAll_keep (h : Keep s t) : Keep s (State.commitAll t) := by
  unfold State.commitAll
  try extract_lets
  repeat' first | with_reducible assumption | with_reducible apply State.commit_keep | split | with_reducible apply Keep.fold | with_reducible apply Keep.foldFst | with_reducible apply Keep.foldSnd | intro _ | with_reducible (refine Keep.fst (by assumption) ?_) | with_reducible (refine Keep.snd (by assumption) ?_) | dsimp only

theorem State.txnBegin_keep (h : Keep s t) (a1 : Nat) : Keep s (State.txnBegin t a1) := by
  unfold State.txnBegin
  try extract_lets
  repeat' first | with_reducible assumption | with_reducible apply State.setTxn_keep | with_reducible apply State.txnResult_keep | split | intro _ | with_reducible (refine Keep.upd ?_) | with_reducible (refine Keep.fst (by assumption) ?_) | with_reducible (refine Keep.snd (by assumption) ?_) | dsimp only

theorem State.txnCommit_keep (h : Keep s t) (a1 : Nat) : Keep s (State.txnCommit t a1) := by
  unfold State.txnCommit
  try extract_lets
  repeat' first | with_reducible assumption | with_reducible apply State.setTxn_keep | with_reducible apply State.txnResult_keep | with_reducible apply State.endTxn_keep | split | intro _ | with_reducible (refine Keep.upd ?_) | with_reducible (refine Keep.fst (by assumption) ?_) | with_reducible (refine Keep.snd (by assumption) ?_) | dsimp only

theorem State.txnRollback_keep (h : Keep s t) (a1 : Nat) : Keep s (State.txnRollback t a1) := by
  unfold State.txnRollback
  try extract_lets
  repeat' first | with_reducible assumption | with_reducible apply State.setTxn_keep | with_reducible apply State.fire_keep | with_reducible apply State.txnResult_keep | split | intro _ | with_reducible (refine Keep.upd ?_) | with_reducible (refine Keep.fst (by assumption) ?_) | with_reducible (refine Keep.snd (by assumption) ?_) | dsimp only

theorem State.stage_keep (h : Keep s t) (a1 : Nat) (a2 : Staged) : Keep s (State.stage t a1 a2) := by
  unfold State.stage
  try extract_lets
  repeat' first | with_reducible assumption | with_reducible apply State.setTxn_keep | with_reducible apply State.fire_keep | split | intro _ | with_reducible (refine Keep.upd ?_) | with_reducible (refine Keep.fst (by assumption) ?_) | with_reducible (refine Keep.snd (by assumption) ?_) | dsimp only

theorem State.escClear_keep (h : Keep s t) (a1 : Nat) (a2 : BitVec 64) : Keep s (State.escClear t a1 a2) := by
  unfold State.escClear
  try dsimp only
  repeat' first | with_reducible assumption | with_reducible apply State.release_keep | split | with_reducible apply Keep.fold | with_reducible apply Keep.foldFst | with_reducible apply Keep.foldSnd | intro _ | with_reducible (refine Keep.upd ?_) | with_reducible (refine Keep.fst (by assumption) ?_) | with_reducible (refine Keep.snd (by assumption) ?_) | dsimp only

theorem State.pwrClear_keep (h : Keep s t) (a1 : BitVec 64) : Keep s (State.pwrClear t a1) := by
  unfold State.pwrClear
  try extract_lets
  repeat' first | with_reducible assumption | with_reducible apply State.release_keep | split | intro _ | with_reducible (refine Keep.upd ?_) | with_reducible (refine Keep.fst (by assumption) ?_) | with_reducible (refine Keep.snd (by assumption) ?_) | dsimp only

theorem State.errClear_keep (h : Keep s t) (a1 : Nat) (a2 : Nat) (a3 : BitVec 64) : Keep s (State.errClear t a1 a2 a3) := by
  unfold State.errClear
  try extract_lets
  repeat' first | with_reducible assumption | split | intro _ | with_reducible (refine Keep.upd ?_) | with_reducible (refine Keep.fst (by assumption) ?_) | with_reducible (refine Keep.snd (by assumption) ?_) | dsimp only

theorem State.escReq_keep (h : Keep s t) (a1 : Nat) (a2 : BitVec 64) : Keep s (State.escReq t a1 a2) := by
  unfold State.escReq
  try dsimp only
  repeat' first | with_reducible assumption | with_reducible apply State.resetReq_keep | with_reducible apply State.dumpReq_keep | split | intro _ | with_reducible (refine Keep.upd ?_) | with_reducible (refine Keep.fst (by assumption) ?_) | with_reducible (refine Keep.snd (by assumption) ?_) | dsimp only

theorem State.aptAccess_keep (h : Keep s t) (a1 : Nat) (a2 : Option Staged) : Keep s (State.aptAccess t a1 a2) := by
  unfold State.aptAccess
  try extract_lets
  repeat' first | with_reducible assumption | with_reducible apply State.emit_keep | split | intro _ | with_reducible (refine Keep.upd ?_) | with_reducible (refine Keep.fst (by assumption) ?_) | with_reducible (refine Keep.snd (by assumption) ?_) | dsimp only

theorem nextOf_keep (h : Keep s t) (o : Host.Outcome State Fault Refusal) (ho : Keeps s o) : Keep s (nextOf t o) := by
  unfold nextOf
  split
  · exact ho.next _ rfl
  · exact h

theorem State.writeNow_keep (h : Keep s t) (a1 : Nat) (a2 : Staged) : Keep s (State.writeNow t a1 a2) := by
  unfold State.writeNow
  try extract_lets
  repeat' first | with_reducible assumption | with_reducible apply State.setSlot_keep | with_reducible apply State.setTxn_keep | with_reducible apply execMailboxGo_keep | with_reducible apply execMailboxAbort_keep | with_reducible apply execMailboxDataAccess_keep | with_reducible apply execReceiptKeyErase_keep | with_reducible apply State.txnBegin_keep | with_reducible apply State.txnCommit_keep | with_reducible apply State.txnRollback_keep | with_reducible apply State.escClear_keep | with_reducible apply State.pwrClear_keep | with_reducible apply State.errClear_keep | with_reducible apply State.escReq_keep | with_reducible apply State.aptAccess_keep | with_reducible apply nextOf_keep | split | intro _ | with_reducible (refine Keep.upd ?_) | with_reducible (refine Keep.fst (by assumption) ?_) | with_reducible (refine Keep.snd (by assumption) ?_) | dsimp only

theorem State.writeTxn_keep (h : Keep s t) (fn : Nat) (w : Staged) : Keeps s (t.writeTxn fn w) := by
  unfold State.writeTxn
  split
  · exact Keeps.of (State.stage_keep h _ _)
  · split
    · exact Keeps.of (State.access_keep h _ _)
    · split
      · exact Keeps.fault _
      · split
        · exact Keeps.of (State.applyAll_keep h _ _ ‹_›)
        · exact Keeps.of (State.access_keep h _ _)

theorem execRegisterWrite_keep (h : Keep s t) (a1 : Nat) (a2 : RegSel) (a3 : Half) (a4 : BitVec 64) : Keeps s (execRegisterWrite a1 a2 a3 a4 t) := by
  unfold execRegisterWrite
  try extract_lets
  repeat' first | with_reducible assumption | with_reducible apply State.access_keep | with_reducible apply State.writeNow_keep | with_reducible apply State.writeTxn_keep | with_reducible (refine Keeps.of ?_) | with_reducible exact Keeps.fault _ | split | intro _ | with_reducible (refine Keep.fst (by assumption) ?_) | with_reducible (refine Keep.snd (by assumption) ?_) | dsimp only

theorem execTxnBegin_keep (h : Keep s t) (a1 : Nat) : Keeps s (execTxnBegin a1 t) := by
  unfold execTxnBegin
  try extract_lets
  repeat' first | with_reducible assumption | with_reducible apply State.txnBegin_keep | with_reducible (refine Keeps.of ?_) | with_reducible exact Keeps.fault _ | split | intro _ | with_reducible (refine Keep.fst (by assumption) ?_) | with_reducible (refine Keep.snd (by assumption) ?_) | dsimp only

theorem execTxnCommit_keep (h : Keep s t) (a1 : Nat) : Keeps s (execTxnCommit a1 t) := by
  unfold execTxnCommit
  try extract_lets
  repeat' first | with_reducible assumption | with_reducible apply State.txnCommit_keep | with_reducible (refine Keeps.of ?_) | with_reducible exact Keeps.fault _ | split | intro _ | with_reducible (refine Keep.fst (by assumption) ?_) | with_reducible (refine Keep.snd (by assumption) ?_) | dsimp only

theorem execTxnRollback_keep (h : Keep s t) (a1 : Nat) : Keeps s (execTxnRollback a1 t) := by
  unfold execTxnRollback
  try extract_lets
  repeat' first | with_reducible assumption | with_reducible apply State.txnRollback_keep | with_reducible (refine Keeps.of ?_) | with_reducible exact Keeps.fault _ | split | intro _ | with_reducible (refine Keep.fst (by assumption) ?_) | with_reducible (refine Keep.snd (by assumption) ?_) | dsimp only

theorem execBadRegisterAccess_keep (h : Keep s t) (a1 : Nat) (a2 : Nat) (a3 : Bool) : Keeps s (execBadRegisterAccess a1 a2 a3 t) := by
  unfold execBadRegisterAccess
  try dsimp only
  repeat' first | with_reducible assumption | with_reducible apply State.emit_keep | with_reducible apply State.access_keep | with_reducible (refine Keeps.of ?_) | with_reducible exact Keeps.fault _ | split | intro _ | with_reducible (refine Keep.fst (by assumption) ?_) | with_reducible (refine Keep.snd (by assumption) ?_) | dsimp only

theorem execErrClear_keep (h : Keep s t) (a1 : Nat) (a2 : Nat) (a3 : BitVec 64) : Keeps s (execErrClear a1 a2 a3 t) := by
  unfold execErrClear
  try extract_lets
  repeat' first | with_reducible assumption | with_reducible apply State.errClear_keep | with_reducible (refine Keeps.of ?_) | with_reducible exact Keeps.fault _ | split | intro _ | with_reducible (refine Keep.fst (by assumption) ?_) | with_reducible (refine Keep.snd (by assumption) ?_) | dsimp only

theorem execEscEventClear_keep (h : Keep s t) (a1 : Nat) (a2 : BitVec 64) : Keeps s (execEscEventClear a1 a2 t) := by
  unfold execEscEventClear
  try extract_lets
  repeat' first | with_reducible assumption | with_reducible apply State.escClear_keep | with_reducible (refine Keeps.of ?_) | with_reducible exact Keeps.fault _ | split | intro _ | with_reducible (refine Keep.fst (by assumption) ?_) | with_reducible (refine Keep.snd (by assumption) ?_) | dsimp only

theorem execPwrEventClear_keep (h : Keep s t) (a1 : BitVec 64) : Keeps s (execPwrEventClear a1 t) := by
  unfold execPwrEventClear
  try extract_lets
  repeat' first | with_reducible assumption | with_reducible apply State.pwrClear_keep | with_reducible (refine Keeps.of ?_) | with_reducible exact Keeps.fault _ | split | intro _ | with_reducible (refine Keep.fst (by assumption) ?_) | with_reducible (refine Keep.snd (by assumption) ?_) | dsimp only

theorem execApertureDataAccess_keep (h : Keep s t) (a1 : Nat) (a2 : Option (BitVec 64)) : Keeps s (execApertureDataAccess a1 a2 t) := by
  unfold execApertureDataAccess
  try extract_lets
  repeat' first | with_reducible assumption | with_reducible apply State.aptAccess_keep | with_reducible (refine Keeps.of ?_) | with_reducible exact Keeps.fault _ | split | intro _ | with_reducible (refine Keep.fst (by assumption) ?_) | with_reducible (refine Keep.snd (by assumption) ?_) | dsimp only

theorem execRetrain_keep (h : Keep s t) (a1 : Nat) (a2 : Nat) : Keeps s (execRetrain a1 a2 t) := by
  unfold execRetrain
  try extract_lets
  repeat' first | with_reducible assumption | with_reducible apply State.writeTxn_keep | with_reducible (refine Keeps.of ?_) | with_reducible exact Keeps.fault _ | split | intro _ | with_reducible (refine Keep.fst (by assumption) ?_) | with_reducible (refine Keep.snd (by assumption) ?_) | dsimp only

theorem execDStateChange_keep (h : Keep s t) (a1 : Nat) (a2 : Bool) : Keeps s (execDStateChange a1 a2 t) := by
  unfold execDStateChange
  try extract_lets
  repeat' first | with_reducible assumption | with_reducible (refine Keeps.of ?_) | with_reducible exact Keeps.fault _ | split | intro _ | with_reducible (refine Keep.upd ?_) | with_reducible (refine Keep.fst (by assumption) ?_) | with_reducible (refine Keep.snd (by assumption) ?_) | dsimp only

end Sys2Proof.Machine
end

