-- ==== Sys2Proof/Laws/KeepHostMem.lean ====
section
/-! SUPPORT. The operations of Machine/HostMem.lean keep the queue and the form of memory. -/
namespace Sys2Proof.Machine

variable {s t : State}

theorem State.dropWrite_keep (h : Keep s t) (a1 : Nat) : Keep s (State.dropWrite t a1) := by
  unfold State.dropWrite
  try extract_lets
  repeat' first | with_reducible assumption | split | intro _ | with_reducible (refine Keep.upd ?_) | with_reducible (refine Keep.fst (by assumption) ?_) | with_reducible (refine Keep.snd (by assumption) ?_) | dsimp only

theorem State.fetchFar_keep (h : Keep s t) (a1 : FarPage) : Keep s (State.fetchFar t a1) := by
  unfold State.fetchFar
  try extract_lets
  repeat' first | with_reducible assumption | with_reducible apply State.lsSend_keep | with_reducible apply State.setFar_keep | with_reducible apply State.landPage_keep | with_reducible apply State.draw_keep | split | intro _ | with_reducible (refine Keep.upd ?_) | with_reducible (refine Keep.fst (by assumption) ?_) | with_reducible (refine Keep.snd (by assumption) ?_) | dsimp only

theorem State.serveRead_keep (h : Keep s t) (a1 : Nat) (a2 : Nat) (a3 : Nat) : Keep s (State.serveRead t a1 a2 a3) := by
  unfold State.serveRead
  try extract_lets
  repeat' first | with_reducible assumption | with_reducible apply State.emit_keep | split | intro _ | with_reducible (refine Keep.fst (by assumption) ?_) | with_reducible (refine Keep.snd (by assumption) ?_) | dsimp only

theorem State.serveWrite_keep (h : Keep s t) (a1 : Nat) (a2 : Nat) (a3 : List Byte) : Keep s (State.serveWrite t a1 a2 a3) := by
  unfold State.serveWrite
  try dsimp only
  repeat' first | with_reducible assumption | with_reducible apply State.store_keep | with_reducible apply State.dropWrite_keep | split | intro _ | with_reducible (refine Keep.fst (by assumption) ?_) | with_reducible (refine Keep.snd (by assumption) ?_) | dsimp only

theorem State.serveHeld_keep (h : Keep s t) : Keep s (State.serveHeld t) := by
  unfold State.serveHeld
  try dsimp only
  repeat' first | with_reducible assumption | with_reducible apply State.emit_keep | with_reducible apply State.dropWrite_keep | with_reducible apply State.serveRead_keep | with_reducible apply State.serveWrite_keep | split | with_reducible apply Keep.fold | with_reducible apply Keep.foldFst | with_reducible apply Keep.foldSnd | intro _ | with_reducible (refine Keep.upd ?_) | with_reducible (refine Keep.fst (by assumption) ?_) | with_reducible (refine Keep.snd (by assumption) ?_) | dsimp only

theorem execBar2Read_keep (h : Keep s t) (a1 : Nat) (a2 : Nat) (a3 : Nat) : Keeps s (execBar2Read a1 a2 a3 t) := by
  unfold execBar2Read
  try extract_lets
  repeat' first | with_reducible assumption | with_reducible apply State.emit_keep | with_reducible apply State.fetchFar_keep | with_reducible apply State.serveRead_keep | with_reducible apply State.serveHeld_keep | with_reducible (refine Keeps.of ?_) | with_reducible exact Keeps.fault _ | split | with_reducible apply Keep.fold | with_reducible apply Keep.foldFst | with_reducible apply Keep.foldSnd | intro _ | with_reducible (refine Keep.upd ?_) | with_reducible (refine Keep.fst (by assumption) ?_) | with_reducible (refine Keep.snd (by assumption) ?_) | dsimp only

theorem execBar2Write_keep (h : Keep s t) (a1 : Nat) (a2 : Nat) (a3 : List Byte) : Keeps s (execBar2Write a1 a2 a3 t) := by
  unfold execBar2Write
  try extract_lets
  repeat' first | with_reducible assumption | with_reducible apply State.setCtx_keep | with_reducible apply State.emit_keep | with_reducible apply State.dropWrite_keep | with_reducible apply State.fetchFar_keep | with_reducible apply State.serveWrite_keep | with_reducible apply State.serveHeld_keep | with_reducible (refine Keeps.of ?_) | with_reducible exact Keeps.fault _ | split | with_reducible apply Keep.fold | with_reducible apply Keep.foldFst | with_reducible apply Keep.foldSnd | intro _ | with_reducible (refine Keep.upd ?_) | with_reducible (refine Keep.fst (by assumption) ?_) | with_reducible (refine Keep.snd (by assumption) ?_) | dsimp only

end Sys2Proof.Machine
end

