-- ==== Sys2Proof/Laws/KeepTide.lean ====
section
/-! SUPPORT. The operations of Machine/Tide.lean keep the queue and the form of memory. -/
namespace Sys2Proof.Machine

variable {s t : State}

theorem State.slackStep_keep (h : Keep s t) : Keep s (State.slackStep t) := by
  unfold State.slackStep
  try extract_lets
  repeat' first | with_reducible assumption | with_reducible apply State.pwrSet_keep | split | intro _ | with_reducible (refine Keep.upd ?_) | with_reducible (refine Keep.fst (by assumption) ?_) | with_reducible (refine Keep.snd (by assumption) ?_) | dsimp only

theorem State.failSeg_keep (h : Keep s t) (a1 : Done) : Keep s (State.failSeg t a1) := by
  unfold State.failSeg
  try extract_lets
  repeat' first | with_reducible assumption | with_reducible apply State.finishTask_keep | with_reducible apply State.failMark_keep | with_reducible apply State.stopFault_keep | split | intro _ | with_reducible (refine Keep.fst (by assumption) ?_) | with_reducible (refine Keep.snd (by assumption) ?_) | dsimp only

theorem State.logFault_keep (h : Keep s t) (a1 : Nat) (a2 : Seg) (a3 : BitVec 64) : Keep s (State.logFault t a1 a2 a3) := by
  unfold State.logFault
  try extract_lets
  repeat' first | with_reducible assumption | with_reducible apply State.err_keep | with_reducible apply State.log_keep | split | intro _ | with_reducible (refine Keep.fst (by assumption) ?_) | with_reducible (refine Keep.snd (by assumption) ?_) | dsimp only

theorem State.climbBlock_keep (h : Keep s t) (a1 : Seg) (a2 : Nat) : Keep s (State.climbBlock t a1 a2) := by
  unfold State.climbBlock
  try extract_lets
  repeat' first | with_reducible assumption | with_reducible apply State.setSlot_keep | with_reducible apply State.climbRed_keep | split | intro _ | with_reducible (refine Keep.upd ?_) | with_reducible (refine Keep.fst (by assumption) ?_) | with_reducible (refine Keep.snd (by assumption) ?_) | dsimp only

theorem State.segEnd_keep (h : Keep s t) (a1 : Nat) (a2 : Done) (a3 : List Nat) (a4 : List Nat) (a5 : Bool) : Keep s (State.segEnd t a1 a2 a3 a4 a5) := by
  unfold State.segEnd
  try dsimp only
  repeat' first | with_reducible assumption | with_reducible apply State.setCtx_keep | with_reducible apply State.setSlot_keep | with_reducible apply State.raiseFlag_keep | with_reducible apply State.failSeg_keep | with_reducible apply State.logFault_keep | with_reducible apply State.climbBlock_keep | split | with_reducible apply Keep.fold | with_reducible apply Keep.foldFst | with_reducible apply Keep.foldSnd | intro _ | with_reducible (refine Keep.upd ?_) | with_reducible (refine Keep.fst (by assumption) ?_) | with_reducible (refine Keep.snd (by assumption) ?_) | dsimp only

theorem State.spoilOut_keep (h : Keep s t) (a1 : Done) : Keep s (State.spoilOut t a1) := by
  unfold State.spoilOut
  try extract_lets
  repeat' first | with_reducible assumption | with_reducible apply State.poisonRange_keep | split | with_reducible apply Keep.fold | with_reducible apply Keep.foldFst | with_reducible apply Keep.foldSnd | intro _ | with_reducible (refine Keep.fst (by assumption) ?_) | with_reducible (refine Keep.snd (by assumption) ?_) | dsimp only

theorem State.endHeld_keep (h : Keep s t) (a1 : Nat) : Keep s (State.endHeld t a1) := by
  unfold State.endHeld
  try dsimp only
  repeat' first | with_reducible assumption | with_reducible apply State.setPanel_keep | with_reducible apply State.segEnd_keep | with_reducible apply State.spoilOut_keep | with_reducible apply State.draw_keep | split | intro _ | with_reducible (refine Keep.upd ?_) | with_reducible (refine Keep.fst (by assumption) ?_) | with_reducible (refine Keep.snd (by assumption) ?_) | dsimp only

theorem State.retirePanel_keep (h : Keep s t) (a1 : Nat) : Keep s (State.retirePanel t a1) := by
  unfold State.retirePanel
  try dsimp only
  repeat' first | with_reducible assumption | with_reducible apply State.setPanel_keep | with_reducible apply State.segEnd_keep | with_reducible apply State.endHeld_keep | split | intro _ | with_reducible (refine Keep.upd ?_) | with_reducible (refine Keep.fst (by assumption) ?_) | with_reducible (refine Keep.snd (by assumption) ?_) | dsimp only

theorem State.eachTask_keep (h : Keep s t) {f : State → Nat → Nat → State} (hf : ∀ u n i, Keep s u → Keep s (f u n i)) : Keep s (t.eachTask f) := by
  unfold State.eachTask
  refine Keep.fold (fun u n h => ?_) _ _ h
  split
  · exact Keep.fold (fun u i h => hf _ _ _ h) _ _ h
  · exact h

theorem State.endTask_keep (h : Keep s t) (a1 : Nat) (a2 : Nat) : Keep s (State.endTask t a1 a2) := by
  unfold State.endTask
  try extract_lets
  repeat' first | with_reducible assumption | with_reducible apply State.drainParts_keep | with_reducible apply State.finishWell_keep | split | intro _ | with_reducible (refine Keep.fst (by assumption) ?_) | with_reducible (refine Keep.snd (by assumption) ?_) | dsimp only

theorem State.endEmpty_keep (h : Keep s t) (a1 : Nat) (a2 : Nat) : Keep s (State.endEmpty t a1 a2) := by
  unfold State.endEmpty
  try extract_lets
  repeat' first | with_reducible assumption | with_reducible apply State.finishWell_keep | split | intro _ | with_reducible (refine Keep.fst (by assumption) ?_) | with_reducible (refine Keep.snd (by assumption) ?_) | dsimp only

theorem State.endDue_keep (h : Keep s t) (a1 : Nat) (a2 : Nat) : Keep s (State.endDue t a1 a2) := by
  unfold State.endDue
  try extract_lets
  repeat' first | with_reducible assumption | with_reducible apply State.setSlot_keep | with_reducible apply State.raiseFlag_keep | with_reducible apply State.finishTask_keep | with_reducible apply State.failMark_keep | with_reducible apply State.finishWell_keep | split | intro _ | with_reducible (refine Keep.upd ?_) | with_reducible (refine Keep.fst (by assumption) ?_) | with_reducible (refine Keep.snd (by assumption) ?_) | dsimp only

theorem State.enterRunning_keep (h : Keep s t) (a1 : Nat) : Keep s (State.enterRunning t a1) := by
  unfold State.enterRunning
  try extract_lets
  repeat' first | with_reducible assumption | with_reducible apply State.setCtx_keep | with_reducible apply State.startSlot_keep | with_reducible apply State.openAll_keep | split | intro _ | with_reducible (refine Keep.upd ?_) | with_reducible (refine Keep.fst (by assumption) ?_) | with_reducible (refine Keep.snd (by assumption) ?_) | dsimp only

theorem State.endChecks_keep (h : Keep s t) : Keep s (State.endChecks t) := by
  unfold State.endChecks
  try extract_lets
  repeat' first | with_reducible assumption | with_reducible apply State.setPanel_keep | split | with_reducible apply Keep.fold | with_reducible apply Keep.foldFst | with_reducible apply Keep.foldSnd | intro _ | with_reducible (refine Keep.upd ?_) | with_reducible (refine Keep.fst (by assumption) ?_) | with_reducible (refine Keep.snd (by assumption) ?_) | dsimp only

theorem State.retireFrame_keep (h : Keep s t) : Keep s (State.retireFrame t) := by
  unfold State.retireFrame
  try extract_lets
  repeat' first | with_reducible assumption | with_reducible apply State.settleSlot_keep | with_reducible apply State.leaveDue_keep | with_reducible apply State.doneSlot_keep | with_reducible apply State.freeDestroyed_keep | with_reducible apply State.claimAll_keep | with_reducible apply State.applyFences_keep | with_reducible apply State.applyOutcome_keep | with_reducible apply State.retirePanel_keep | with_reducible apply State.eachTask_keep | with_reducible apply State.endTask_keep | with_reducible apply State.endEmpty_keep | with_reducible apply State.endDue_keep | with_reducible apply State.enterRunning_keep | with_reducible apply State.endChecks_keep | split | with_reducible apply Keep.fold | with_reducible apply Keep.foldFst | with_reducible apply Keep.foldSnd | intro _ | with_reducible (refine Keep.fst (by assumption) ?_) | with_reducible (refine Keep.snd (by assumption) ?_) | dsimp only

theorem State.floorCheck_keep (h : Keep s t) (a1 : Nat) : Keep s (State.floorCheck t a1) := by
  unfold State.floorCheck
  try extract_lets
  repeat' first | with_reducible assumption | with_reducible apply State.pwrSet_keep | with_reducible apply State.log_keep | split | intro _ | with_reducible (refine Keep.upd ?_) | with_reducible (refine Keep.fst (by assumption) ?_) | with_reducible (refine Keep.snd (by assumption) ?_) | dsimp only

theorem State.sample_keep (h : Keep s t) (a1 : Nat) : Keep s (State.sample t a1).2 := by
  unfold State.sample
  try extract_lets
  repeat' first | with_reducible assumption | with_reducible apply State.draw_keep | split | intro _ | with_reducible (refine Keep.fst (by assumption) ?_) | with_reducible (refine Keep.snd (by assumption) ?_) | dsimp only

theorem State.crossCheck_keep (h : Keep s t) (a1 : Nat) (a2 : Nat) (a3 : Seg) : Keep s (State.crossCheck t a1 a2 a3).2 := by
  unfold State.crossCheck
  try extract_lets
  repeat' first | with_reducible assumption | with_reducible apply State.draw_keep | split | intro _ | with_reducible (refine Keep.fst (by assumption) ?_) | with_reducible (refine Keep.snd (by assumption) ?_) | dsimp only

theorem State.gauge_keep (h : Keep s t) (a1 : Nat) (a2 : Seg) : Keep s (State.gauge t a1 a2) := by
  unfold State.gauge
  try extract_lets
  repeat' first | with_reducible assumption | with_reducible apply State.setPanel_keep | with_reducible apply State.store_keep | split | with_reducible apply Keep.fold | with_reducible apply Keep.foldFst | with_reducible apply Keep.foldSnd | intro _ | with_reducible (refine Keep.upd ?_) | with_reducible (refine Keep.fst (by assumption) ?_) | with_reducible (refine Keep.snd (by assumption) ?_) | dsimp only

theorem State.restage_keep (h : Keep s t) (a1 : Nat) (a2 : Seg) : Keep s (State.restage t a1 a2).2 := by
  unfold State.restage
  try extract_lets
  repeat' first | with_reducible assumption | with_reducible apply State.setPanel_keep | split | with_reducible apply Keep.fold | with_reducible apply Keep.foldFst | with_reducible apply Keep.foldSnd | intro _ | with_reducible (refine Keep.upd ?_) | with_reducible (refine Keep.fst (by assumption) ?_) | with_reducible (refine Keep.snd (by assumption) ?_) | dsimp only

theorem State.bindSeg_keep (h : Keep s t) (a1 : Nat) (a2 : Seg) (a3 : List Check) : Keep s (State.bindSeg t a1 a2 a3) := by
  unfold State.bindSeg
  try dsimp only
  repeat' first | with_reducible assumption | with_reducible apply State.setSlot_keep | with_reducible apply State.setPanel_keep | with_reducible apply State.gauge_keep | with_reducible apply State.restage_keep | split | intro _ | with_reducible (refine Keep.upd ?_) | with_reducible (refine Keep.fst (by assumption) ?_) | with_reducible (refine Keep.snd (by assumption) ?_) | dsimp only

theorem State.serve_keep (h : Keep s t) (a1 : Nat) (a2 : Nat) (a3 : List Nat) (a4 : Nat) : Keep s (State.serve t a1 a2 a3 a4).1 := by
  unfold State.serve
  try dsimp only
  repeat' first | with_reducible assumption | with_reducible apply State.drop_keep | with_reducible apply State.sample_keep | with_reducible apply State.crossCheck_keep | with_reducible apply State.bindSeg_keep | split | with_reducible apply Keep.fold | with_reducible apply Keep.foldFst | with_reducible apply Keep.foldSnd | intro _ | with_reducible (refine Keep.upd ?_) | with_reducible (refine Keep.fst (by assumption) ?_) | with_reducible (refine Keep.snd (by assumption) ?_) | dsimp only

theorem State.serveTask_keep (h : Keep s t) (s0 : State) (n i budget : Nat) : Keep s (State.serveTask s0 t n i budget) := by
  unfold State.serveTask
  extract_lets
  split
  · split
    · exact h
    · exact State.serve_keep h _ _ _ _
  · refine Keep.foldFst (fun u k h => ?_) _ _ h
    split
    · exact State.serve_keep h _ _ _ _
    · exact h

theorem State.servePass_keep (h : Keep s t) (s0 : State) (order : List (Nat × Nat)) (budget : Nat) : Keep s (State.servePass s0 t order budget) := by
  unfold State.servePass
  refine Keep.fold (fun u x h => ?_) _ _ h
  dsimp only
  split
  · exact h
  · exact State.serveTask_keep h _ _ _ _

theorem State.startP2P_keep (h : Keep s t) (a1 : Nat) (a2 : Nat) : Keep s (State.startP2P t a1 a2) := by
  unfold State.startP2P
  try extract_lets
  repeat' first | with_reducible assumption | with_reducible apply State.lsSend_keep | with_reducible apply State.p2pSend_keep | split | intro _ | with_reducible (refine Keep.upd ?_) | with_reducible (refine Keep.fst (by assumption) ?_) | with_reducible (refine Keep.snd (by assumption) ?_) | dsimp only

theorem State.dispatchUnit_keep (h : Keep s t) (a1 : Nat) (a2 : Nat) : Keep s (State.dispatchUnit t a1 a2) := by
  unfold State.dispatchUnit
  try extract_lets
  repeat' first | with_reducible assumption | with_reducible apply State.setSlot_keep | with_reducible apply State.endsWith_keep | with_reducible apply State.flagGather_keep | with_reducible apply State.swStart_keep | with_reducible apply swUse_keep | with_reducible apply State.endDue_keep | with_reducible apply State.startP2P_keep | split | intro _ | with_reducible (refine Keep.upd ?_) | with_reducible (refine Keep.fst (by assumption) ?_) | with_reducible (refine Keep.snd (by assumption) ?_) | dsimp only

theorem State.dispatchAll_keep (h : Keep s t) : Keep s (State.dispatchAll t) := by
  unfold State.dispatchAll
  try extract_lets
  repeat' first | with_reducible assumption | with_reducible apply State.servePass_keep | with_reducible apply State.dispatchUnit_keep | split | with_reducible apply Keep.fold | with_reducible apply Keep.foldFst | with_reducible apply Keep.foldSnd | intro _ | with_reducible (refine Keep.fst (by assumption) ?_) | with_reducible (refine Keep.snd (by assumption) ?_) | dsimp only

theorem State.tick_keep (h : Keep s t) (a1 : Nat) : Keep s (State.tick t a1) := by
  unfold State.tick
  try extract_lets
  repeat' first | with_reducible assumption | with_reducible apply State.beginWaiting_keep | with_reducible apply State.commitAll_keep | with_reducible apply State.serveHeld_keep | with_reducible apply State.slackStep_keep | with_reducible apply State.retireFrame_keep | with_reducible apply State.floorCheck_keep | with_reducible apply State.dispatchAll_keep | split | intro _ | with_reducible (refine Keep.upd ?_) | with_reducible (refine Keep.fst (by assumption) ?_) | with_reducible (refine Keep.snd (by assumption) ?_) | dsimp only

theorem execTideTick_keep (h : Keep s t) (a1 : Nat) : Keeps s (execTideTick a1 t) := by
  unfold execTideTick
  try extract_lets
  repeat' first | with_reducible assumption | with_reducible apply State.tick_keep | with_reducible (refine Keeps.of ?_) | with_reducible exact Keeps.fault _ | split | intro _ | with_reducible (refine Keep.fst (by assumption) ?_) | with_reducible (refine Keep.snd (by assumption) ?_) | dsimp only

end Sys2Proof.Machine
end

