-- ==== Sys2Proof/Laws/State.lean ====
section
/-! SUPPORT. What one named update of the state leaves to read: one lemma per field, true by unfolding. -/
namespace Sys2Proof.Machine

variable (s : State)

/-! ### Fields that an update does not name -/

@[simp] theorem State.setCtx_frame (c : Nat) (x : Ctx) : (s.setCtx c x).frame = s.frame := rfl
@[simp] theorem State.setCtx_tickRun (c : Nat) (x : Ctx) : (s.setCtx c x).tickRun = s.tickRun := rfl
@[simp] theorem State.setCtx_panels (c : Nat) (x : Ctx) : (s.setCtx c x).panels = s.panels := rfl
@[simp] theorem State.setCtx_slots (c : Nat) (x : Ctx) : (s.setCtx c x).slots = s.slots := rfl
@[simp] theorem State.setCtx_mem (c : Nat) (x : Ctx) : (s.setCtx c x).mem = s.mem := rfl
@[simp] theorem State.setCtx_poison (c : Nat) (x : Ctx) : (s.setCtx c x).poison = s.poison := rfl
@[simp] theorem State.setCtx_fab (c : Nat) (x : Ctx) : (s.setCtx c x).fab = s.fab := rfl
@[simp] theorem State.setCtx_tdp (c : Nat) (x : Ctx) : (s.setCtx c x).tdp = s.tdp := rfl
@[simp] theorem State.setCtx_pager (c : Nat) (x : Ctx) : (s.setCtx c x).pager = s.pager := rfl
@[simp] theorem State.setCtx_swt (c : Nat) (x : Ctx) : (s.setCtx c x).swt = s.swt := rfl
@[simp] theorem State.setCtx_esc (c : Nat) (x : Ctx) : (s.setCtx c x).esc = s.esc := rfl
@[simp] theorem State.setCtx_wrk (c : Nat) (x : Ctx) : (s.setCtx c x).wrk = s.wrk := rfl
@[simp] theorem State.setCtx_dump (c : Nat) (x : Ctx) : (s.setCtx c x).dump = s.dump := rfl
@[simp] theorem State.setCtx_remap (c : Nat) (x : Ctx) : (s.setCtx c x).remap = s.remap := rfl
@[simp] theorem State.setCtx_bru (c : Nat) (x : Ctx) : (s.setCtx c x).bru = s.bru := rfl
@[simp] theorem State.setCtx_host (c : Nat) (x : Ctx) : (s.setCtx c x).host = s.host := rfl
@[simp] theorem State.setCtx_pwr (c : Nat) (x : Ctx) : (s.setCtx c x).pwr = s.pwr := rfl
@[simp] theorem State.setCtx_pins (c : Nat) (x : Ctx) : (s.setCtx c x).pins = s.pins := rfl
@[simp] theorem State.setCtx_wer (c : Nat) (x : Ctx) : (s.setCtx c x).wer = s.wer := rfl
@[simp] theorem State.setCtx_sec (c : Nat) (x : Ctx) : (s.setCtx c x).sec = s.sec := rfl
@[simp] theorem State.setCtx_wire (c : Nat) (x : Ctx) : (s.setCtx c x).wire = s.wire := rfl
@[simp] theorem State.setCtx_out (c : Nat) (x : Ctx) : (s.setCtx c x).out = s.out := rfl
@[simp] theorem State.setCtx_fresh (c : Nat) (x : Ctx) : (s.setCtx c x).fresh = s.fresh := rfl
@[simp] theorem State.setCtx_pending (c : Nat) (x : Ctx) : (s.setCtx c x).pending = s.pending := rfl
@[simp] theorem State.setSlot_frame (n : Nat) (x : Slot) : (s.setSlot n x).frame = s.frame := rfl
@[simp] theorem State.setSlot_tickRun (n : Nat) (x : Slot) : (s.setSlot n x).tickRun = s.tickRun := rfl
@[simp] theorem State.setSlot_panels (n : Nat) (x : Slot) : (s.setSlot n x).panels = s.panels := rfl
@[simp] theorem State.setSlot_ctxs (n : Nat) (x : Slot) : (s.setSlot n x).ctxs = s.ctxs := rfl
@[simp] theorem State.setSlot_mem (n : Nat) (x : Slot) : (s.setSlot n x).mem = s.mem := rfl
@[simp] theorem State.setSlot_poison (n : Nat) (x : Slot) : (s.setSlot n x).poison = s.poison := rfl
@[simp] theorem State.setSlot_fab (n : Nat) (x : Slot) : (s.setSlot n x).fab = s.fab := rfl
@[simp] theorem State.setSlot_tdp (n : Nat) (x : Slot) : (s.setSlot n x).tdp = s.tdp := rfl
@[simp] theorem State.setSlot_pager (n : Nat) (x : Slot) : (s.setSlot n x).pager = s.pager := rfl
@[simp] theorem State.setSlot_swt (n : Nat) (x : Slot) : (s.setSlot n x).swt = s.swt := rfl
@[simp] theorem State.setSlot_esc (n : Nat) (x : Slot) : (s.setSlot n x).esc = s.esc := rfl
@[simp] theorem State.setSlot_wrk (n : Nat) (x : Slot) : (s.setSlot n x).wrk = s.wrk := rfl
@[simp] theorem State.setSlot_dump (n : Nat) (x : Slot) : (s.setSlot n x).dump = s.dump := rfl
@[simp] theorem State.setSlot_remap (n : Nat) (x : Slot) : (s.setSlot n x).remap = s.remap := rfl
@[simp] theorem State.setSlot_bru (n : Nat) (x : Slot) : (s.setSlot n x).bru = s.bru := rfl
@[simp] theorem State.setSlot_host (n : Nat) (x : Slot) : (s.setSlot n x).host = s.host := rfl
@[simp] theorem State.setSlot_pwr (n : Nat) (x : Slot) : (s.setSlot n x).pwr = s.pwr := rfl
@[simp] theorem State.setSlot_pins (n : Nat) (x : Slot) : (s.setSlot n x).pins = s.pins := rfl
@[simp] theorem State.setSlot_wer (n : Nat) (x : Slot) : (s.setSlot n x).wer = s.wer := rfl
@[simp] theorem State.setSlot_sec (n : Nat) (x : Slot) : (s.setSlot n x).sec = s.sec := rfl
@[simp] theorem State.setSlot_wire (n : Nat) (x : Slot) : (s.setSlot n x).wire = s.wire := rfl
@[simp] theorem State.setSlot_out (n : Nat) (x : Slot) : (s.setSlot n x).out = s.out := rfl
@[simp] theorem State.setSlot_fresh (n : Nat) (x : Slot) : (s.setSlot n x).fresh = s.fresh := rfl
@[simp] theorem State.setSlot_pending (n : Nat) (x : Slot) : (s.setSlot n x).pending = s.pending := rfl
@[simp] theorem State.setPanel_frame (p : Nat) (x : Panel) : (s.setPanel p x).frame = s.frame := rfl
@[simp] theorem State.setPanel_tickRun (p : Nat) (x : Panel) : (s.setPanel p x).tickRun = s.tickRun := rfl
@[simp] theorem State.setPanel_ctxs (p : Nat) (x : Panel) : (s.setPanel p x).ctxs = s.ctxs := rfl
@[simp] theorem State.setPanel_slots (p : Nat) (x : Panel) : (s.setPanel p x).slots = s.slots := rfl
@[simp] theorem State.setPanel_mem (p : Nat) (x : Panel) : (s.setPanel p x).mem = s.mem := rfl
@[simp] theorem State.setPanel_poison (p : Nat) (x : Panel) : (s.setPanel p x).poison = s.poison := rfl
@[simp] theorem State.setPanel_fab (p : Nat) (x : Panel) : (s.setPanel p x).fab = s.fab := rfl
@[simp] theorem State.setPanel_tdp (p : Nat) (x : Panel) : (s.setPanel p x).tdp = s.tdp := rfl
@[simp] theorem State.setPanel_pager (p : Nat) (x : Panel) : (s.setPanel p x).pager = s.pager := rfl
@[simp] theorem State.setPanel_swt (p : Nat) (x : Panel) : (s.setPanel p x).swt = s.swt := rfl
@[simp] theorem State.setPanel_esc (p : Nat) (x : Panel) : (s.setPanel p x).esc = s.esc := rfl
@[simp] theorem State.setPanel_wrk (p : Nat) (x : Panel) : (s.setPanel p x).wrk = s.wrk := rfl
@[simp] theorem State.setPanel_dump (p : Nat) (x : Panel) : (s.setPanel p x).dump = s.dump := rfl
@[simp] theorem State.setPanel_remap (p : Nat) (x : Panel) : (s.setPanel p x).remap = s.remap := rfl
@[simp] theorem State.setPanel_bru (p : Nat) (x : Panel) : (s.setPanel p x).bru = s.bru := rfl
@[simp] theorem State.setPanel_host (p : Nat) (x : Panel) : (s.setPanel p x).host = s.host := rfl
@[simp] theorem State.setPanel_pwr (p : Nat) (x : Panel) : (s.setPanel p x).pwr = s.pwr := rfl
@[simp] theorem State.setPanel_pins (p : Nat) (x : Panel) : (s.setPanel p x).pins = s.pins := rfl
@[simp] theorem State.setPanel_wer (p : Nat) (x : Panel) : (s.setPanel p x).wer = s.wer := rfl
@[simp] theorem State.setPanel_sec (p : Nat) (x : Panel) : (s.setPanel p x).sec = s.sec := rfl
@[simp] theorem State.setPanel_wire (p : Nat) (x : Panel) : (s.setPanel p x).wire = s.wire := rfl
@[simp] theorem State.setPanel_out (p : Nat) (x : Panel) : (s.setPanel p x).out = s.out := rfl
@[simp] theorem State.setPanel_fresh (p : Nat) (x : Panel) : (s.setPanel p x).fresh = s.fresh := rfl
@[simp] theorem State.setPanel_pending (p : Nat) (x : Panel) : (s.setPanel p x).pending = s.pending := rfl
@[simp] theorem State.setPort_frame (n : Nat) (x : Port) : (s.setPort n x).frame = s.frame := rfl
@[simp] theorem State.setPort_tickRun (n : Nat) (x : Port) : (s.setPort n x).tickRun = s.tickRun := rfl
@[simp] theorem State.setPort_panels (n : Nat) (x : Port) : (s.setPort n x).panels = s.panels := rfl
@[simp] theorem State.setPort_ctxs (n : Nat) (x : Port) : (s.setPort n x).ctxs = s.ctxs := rfl
@[simp] theorem State.setPort_slots (n : Nat) (x : Port) : (s.setPort n x).slots = s.slots := rfl
@[simp] theorem State.setPort_mem (n : Nat) (x : Port) : (s.setPort n x).mem = s.mem := rfl
@[simp] theorem State.setPort_poison (n : Nat) (x : Port) : (s.setPort n x).poison = s.poison := rfl
@[simp] theorem State.setPort_tdp (n : Nat) (x : Port) : (s.setPort n x).tdp = s.tdp := rfl
@[simp] theorem State.setPort_pager (n : Nat) (x : Port) : (s.setPort n x).pager = s.pager := rfl
@[simp] theorem State.setPort_swt (n : Nat) (x : Port) : (s.setPort n x).swt = s.swt := rfl
@[simp] theorem State.setPort_esc (n : Nat) (x : Port) : (s.setPort n x).esc = s.esc := rfl
@[simp] theorem State.setPort_wrk (n : Nat) (x : Port) : (s.setPort n x).wrk = s.wrk := rfl
@[simp] theorem State.setPort_dump (n : Nat) (x : Port) : (s.setPort n x).dump = s.dump := rfl
@[simp] theorem State.setPort_remap (n : Nat) (x : Port) : (s.setPort n x).remap = s.remap := rfl
@[simp] theorem State.setPort_bru (n : Nat) (x : Port) : (s.setPort n x).bru = s.bru := rfl
@[simp] theorem State.setPort_host (n : Nat) (x : Port) : (s.setPort n x).host = s.host := rfl
@[simp] theorem State.setPort_pwr (n : Nat) (x : Port) : (s.setPort n x).pwr = s.pwr := rfl
@[simp] theorem State.setPort_pins (n : Nat) (x : Port) : (s.setPort n x).pins = s.pins := rfl
@[simp] theorem State.setPort_wer (n : Nat) (x : Port) : (s.setPort n x).wer = s.wer := rfl
@[simp] theorem State.setPort_sec (n : Nat) (x : Port) : (s.setPort n x).sec = s.sec := rfl
@[simp] theorem State.setPort_wire (n : Nat) (x : Port) : (s.setPort n x).wire = s.wire := rfl
@[simp] theorem State.setPort_out (n : Nat) (x : Port) : (s.setPort n x).out = s.out := rfl
@[simp] theorem State.setPort_fresh (n : Nat) (x : Port) : (s.setPort n x).fresh = s.fresh := rfl
@[simp] theorem State.setPort_pending (n : Nat) (x : Port) : (s.setPort n x).pending = s.pending := rfl
@[simp] theorem State.setTxn_frame (f : Nat) (x : Txn) : (s.setTxn f x).frame = s.frame := rfl
@[simp] theorem State.setTxn_tickRun (f : Nat) (x : Txn) : (s.setTxn f x).tickRun = s.tickRun := rfl
@[simp] theorem State.setTxn_panels (f : Nat) (x : Txn) : (s.setTxn f x).panels = s.panels := rfl
@[simp] theorem State.setTxn_ctxs (f : Nat) (x : Txn) : (s.setTxn f x).ctxs = s.ctxs := rfl
@[simp] theorem State.setTxn_slots (f : Nat) (x : Txn) : (s.setTxn f x).slots = s.slots := rfl
@[simp] theorem State.setTxn_mem (f : Nat) (x : Txn) : (s.setTxn f x).mem = s.mem := rfl
@[simp] theorem State.setTxn_poison (f : Nat) (x : Txn) : (s.setTxn f x).poison = s.poison := rfl
@[simp] theorem State.setTxn_fab (f : Nat) (x : Txn) : (s.setTxn f x).fab = s.fab := rfl
@[simp] theorem State.setTxn_tdp (f : Nat) (x : Txn) : (s.setTxn f x).tdp = s.tdp := rfl
@[simp] theorem State.setTxn_pager (f : Nat) (x : Txn) : (s.setTxn f x).pager = s.pager := rfl
@[simp] theorem State.setTxn_swt (f : Nat) (x : Txn) : (s.setTxn f x).swt = s.swt := rfl
@[simp] theorem State.setTxn_esc (f : Nat) (x : Txn) : (s.setTxn f x).esc = s.esc := rfl
@[simp] theorem State.setTxn_wrk (f : Nat) (x : Txn) : (s.setTxn f x).wrk = s.wrk := rfl
@[simp] theorem State.setTxn_dump (f : Nat) (x : Txn) : (s.setTxn f x).dump = s.dump := rfl
@[simp] theorem State.setTxn_remap (f : Nat) (x : Txn) : (s.setTxn f x).remap = s.remap := rfl
@[simp] theorem State.setTxn_bru (f : Nat) (x : Txn) : (s.setTxn f x).bru = s.bru := rfl
@[simp] theorem State.setTxn_pwr (f : Nat) (x : Txn) : (s.setTxn f x).pwr = s.pwr := rfl
@[simp] theorem State.setTxn_pins (f : Nat) (x : Txn) : (s.setTxn f x).pins = s.pins := rfl
@[simp] theorem State.setTxn_wer (f : Nat) (x : Txn) : (s.setTxn f x).wer = s.wer := rfl
@[simp] theorem State.setTxn_sec (f : Nat) (x : Txn) : (s.setTxn f x).sec = s.sec := rfl
@[simp] theorem State.setTxn_wire (f : Nat) (x : Txn) : (s.setTxn f x).wire = s.wire := rfl
@[simp] theorem State.setTxn_out (f : Nat) (x : Txn) : (s.setTxn f x).out = s.out := rfl
@[simp] theorem State.setTxn_fresh (f : Nat) (x : Txn) : (s.setTxn f x).fresh = s.fresh := rfl
@[simp] theorem State.setTxn_pending (f : Nat) (x : Txn) : (s.setTxn f x).pending = s.pending := rfl
@[simp] theorem State.sendFrames_frame (l : List Frame) : (s.sendFrames l).frame = s.frame := rfl
@[simp] theorem State.sendFrames_tickRun (l : List Frame) : (s.sendFrames l).tickRun = s.tickRun := rfl
@[simp] theorem State.sendFrames_panels (l : List Frame) : (s.sendFrames l).panels = s.panels := rfl
@[simp] theorem State.sendFrames_ctxs (l : List Frame) : (s.sendFrames l).ctxs = s.ctxs := rfl
@[simp] theorem State.sendFrames_slots (l : List Frame) : (s.sendFrames l).slots = s.slots := rfl
@[simp] theorem State.sendFrames_mem (l : List Frame) : (s.sendFrames l).mem = s.mem := rfl
@[simp] theorem State.sendFrames_poison (l : List Frame) : (s.sendFrames l).poison = s.poison := rfl
@[simp] theorem State.sendFrames_fab (l : List Frame) : (s.sendFrames l).fab = s.fab := rfl
@[simp] theorem State.sendFrames_tdp (l : List Frame) : (s.sendFrames l).tdp = s.tdp := rfl
@[simp] theorem State.sendFrames_pager (l : List Frame) : (s.sendFrames l).pager = s.pager := rfl
@[simp] theorem State.sendFrames_swt (l : List Frame) : (s.sendFrames l).swt = s.swt := rfl
@[simp] theorem State.sendFrames_esc (l : List Frame) : (s.sendFrames l).esc = s.esc := rfl
@[simp] theorem State.sendFrames_wrk (l : List Frame) : (s.sendFrames l).wrk = s.wrk := rfl
@[simp] theorem State.sendFrames_dump (l : List Frame) : (s.sendFrames l).dump = s.dump := rfl
@[simp] theorem State.sendFrames_remap (l : List Frame) : (s.sendFrames l).remap = s.remap := rfl
@[simp] theorem State.sendFrames_bru (l : List Frame) : (s.sendFrames l).bru = s.bru := rfl
@[simp] theorem State.sendFrames_host (l : List Frame) : (s.sendFrames l).host = s.host := rfl
@[simp] theorem State.sendFrames_pwr (l : List Frame) : (s.sendFrames l).pwr = s.pwr := rfl
@[simp] theorem State.sendFrames_pins (l : List Frame) : (s.sendFrames l).pins = s.pins := rfl
@[simp] theorem State.sendFrames_wer (l : List Frame) : (s.sendFrames l).wer = s.wer := rfl
@[simp] theorem State.sendFrames_sec (l : List Frame) : (s.sendFrames l).sec = s.sec := rfl
@[simp] theorem State.sendFrames_out (l : List Frame) : (s.sendFrames l).out = s.out := rfl
@[simp] theorem State.sendFrames_fresh (l : List Frame) : (s.sendFrames l).fresh = s.fresh := rfl
@[simp] theorem State.sendFrames_pending (l : List Frame) : (s.sendFrames l).pending = s.pending := rfl
@[simp] theorem State.emit_frame (o : Out) : (s.emit o).frame = s.frame := rfl
@[simp] theorem State.emit_tickRun (o : Out) : (s.emit o).tickRun = s.tickRun := rfl
@[simp] theorem State.emit_panels (o : Out) : (s.emit o).panels = s.panels := rfl
@[simp] theorem State.emit_ctxs (o : Out) : (s.emit o).ctxs = s.ctxs := rfl
@[simp] theorem State.emit_slots (o : Out) : (s.emit o).slots = s.slots := rfl
@[simp] theorem State.emit_mem (o : Out) : (s.emit o).mem = s.mem := rfl
@[simp] theorem State.emit_poison (o : Out) : (s.emit o).poison = s.poison := rfl
@[simp] theorem State.emit_fab (o : Out) : (s.emit o).fab = s.fab := rfl
@[simp] theorem State.emit_tdp (o : Out) : (s.emit o).tdp = s.tdp := rfl
@[simp] theorem State.emit_pager (o : Out) : (s.emit o).pager = s.pager := rfl
@[simp] theorem State.emit_swt (o : Out) : (s.emit o).swt = s.swt := rfl
@[simp] theorem State.emit_esc (o : Out) : (s.emit o).esc = s.esc := rfl
@[simp] theorem State.emit_wrk (o : Out) : (s.emit o).wrk = s.wrk := rfl
@[simp] theorem State.emit_dump (o : Out) : (s.emit o).dump = s.dump := rfl
@[simp] theorem State.emit_remap (o : Out) : (s.emit o).remap = s.remap := rfl
@[simp] theorem State.emit_bru (o : Out) : (s.emit o).bru = s.bru := rfl
@[simp] theorem State.emit_host (o : Out) : (s.emit o).host = s.host := rfl
@[simp] theorem State.emit_pwr (o : Out) : (s.emit o).pwr = s.pwr := rfl
@[simp] theorem State.emit_pins (o : Out) : (s.emit o).pins = s.pins := rfl
@[simp] theorem State.emit_wer (o : Out) : (s.emit o).wer = s.wer := rfl
@[simp] theorem State.emit_sec (o : Out) : (s.emit o).sec = s.sec := rfl
@[simp] theorem State.emit_wire (o : Out) : (s.emit o).wire = s.wire := rfl
@[simp] theorem State.emit_fresh (o : Out) : (s.emit o).fresh = s.fresh := rfl
@[simp] theorem State.emit_pending (o : Out) : (s.emit o).pending = s.pending := rfl
@[simp] theorem State.release_frame (f v : Nat) : (s.release f v).frame = s.frame := rfl
@[simp] theorem State.release_tickRun (f v : Nat) : (s.release f v).tickRun = s.tickRun := rfl
@[simp] theorem State.release_panels (f v : Nat) : (s.release f v).panels = s.panels := rfl
@[simp] theorem State.release_ctxs (f v : Nat) : (s.release f v).ctxs = s.ctxs := rfl
@[simp] theorem State.release_slots (f v : Nat) : (s.release f v).slots = s.slots := rfl
@[simp] theorem State.release_mem (f v : Nat) : (s.release f v).mem = s.mem := rfl
@[simp] theorem State.release_poison (f v : Nat) : (s.release f v).poison = s.poison := rfl
@[simp] theorem State.release_fab (f v : Nat) : (s.release f v).fab = s.fab := rfl
@[simp] theorem State.release_tdp (f v : Nat) : (s.release f v).tdp = s.tdp := rfl
@[simp] theorem State.release_pager (f v : Nat) : (s.release f v).pager = s.pager := rfl
@[simp] theorem State.release_swt (f v : Nat) : (s.release f v).swt = s.swt := rfl
@[simp] theorem State.release_esc (f v : Nat) : (s.release f v).esc = s.esc := rfl
@[simp] theorem State.release_wrk (f v : Nat) : (s.release f v).wrk = s.wrk := rfl
@[simp] theorem State.release_dump (f v : Nat) : (s.release f v).dump = s.dump := rfl
@[simp] theorem State.release_remap (f v : Nat) : (s.release f v).remap = s.remap := rfl
@[simp] theorem State.release_bru (f v : Nat) : (s.release f v).bru = s.bru := rfl
@[simp] theorem State.release_pwr (f v : Nat) : (s.release f v).pwr = s.pwr := rfl
@[simp] theorem State.release_pins (f v : Nat) : (s.release f v).pins = s.pins := rfl
@[simp] theorem State.release_wer (f v : Nat) : (s.release f v).wer = s.wer := rfl
@[simp] theorem State.release_sec (f v : Nat) : (s.release f v).sec = s.sec := rfl
@[simp] theorem State.release_wire (f v : Nat) : (s.release f v).wire = s.wire := rfl
@[simp] theorem State.release_out (f v : Nat) : (s.release f v).out = s.out := rfl
@[simp] theorem State.release_fresh (f v : Nat) : (s.release f v).fresh = s.fresh := rfl
@[simp] theorem State.release_pending (f v : Nat) : (s.release f v).pending = s.pending := rfl
@[simp] theorem State.err_frame (b i k : Nat) : (s.err b i k).frame = s.frame := rfl
@[simp] theorem State.err_tickRun (b i k : Nat) : (s.err b i k).tickRun = s.tickRun := rfl
@[simp] theorem State.err_panels (b i k : Nat) : (s.err b i k).panels = s.panels := rfl
@[simp] theorem State.err_ctxs (b i k : Nat) : (s.err b i k).ctxs = s.ctxs := rfl
@[simp] theorem State.err_slots (b i k : Nat) : (s.err b i k).slots = s.slots := rfl
@[simp] theorem State.err_mem (b i k : Nat) : (s.err b i k).mem = s.mem := rfl
@[simp] theorem State.err_poison (b i k : Nat) : (s.err b i k).poison = s.poison := rfl
@[simp] theorem State.err_fab (b i k : Nat) : (s.err b i k).fab = s.fab := rfl
@[simp] theorem State.err_tdp (b i k : Nat) : (s.err b i k).tdp = s.tdp := rfl
@[simp] theorem State.err_pager (b i k : Nat) : (s.err b i k).pager = s.pager := rfl
@[simp] theorem State.err_swt (b i k : Nat) : (s.err b i k).swt = s.swt := rfl
@[simp] theorem State.err_esc (b i k : Nat) : (s.err b i k).esc = s.esc := rfl
@[simp] theorem State.err_wrk (b i k : Nat) : (s.err b i k).wrk = s.wrk := rfl
@[simp] theorem State.err_dump (b i k : Nat) : (s.err b i k).dump = s.dump := rfl
@[simp] theorem State.err_remap (b i k : Nat) : (s.err b i k).remap = s.remap := rfl
@[simp] theorem State.err_bru (b i k : Nat) : (s.err b i k).bru = s.bru := rfl
@[simp] theorem State.err_pwr (b i k : Nat) : (s.err b i k).pwr = s.pwr := rfl
@[simp] theorem State.err_pins (b i k : Nat) : (s.err b i k).pins = s.pins := rfl
@[simp] theorem State.err_wer (b i k : Nat) : (s.err b i k).wer = s.wer := rfl
@[simp] theorem State.err_sec (b i k : Nat) : (s.err b i k).sec = s.sec := rfl
@[simp] theorem State.err_wire (b i k : Nat) : (s.err b i k).wire = s.wire := rfl
@[simp] theorem State.err_out (b i k : Nat) : (s.err b i k).out = s.out := rfl
@[simp] theorem State.err_fresh (b i k : Nat) : (s.err b i k).fresh = s.fresh := rfl
@[simp] theorem State.err_pending (b i k : Nat) : (s.err b i k).pending = s.pending := rfl
@[simp] theorem State.access_frame (b i : Nat) : (s.access b i).frame = s.frame := rfl
@[simp] theorem State.access_tickRun (b i : Nat) : (s.access b i).tickRun = s.tickRun := rfl
@[simp] theorem State.access_panels (b i : Nat) : (s.access b i).panels = s.panels := rfl
@[simp] theorem State.access_ctxs (b i : Nat) : (s.access b i).ctxs = s.ctxs := rfl
@[simp] theorem State.access_slots (b i : Nat) : (s.access b i).slots = s.slots := rfl
@[simp] theorem State.access_mem (b i : Nat) : (s.access b i).mem = s.mem := rfl
@[simp] theorem State.access_poison (b i : Nat) : (s.access b i).poison = s.poison := rfl
@[simp] theorem State.access_fab (b i : Nat) : (s.access b i).fab = s.fab := rfl
@[simp] theorem State.access_tdp (b i : Nat) : (s.access b i).tdp = s.tdp := rfl
@[simp] theorem State.access_pager (b i : Nat) : (s.access b i).pager = s.pager := rfl
@[simp] theorem State.access_swt (b i : Nat) : (s.access b i).swt = s.swt := rfl
@[simp] theorem State.access_esc (b i : Nat) : (s.access b i).esc = s.esc := rfl
@[simp] theorem State.access_wrk (b i : Nat) : (s.access b i).wrk = s.wrk := rfl
@[simp] theorem State.access_dump (b i : Nat) : (s.access b i).dump = s.dump := rfl
@[simp] theorem State.access_remap (b i : Nat) : (s.access b i).remap = s.remap := rfl
@[simp] theorem State.access_bru (b i : Nat) : (s.access b i).bru = s.bru := rfl
@[simp] theorem State.access_pwr (b i : Nat) : (s.access b i).pwr = s.pwr := rfl
@[simp] theorem State.access_pins (b i : Nat) : (s.access b i).pins = s.pins := rfl
@[simp] theorem State.access_wer (b i : Nat) : (s.access b i).wer = s.wer := rfl
@[simp] theorem State.access_sec (b i : Nat) : (s.access b i).sec = s.sec := rfl
@[simp] theorem State.access_wire (b i : Nat) : (s.access b i).wire = s.wire := rfl
@[simp] theorem State.access_out (b i : Nat) : (s.access b i).out = s.out := rfl
@[simp] theorem State.access_fresh (b i : Nat) : (s.access b i).fresh = s.fresh := rfl
@[simp] theorem State.access_pending (b i : Nat) : (s.access b i).pending = s.pending := rfl
@[simp] theorem State.draw_frame : s.draw.2.frame = s.frame := rfl
@[simp] theorem State.draw_tickRun : s.draw.2.tickRun = s.tickRun := rfl
@[simp] theorem State.draw_panels : s.draw.2.panels = s.panels := rfl
@[simp] theorem State.draw_ctxs : s.draw.2.ctxs = s.ctxs := rfl
@[simp] theorem State.draw_slots : s.draw.2.slots = s.slots := rfl
@[simp] theorem State.draw_mem : s.draw.2.mem = s.mem := rfl
@[simp] theorem State.draw_poison : s.draw.2.poison = s.poison := rfl
@[simp] theorem State.draw_fab : s.draw.2.fab = s.fab := rfl
@[simp] theorem State.draw_tdp : s.draw.2.tdp = s.tdp := rfl
@[simp] theorem State.draw_pager : s.draw.2.pager = s.pager := rfl
@[simp] theorem State.draw_swt : s.draw.2.swt = s.swt := rfl
@[simp] theorem State.draw_esc : s.draw.2.esc = s.esc := rfl
@[simp] theorem State.draw_wrk : s.draw.2.wrk = s.wrk := rfl
@[simp] theorem State.draw_dump : s.draw.2.dump = s.dump := rfl
@[simp] theorem State.draw_remap : s.draw.2.remap = s.remap := rfl
@[simp] theorem State.draw_bru : s.draw.2.bru = s.bru := rfl
@[simp] theorem State.draw_host : s.draw.2.host = s.host := rfl
@[simp] theorem State.draw_pwr : s.draw.2.pwr = s.pwr := rfl
@[simp] theorem State.draw_pins : s.draw.2.pins = s.pins := rfl
@[simp] theorem State.draw_wer : s.draw.2.wer = s.wer := rfl
@[simp] theorem State.draw_sec : s.draw.2.sec = s.sec := rfl
@[simp] theorem State.draw_wire : s.draw.2.wire = s.wire := rfl
@[simp] theorem State.draw_out : s.draw.2.out = s.out := rfl
@[simp] theorem State.draw_pending : s.draw.2.pending = s.pending := rfl

/-! ### What an update of a unit leaves to read -/

@[simp] theorem State.ctx_setCtx (c : Nat) (x : Ctx) (h : c < 16) : (s.setCtx c x).ctx c = x := by simp [State.ctx, State.setCtx, h]
@[simp] theorem State.ctx_setCtx_ne (c d : Nat) (x : Ctx) (h : c ≠ d) : (s.setCtx c x).ctx d = s.ctx d := by
  simp [State.ctx, State.setCtx, h]
@[simp] theorem State.slot_setSlot (n : Nat) (x : Slot) (h : n < 64) : (s.setSlot n x).slot n = x := by simp [State.slot, State.setSlot, h]
@[simp] theorem State.slot_setSlot_ne (n m : Nat) (x : Slot) (h : n ≠ m) : (s.setSlot n x).slot m = s.slot m := by
  simp [State.slot, State.setSlot, h]
@[simp] theorem State.panel_setPanel (p : Nat) (x : Panel) (h : p < 32) : (s.setPanel p x).panel p = x := by simp [State.panel, State.setPanel, h]
@[simp] theorem State.panel_setPanel_ne (p q : Nat) (x : Panel) (h : p ≠ q) : (s.setPanel p x).panel q = s.panel q := by
  simp [State.panel, State.setPanel, h]
@[simp] theorem State.port_setPort (n : Nat) (x : Port) (h : n < 32) : (s.setPort n x).port n = x := by simp [State.port, State.setPort, h]
@[simp] theorem State.port_setPort_ne (n m : Nat) (x : Port) (h : n ≠ m) : (s.setPort n x).port m = s.port m := by
  simp [State.port, State.setPort, h]
@[simp] theorem State.txn_setTxn (f : Nat) (x : Txn) (h : f < 16) : (s.setTxn f x).txn f = x := by simp [State.txn, State.setTxn, h]
@[simp] theorem State.txn_setTxn_ne (f g : Nat) (x : Txn) (h : f ≠ g) : (s.setTxn f x).txn g = s.txn g := by
  simp [State.txn, State.setTxn, h]
@[simp] theorem State.out_emit (o : Out) : (s.emit o).out = s.out ++ [o] := rfl
@[simp] theorem State.wire_sendFrames (l : List Frame) : (s.sendFrames l).wire = s.wire ++ l := rfl
@[simp] theorem State.slot_setCtx (c n : Nat) (x : Ctx) : (s.setCtx c x).slot n = s.slot n := rfl
@[simp] theorem State.ctx_setSlot (c n : Nat) (x : Slot) : (s.setSlot n x).ctx c = s.ctx c := rfl
@[simp] theorem State.panel_setCtx (c p : Nat) (x : Ctx) : (s.setCtx c x).panel p = s.panel p := rfl
@[simp] theorem State.panel_setSlot (n p : Nat) (x : Slot) : (s.setSlot n x).panel p = s.panel p := rfl
@[simp] theorem State.ctx_setPanel (c p : Nat) (x : Panel) : (s.setPanel p x).ctx c = s.ctx c := rfl
@[simp] theorem State.slot_setPanel (n p : Nat) (x : Panel) : (s.setPanel p x).slot n = s.slot n := rfl
@[simp] theorem State.ctx_emit (c : Nat) (o : Out) : (s.emit o).ctx c = s.ctx c := rfl
@[simp] theorem State.slot_emit (n : Nat) (o : Out) : (s.emit o).slot n = s.slot n := rfl
@[simp] theorem State.panel_emit (p : Nat) (o : Out) : (s.emit o).panel p = s.panel p := rfl
@[simp] theorem State.port_emit (n : Nat) (o : Out) : (s.emit o).port n = s.port n := rfl

/-! ### The log, interrupts and event registers, said whole -/

/-- All that a log entry does: the entry in the ring, the counters, and PF0's vector 1 for severity 3 and above (R418, R445). -/
theorem State.log_eq (e : Ev) :
    s.log e = { s with
      wrk := { s.wrk with ring := tset 0 s.wrk.ring (s.wrk.seq.toNat % 32768)
                            (e.entry (s.ctx e.ctx).gen.toNat s.wrk.seq.toNat (s.esc.active ≠ 0) (Config.freeNat (s.fresh * 2 ^ 32)))
                          seq := s.wrk.seq + 1 }
      fresh := s.fresh + 1
      out := if 3 ≤ e.sev then s.out ++ [.msix 0 1] else s.out } := by
  unfold State.log State.fire State.emit
  split <;> rfl
/-- All that a level-held event does: its vector is raised once (R445). -/
theorem State.hold_eq (f v : Nat) :
    s.hold f v = { s with host := { s.host with msix := if s.host.msix.contains (f, v) then s.host.msix else s.host.msix ++ [(f, v)] }
                          out := if s.host.msix.contains (f, v) then s.out else s.out ++ [.msix f v] } := by
  unfold State.hold
  split <;> rfl

@[simp] theorem State.log_frame (e : Ev) : (s.log e).frame = s.frame := by rw [State.log_eq]
@[simp] theorem State.log_tickRun (e : Ev) : (s.log e).tickRun = s.tickRun := by rw [State.log_eq]
@[simp] theorem State.log_panels (e : Ev) : (s.log e).panels = s.panels := by rw [State.log_eq]
@[simp] theorem State.log_ctxs (e : Ev) : (s.log e).ctxs = s.ctxs := by rw [State.log_eq]
@[simp] theorem State.log_slots (e : Ev) : (s.log e).slots = s.slots := by rw [State.log_eq]
@[simp] theorem State.log_mem (e : Ev) : (s.log e).mem = s.mem := by rw [State.log_eq]
@[simp] theorem State.log_poison (e : Ev) : (s.log e).poison = s.poison := by rw [State.log_eq]
@[simp] theorem State.log_fab (e : Ev) : (s.log e).fab = s.fab := by rw [State.log_eq]
@[simp] theorem State.log_tdp (e : Ev) : (s.log e).tdp = s.tdp := by rw [State.log_eq]
@[simp] theorem State.log_pager (e : Ev) : (s.log e).pager = s.pager := by rw [State.log_eq]
@[simp] theorem State.log_swt (e : Ev) : (s.log e).swt = s.swt := by rw [State.log_eq]
@[simp] theorem State.log_esc (e : Ev) : (s.log e).esc = s.esc := by rw [State.log_eq]
@[simp] theorem State.log_dump (e : Ev) : (s.log e).dump = s.dump := by rw [State.log_eq]
@[simp] theorem State.log_remap (e : Ev) : (s.log e).remap = s.remap := by rw [State.log_eq]
@[simp] theorem State.log_bru (e : Ev) : (s.log e).bru = s.bru := by rw [State.log_eq]
@[simp] theorem State.log_host (e : Ev) : (s.log e).host = s.host := by rw [State.log_eq]
@[simp] theorem State.log_pwr (e : Ev) : (s.log e).pwr = s.pwr := by rw [State.log_eq]
@[simp] theorem State.log_pins (e : Ev) : (s.log e).pins = s.pins := by rw [State.log_eq]
@[simp] theorem State.log_wer (e : Ev) : (s.log e).wer = s.wer := by rw [State.log_eq]
@[simp] theorem State.log_sec (e : Ev) : (s.log e).sec = s.sec := by rw [State.log_eq]
@[simp] theorem State.log_wire (e : Ev) : (s.log e).wire = s.wire := by rw [State.log_eq]
@[simp] theorem State.log_pending (e : Ev) : (s.log e).pending = s.pending := by rw [State.log_eq]
@[simp] theorem State.log_seq (e : Ev) : (s.log e).wrk.seq = s.wrk.seq + 1 := by rw [State.log_eq]
@[simp] theorem State.hold_frame (f v : Nat) : (s.hold f v).frame = s.frame := by rw [State.hold_eq]
@[simp] theorem State.hold_tickRun (f v : Nat) : (s.hold f v).tickRun = s.tickRun := by rw [State.hold_eq]
@[simp] theorem State.hold_panels (f v : Nat) : (s.hold f v).panels = s.panels := by rw [State.hold_eq]
@[simp] theorem State.hold_ctxs (f v : Nat) : (s.hold f v).ctxs = s.ctxs := by rw [State.hold_eq]
@[simp] theorem State.hold_slots (f v : Nat) : (s.hold f v).slots = s.slots := by rw [State.hold_eq]
@[simp] theorem State.hold_mem (f v : Nat) : (s.hold f v).mem = s.mem := by rw [State.hold_eq]
@[simp] theorem State.hold_poison (f v : Nat) : (s.hold f v).poison = s.poison := by rw [State.hold_eq]
@[simp] theorem State.hold_fab (f v : Nat) : (s.hold f v).fab = s.fab := by rw [State.hold_eq]
@[simp] theorem State.hold_tdp (f v : Nat) : (s.hold f v).tdp = s.tdp := by rw [State.hold_eq]
@[simp] theorem State.hold_pager (f v : Nat) : (s.hold f v).pager = s.pager := by rw [State.hold_eq]
@[simp] theorem State.hold_swt (f v : Nat) : (s.hold f v).swt = s.swt := by rw [State.hold_eq]
@[simp] theorem State.hold_esc (f v : Nat) : (s.hold f v).esc = s.esc := by rw [State.hold_eq]
@[simp] theorem State.hold_wrk (f v : Nat) : (s.hold f v).wrk = s.wrk := by rw [State.hold_eq]
@[simp] theorem State.hold_dump (f v : Nat) : (s.hold f v).dump = s.dump := by rw [State.hold_eq]
@[simp] theorem State.hold_remap (f v : Nat) : (s.hold f v).remap = s.remap := by rw [State.hold_eq]
@[simp] theorem State.hold_bru (f v : Nat) : (s.hold f v).bru = s.bru := by rw [State.hold_eq]
@[simp] theorem State.hold_pwr (f v : Nat) : (s.hold f v).pwr = s.pwr := by rw [State.hold_eq]
@[simp] theorem State.hold_pins (f v : Nat) : (s.hold f v).pins = s.pins := by rw [State.hold_eq]
@[simp] theorem State.hold_wer (f v : Nat) : (s.hold f v).wer = s.wer := by rw [State.hold_eq]
@[simp] theorem State.hold_sec (f v : Nat) : (s.hold f v).sec = s.sec := by rw [State.hold_eq]
@[simp] theorem State.hold_wire (f v : Nat) : (s.hold f v).wire = s.wire := by rw [State.hold_eq]
@[simp] theorem State.hold_fresh (f v : Nat) : (s.hold f v).fresh = s.fresh := by rw [State.hold_eq]
@[simp] theorem State.hold_pending (f v : Nat) : (s.hold f v).pending = s.pending := by rw [State.hold_eq]
@[simp] theorem State.pwrSet_frame (b : Nat) : (s.pwrSet b).frame = s.frame := by simp [State.pwrSet]
@[simp] theorem State.pwrSet_tickRun (b : Nat) : (s.pwrSet b).tickRun = s.tickRun := by simp [State.pwrSet]
@[simp] theorem State.pwrSet_panels (b : Nat) : (s.pwrSet b).panels = s.panels := by simp [State.pwrSet]
@[simp] theorem State.pwrSet_ctxs (b : Nat) : (s.pwrSet b).ctxs = s.ctxs := by simp [State.pwrSet]
@[simp] theorem State.pwrSet_slots (b : Nat) : (s.pwrSet b).slots = s.slots := by simp [State.pwrSet]
@[simp] theorem State.pwrSet_mem (b : Nat) : (s.pwrSet b).mem = s.mem := by simp [State.pwrSet]
@[simp] theorem State.pwrSet_poison (b : Nat) : (s.pwrSet b).poison = s.poison := by simp [State.pwrSet]
@[simp] theorem State.pwrSet_fab (b : Nat) : (s.pwrSet b).fab = s.fab := by simp [State.pwrSet]
@[simp] theorem State.pwrSet_tdp (b : Nat) : (s.pwrSet b).tdp = s.tdp := by simp [State.pwrSet]
@[simp] theorem State.pwrSet_pager (b : Nat) : (s.pwrSet b).pager = s.pager := by simp [State.pwrSet]
@[simp] theorem State.pwrSet_swt (b : Nat) : (s.pwrSet b).swt = s.swt := by simp [State.pwrSet]
@[simp] theorem State.pwrSet_esc (b : Nat) : (s.pwrSet b).esc = s.esc := by simp [State.pwrSet]
@[simp] theorem State.pwrSet_wrk (b : Nat) : (s.pwrSet b).wrk = s.wrk := by simp [State.pwrSet]
@[simp] theorem State.pwrSet_dump (b : Nat) : (s.pwrSet b).dump = s.dump := by simp [State.pwrSet]
@[simp] theorem State.pwrSet_remap (b : Nat) : (s.pwrSet b).remap = s.remap := by simp [State.pwrSet]
@[simp] theorem State.pwrSet_bru (b : Nat) : (s.pwrSet b).bru = s.bru := by simp [State.pwrSet]
@[simp] theorem State.pwrSet_wer (b : Nat) : (s.pwrSet b).wer = s.wer := by simp [State.pwrSet]
@[simp] theorem State.pwrSet_sec (b : Nat) : (s.pwrSet b).sec = s.sec := by simp [State.pwrSet]
@[simp] theorem State.pwrSet_wire (b : Nat) : (s.pwrSet b).wire = s.wire := by simp [State.pwrSet]
@[simp] theorem State.pwrSet_fresh (b : Nat) : (s.pwrSet b).fresh = s.fresh := by simp [State.pwrSet]
@[simp] theorem State.pwrSet_pending (b : Nat) : (s.pwrSet b).pending = s.pending := by simp [State.pwrSet]
@[simp] theorem State.pwrSet_event (b : Nat) : (s.pwrSet b).pwr = { s.pwr with event := s.pwr.event ||| BitVec.ofNat 64 b } := by simp [State.pwrSet]
@[simp] theorem State.pwrSet_pins (b : Nat) : (s.pwrSet b).pins = { s.pins with alertLow := true } := by simp [State.pwrSet]

end Sys2Proof.Machine
end

