-- ==== Sys2Proof/Tests/Slice0.lean ====
section
/-! SUPPORT. Checks of the model: well-formedness with an ill-formed command for each check, single steps against values worked out from the
spec, and for each statement of Certificates/Slice0 a state and operands that meet its hypotheses. -/
namespace Sys2Proof.Tests
set_option Elab.async false
open Machine Stated

/-! ### States -/

/-- A module in operation: link up, tick running, power good. -/
def up : State :=
  { State.reset with
    tickRun := true, host := { link := true }, pins := { vin := true, pwrEn := true, pwrGood := true, perst := false }
    pwr := { st := 1, rails := true }, bru := { ready := true, stage := 8 } }
/-- Input power applied, nothing else. -/
def standby : State := { State.reset with pins := { vin := true } }
/-- Power-up waits for the input. -/
def rising : State := { State.reset with pins := { vin := true, pwrEn := true }, bru := { running := true } }
/-- Context 0 of a module in operation. -/
def ctx0 (x : Ctx) : State := { up with ctxs := up.ctxs.set 0 x }
/-- A LIVE context of rank 0 of a job of two ranks; rank 1 has an entry. -/
def liveCtx : Ctx := { st := .live, gen := 5, cfg := { job := 7, grid := 1, ranks := tset 0 [] 1 (BitVec.allOnes 256) } }
/-- That context, LIVE. -/
def live0 : State := ctx0 liveCtx
/-- With a sub-port in service. -/
def serving : State := { live0 with fab := { live0.fab with ports := live0.fab.ports.set 0 (({} : Port).setSub 0 3 0xFF) } }
/-- With rank 1 joined and as `p` says. -/
def peer1 (s : State) (p : Peer) : State := { s with fab := { s.fab with peers := [{ p with ctx := 0, rank := 1 }] } }
/-- With a stream toward rank 1. -/
def stream1 (s : State) (x : Stream) : State := { s with fab := { s.fab with streams := [{ x with ctx := 0, peer := 1 }] } }
/-- Panel 0 as p. -/
def pan0 (s : State) (p : Panel) : State := { s with panels := s.panels.set 0 p }
/-- Panel 0 with one operation in flight that is due. -/
def flying (op : FlyOp) : State := pan0 up { cycle := 130, fly := [{ due := 128, e := 0, pc := 3, tag := 9, op := op }] }
/-- That operation. -/
def fly1 (op : FlyOp) : Fly := { due := 128, e := 0, pc := 3, tag := 9, op := op }

/-! ### Packets -/

/-- A frame on sub-port 0 with header fields (bit, value). -/
def mk (l : List (Nat × Nat)) (pl : List Byte) : Frame :=
  { sub := 0, pkt := Packet.sealCrc { hdr := BitVec.ofNat 512 (sumN (l.map fun x => x.2 * 2 ^ x.1)), payload := pl } }
/-- A packet of a type from rank 1 to rank 0 of the job. -/
def pkt (typ tc : Nat) (l : List (Nat × Nat)) (pl : List Byte) : Frame :=
  mk ([(508, 2), (504, typ), (501, tc), (489, 5), (461, 7), (441, 1)] ++ l) pl
/-- A chunk signal. -/
def sig (kind redid chunk piece count dig : Nat) : Frame := pkt 1 4 [(203, 9), (273, redid), (253, chunk)] (signalPayload kind piece count dig)

/-! ### Well-formed commands -/

theorem test_wf_units : Instr.wf (.rowWordIssue 31) = true ∧ Instr.wf (.rowWordIssue 32) = false ∧ Instr.wf (.operandReadArrival ⟨0, 2 ^ 32⟩) = false
    ∧ Instr.wf (.productVisible 32) = false ∧ Instr.wf (.drainEntryArrival 32) = false ∧ Instr.wf (.preloadVisible 32) = false
    ∧ Instr.wf (.neighbourAddVisible 32) = false ∧ Instr.wf (.partialSendArrival 32) = false ∧ Instr.wf (.elementResultPush 32) = false
    ∧ Instr.wf (.normFinishSettle 32) = false ∧ Instr.wf (.bHalfReady 32) = false ∧ Instr.wf (.writeTurnaroundEnd 32) = false
    ∧ Instr.wf (.residueCheck 32) = false ∧ Instr.wf (.shadowSwatch 32 false 0 0) = false ∧ Instr.wf (.crossSwatch 0 false 16 0 0) = false
    ∧ Instr.wf (.writeback 32) = false ∧ Instr.wf (.windowStage 0 64 0 0) = false ∧ Instr.wf (.engineReset 0 16) = false
    ∧ Instr.wf (.panelReset 32) = false ∧ Instr.wf (.partitionReset 2) = false ∧ Instr.wf (.hardwareFault (.engine 32 0)) = false := by decide +kernel
theorem test_wf_slots_and_contexts : Instr.wf (.admissionEnd 64) = false ∧ Instr.wf (.updateProgramRun 0 (2 ^ 20)) = false
    ∧ Instr.wf (.gradientNormStart 16) = false ∧ Instr.wf (.sealVoteIssue 16) = false ∧ Instr.wf (.replayStart 64) = false
    ∧ Instr.wf (.receiptKeyReady 32) = false ∧ Instr.wf (.epochEnd 64 0) = false ∧ Instr.wf (.anchorAgreementStart 16 0 0) = false
    ∧ Instr.wf (.shareEndSend 0 0 0 (2 ^ 16)) = false ∧ Instr.wf (.pieceDrain 0 (2 ^ 20) 0 0) = false ∧ Instr.wf (.collTaskComplete 64 0) = false
    ∧ Instr.wf (.moveComplete 64 0) = false ∧ Instr.wf (.pageEvict 0 (some (2 ^ 16))) = false ∧ Instr.wf (.pageRecall 16) = false
    ∧ Instr.wf (.arm 64 0 false) = false ∧ Instr.wf (.cancel 64) = false ∧ Instr.wf (.create 0 16 false 0) = false ∧ Instr.wf (.teardown 16) = false
    ∧ Instr.wf (.teardownDrainComplete 16) = false ∧ Instr.wf (.teardownTimeout 16) = false ∧ Instr.wf (.tensorCreate 16 0) = false
    ∧ Instr.wf (.tensorModify 16 0) = false ∧ Instr.wf (.tensorDestroy 0 (2 ^ 32)) = false ∧ Instr.wf (.tensorRead 0 (2 ^ 32)) = false
    ∧ Instr.wf (.orphanDiscard 16) = false ∧ Instr.wf (.contextReset 16) = false ∧ Instr.wf (.flrVf 16) = false ∧ Instr.wf (.adGo 16) = false
    ∧ Instr.wf (.adoptionPullRequest 0 0 (2 ^ 32)) = false ∧ Instr.wf (.hostSpillRegionUnreachable 16) = false := by decide +kernel
theorem test_wf_memory : Instr.wf (.uncorrectableError (.hbm 0 (2 ^ 40))) = false ∧ Instr.wf (.uncorrectableError (.sram 0 0 16)) = false
    ∧ Instr.wf (.uncorrectableError (.skein 0 0 64 0)) = false ∧ Instr.wf (.uncorrectableError (.queue 0 0 8 0)) = false
    ∧ Instr.wf (.uncorrectableError (.bHalf 0 0 2 0)) = false ∧ Instr.wf (.uncorrectableError (.anchor 0 0 0 4)) = false
    ∧ Instr.wf (.uncorrectableError (.tidepool 16 0 0 0)) = false ∧ Instr.wf (.uncorrectableError (.hbm 15 0)) = true := by decide +kernel
theorem test_wf_frames : Instr.wf (.raise (mk [] [])) = true
    ∧ ([.stopNotice, .swashPacket, .lsDataRx, .ackRx, .joinRx, .joinAckRx, .resettingRx, .probeRx, .raise, .climb, .shareEnd, .grant, .anchorReport,
        .agreedAnchor, .pageData, .twinDelta, .twinDeltaClose, .twinEcho] : List (Frame → Instr)).all (fun c => !(Instr.wf (c { sub := 256, pkt := {} }))) = true := by decide +kernel
theorem test_wf_ports : Instr.wf (.arpRequest 256 0) = false ∧ Instr.wf (.neighbourSolicitation 0 (2 ^ 128)) = false ∧ Instr.wf (.pfcPauseFrame 32 0) = false
    ∧ Instr.wf (.foreignFrameDrop 256) = false ∧ Instr.wf (.retransmitTimerExpiry 0 0 7 0) = false ∧ Instr.wf (.ackDelayExpiry 0 (2 ^ 16) 0) = false
    ∧ Instr.wf (.joinRetry 16 0) = false ∧ Instr.wf (.probeTimer 16 0) = false ∧ Instr.wf (.holdExpiry 16 0) = false
    ∧ Instr.wf (.congestionDecay 0 0 7) = false ∧ Instr.wf (.congestionIncrease 0 0 7) = false ∧ Instr.wf (.laneSignalLoss 0 8) = false
    ∧ Instr.wf (.fecErrorBurst 32 0) = false ∧ Instr.wf (.laserFailure 0 8) = false ∧ Instr.wf (.laserWear 0 8) = false
    ∧ Instr.wf (.retrainEnd 0 8 0) = false ∧ Instr.wf (.excludedRetry 0 8) = false ∧ Instr.wf (.retrain 0 32) = false := by decide +kernel
theorem test_wf_host : Instr.wf (.tideTick (2 ^ 16)) = false ∧ Instr.wf (.throttleWindow 0 256 0) = false ∧ Instr.wf (.txnBegin 16) = false
    ∧ Instr.wf (.txnCommit 16) = false ∧ Instr.wf (.txnRollback 16) = false ∧ Instr.wf (.registerWrite 0 (.addr 2) .both 0) = false
    ∧ Instr.wf (.registerWrite 0 (.name ⟨0, 0, 0⟩) .both 0) = false ∧ Instr.wf (.badRegisterAccess 16 0 false) = false ∧ Instr.wf (.errClear 16 0 0) = false
    ∧ Instr.wf (.escEventClear 16 0) = false ∧ Instr.wf (.apertureDataAccess 16 none) = false ∧ Instr.wf (.bar2Write 0 (2 ^ 40) []) = false
    ∧ Instr.wf (.bar2Read 0 0 4097) = false ∧ Instr.wf (.wearSample 0 [⟨3, 0, 0, 0, 0, 0⟩]) = false ∧ Instr.wf (.mailboxGo (2 ^ 14)) = false
    ∧ Instr.wf (.getVersion 3) = false ∧ Instr.wf (.getCert 0 256 0 0) = false ∧ Instr.wf (.getMeasurements 0 []) = false ∧ Instr.wf (.getLeaves 3) = false
    ∧ Instr.wf (.pldmSensorRequest 256) = false ∧ Instr.wf (.inputPowerApplied (2 ^ 17)) = false ∧ Instr.wf (.inputQualified (2 ^ 17)) = false
    ∧ Instr.wf (.doeDiscovery 256) = false ∧ Instr.wf (.dStateChange 16 true) = false ∧ Instr.wf (.resetComplete ⟨true, []⟩ (2 ^ 32)) = false
    ∧ Instr.wf (.bringupStageEnd { digests := [(5, 0)] }) = false := by decide +kernel

/-! ### Values worked out from the spec -/

/-- No row of the table has bits. -/
theorem test_no_word_decodes : decodeTableWord 0 0 = none ∧ decodeTableWord 64 5 = none := by decide
/-- CRC-32C of "123456789" (R322 names the polynomial): 0xE3069283. -/
theorem test_crc32c : crc32c [0x31, 0x32, 0x33, 0x34, 0x35, 0x36, 0x37, 0x38, 0x39] = 0xE3069283 := by decide +kernel
/-- SHAKE256 of the empty message begins 46 B9 DD 2B (FIPS 202, R277). -/
theorem test_shake256 : shake256 [] 4 = [0x46, 0xB9, 0xDD, 0x2B] := by decide +kernel
/-- The bit reversal of R483: frame 1 of 64 has the value 32. -/
theorem test_bit_reversal : bitRev 6 1 = 32 ∧ bitRev 6 32 = 1 ∧ bitRev 6 63 = 63 := by decide +kernel
/-- A module at twice its cap: the power count rises by half of 64 (R482). -/
theorem test_throttle : (match exec (.throttleWindow 7600 20 20) up with | .next t => t.pwr.np | _ => 0) = 32 := by decide +kernel
/-- The heartbeat advances (R405). -/
theorem test_heartbeat : (match exec .heartbeat up with | .next t => t.esc.heartbeat | _ => 0) = 1 := by decide +kernel
/-- A step of the empty queue changes nothing, one with a command takes it. -/
theorem test_step : (match step { up with pending := [.heartbeat, .tokenRefill] } with | .next t => t.pending | _ => []) = [.tokenRefill] := by decide +kernel

/-! ### Witnesses: power, the edge, counters -/

theorem wit_step : ∃ s : State, s.pending = [.heartbeat, .tokenRefill] ∧ State.reset.pending = [] := ⟨{ up with pending := [.heartbeat, .tokenRefill] }, rfl, rfl⟩
theorem wit_step_next : ∃ s t : State, Memory.wf s.mem = true ∧ step s = .next t := ⟨State.reset, State.reset, by decide, rfl⟩
theorem wit_throttle : State.reset.tickRun = false ∧ up.tickRun = true := by decide
theorem wit_events : up.pins.pwrGood = true ∧ up.fab.foreign ≠ BitVec.allOnes 64 ∧ up.fab.ports[(31 : Fin 32)].pfcEn = false ∧ up.host.link = true
    ∧ standby.pins.vin = true ∧ up.wer.hours.toNat ≤ 500 := by decide +kernel
/-- Port 0 with `PFC_EN` and a packet of class 2 that waits. -/
def pfc : State := { up with fab := { up.fab with ports := up.fab.ports.set 0 { pfcEn := true, waitq := [{ ctx := 0, rank := 1, sub := 0, pkt := (pkt 1 2 [] []).pkt }] } } }
theorem wit_pfc : pfc.fab.ports[(0 : Fin 32)].pfcEn = true ∧ (pfc.fab.ports[(0 : Fin 32)].waitq.map (·.sub / 8)) = [0]
    ∧ (0xFF : BitVec 8).getLsbD (nth 0 pfc.fab.ports[(0 : Fin 32)].pcp 2) = true ∧ (0 : BitVec 8).getLsbD (nth 0 pfc.fab.ports[(0 : Fin 32)].pcp 2) = false := by decide +kernel
theorem wit_flash : ∃ s : State, s.pins.pwrGood = true ∧ 0 < s.wrk.seq.toNat ∧ tget 0 s.wrk.ring 0 ≠ 0 :=
  ⟨{ up with wrk := { seq := 1, ring := tset 0 [] 0 5 } }, by decide +kernel⟩
theorem wit_power_up : State.reset.pins.vin = false ∧ standby.pins.vin = true ∧ standby.pins.pwrEn = false ∧ standby.pins.handshake = false
    ∧ rising.pins.pwrEn = true ∧ rising.pins.vin = true ∧ rising.pwr.tripped = false ∧ rising.pins.pwrGood = false ∧ rising.bru.running = true
    ∧ rising.pins.handshake = false := by decide
/-- The link down under a module with good power, PERST# asserted after a finished S0. -/
def held : State := { rising with pins := { vin := true, pwrEn := true, pwrGood := true }, bru := { running := true, reports := [0] } }
theorem wit_link : held.awake = true ∧ held.pins.perst = true ∧ held.pins.pwrGood = true ∧ held.bru.path = 0 ∧ held.bru.running = true ∧ held.bru.stage = 0
    ∧ held.bru.reports ≠ [] ∧ ({ held with pins := { held.pins with perst := false } } : State).awake = true
    ∧ ({ held with host := { training := true } } : State).host.training = true := by decide
/-- The handshake has begun. -/
def leaving : State := { up with pins := { vin := true, handshake := true } }
theorem wit_power_down : up.pins.vin = true ∧ up.pins.pwrEn = true ∧ leaving.pins.handshake = true ∧ leaving.pins.pwrEn = false ∧ up.awake = true
    ∧ ({ leaving with pins := { leaving.pins with pwrEn := true } } : State).pins.handshake = true := by decide
theorem wit_power_requests : up.hostUp 0 = true ∧ up.awake = true ∧ up.esc.active = 0 ∧ up.pwr.target = none ∧ up.pwr.st = 1
    ∧ (∀ c < 16, up.outWrites c 0 = false ∧ up.outWrites c 1 = false) ∧ (∀ n : Fin 64, up.slots[n].st ≠ .admitting ∧ up.slots[n].st ≠ .running)
    ∧ (∀ c : Fin 16, up.ctxs[c].st = .free) ∧ (∃ c : Fin 16, live0.ctxs[c].st ≠ .free) := by decide +kernel
/-- A state of `PWR_STATE.STATE`, with a transition in progress. -/
def power (st : BitVec 4) (target : Option Nat) : State := { up with pwr := { up.pwr with st := st, target := target } }
theorem wit_power_states : (power 2 none).pwr.st = 2 ∧ (power 3 none).awake = true ∧ (power 4 none).hostUp 0 = true ∧ (power 5 (some 3)).pwr.target = some 3
    ∧ (power 5 (some 4)).bru.running = false ∧ (power 5 (some 1)).pwr.st = 5 ∧ ({ up with esc := { active := 2 } } : State).esc.active ≠ 0 := by decide

/-! ### Witnesses: host access -/

/-- Function 0 with a transaction. -/
def txn (x : Txn) : State := { up with host := { up.host with txn := up.host.txn.set 0 x } }
/-- `SWT_CFG`, a transactional register of PF0. -/
def swtReg : Reg := ⟨0x0F, 0, 0x100⟩
theorem wit_txn : up.host.txn[(0 : Fin 16)].st = 0 ∧ (txn { st := 1 }).host.txn[(0 : Fin 16)].st = 1 ∧ (txn { st := 1 }).hostUp 0 = true
    ∧ (txn { st := 1, full := true }).host.txn[(0 : Fin 16)].full = true ∧ 1 < (txn { st := 2 }).host.txn[(0 : Fin 16)].st.toNat
    ∧ (txn { st := 1 }).regOf 0 (.name swtReg) = some swtReg ∧ swtReg.writable = true ∧ swtReg.exempt = false ∧ up.pageUp swtReg.blk swtReg.inst = true
    ∧ Half.write .both (.name swtReg) swtReg 5 = some (whole swtReg 5)
    ∧ (∃ w ∈ (txn { st := 1, staged := [whole swtReg 1] }).host.txn[(0 : Fin 16)].staged, w.reg = swtReg)
    ∧ 256 ≤ (txn { st := 1, staged := List.replicate 256 (whole ⟨0x0F, 0, 0⟩ 1) }).host.txn[(0 : Fin 16)].staged.length := by decide +kernel
theorem wit_txn_ctrl : up.regOf 0 (.name ⟨0x0F, 0, 0x18⟩) = some ⟨0x0F, 0, 0x18⟩ ∧ mayReach 0 (up.owns 0) ⟨0x0F, 0, 0x18⟩ = true
    ∧ Half.write .both (.name ⟨0x0F, 0, 0x18⟩) ⟨0x0F, 0, 0x18⟩ 3 = some (whole ⟨0x0F, 0, 0x18⟩ 3) ∧ up.host.txn[(0 : Fin 16)].shadow = false := by decide +kernel
/-- `PWR_CAP`. -/
def capReg : Reg := ⟨0x14, 0, 0x110⟩
theorem wit_writes : up.regOf 0 (.name capReg) = some capReg ∧ capReg.exempt = false ∧ capReg.writable = true ∧ up.pageUp 0x14 0 = true
    ∧ up.host.txn[(0 : Fin 16)].st ≠ 1 ∧ mayReach 0 (up.owns 0) capReg = true ∧ up.pageLive capReg.blk capReg.inst = false
    ∧ live0.pageLive swtReg.blk swtReg.inst = true ∧ mayReach 1 (up.owns 1) swtReg = false ∧ (⟨0x0F, 0, 0x110⟩ : Reg).writable = false
    ∧ BV.fld (BitVec.ofNat 64 (1000 * 2 ^ 48 + 70 * 2 ^ 40)) 48 16 = 1000 ∧ BV.fld (BitVec.ofNat 64 (3800 * 2 ^ 48 + 104 * 2 ^ 40)) 40 8 = 104
    ∧ 3800 < BV.fld (BitVec.ofNat 64 (3801 * 2 ^ 48)) 48 16 := by decide +kernel
theorem wit_status_bits : (up.regAt 0 0).isSome = true ∧ up.hostUp 15 = true
    ∧ (match up.regAt 0 0 with | some r => up.pageUp r.blk r.inst | none => false) = true := by decide +kernel
/-- An aperture of function 0 onto a raw object of 64 bytes. -/
def bar2 : State := { ctx0 { liveCtx with tensors := [{ tid := 9, raw := true, e0 := 64, ctx := 0, place := 2 ^ 21 }] } with
  host := { up.host with apt := tset 0 [] 0 (BitVec.ofNat 64 (2 ^ 63 + 2 ^ 62 + 9)) }, pager := { frames := tset 0 [] 1 1 } }
theorem wit_bar2 : bar2.hostUp 0 = true ∧ bar2.tickRun = true ∧ (up.aperture 0 0).2.2 = none
    ∧ (match bar2.aperture 0 0 with
      | (e, a, some r) => e.getLsbD 62 && a = 0 && decide (64 ≤ r.endOfs) && bar2.memUp r a && (bar2.farIn 0 (r.base + a) 64).isEmpty
          && !(bar2.inUse 0 r.tid) && !(bar2.hitsImage 0 (r.base + a) 64) && bar2.hostRoom 0 r a 64
      | _ => false) = true ∧ bar2.ctxs[(0 : Fin 16)].st = .live ∧ bar2.ctxs[(0 : Fin 16)].resetting = false := by decide +kernel
theorem wit_mailbox : up.hostUp 0 = true ∧ up.host.link = true := by decide

/-! ### Witnesses: a panel -/

theorem wit_arrivals : (∀ op ∈ ([.read 0 {}, .drain 3 {}, .elem {}, .send {}, .normDone 0 1 2 3, .halfReady true] : List FlyOp),
    (flying op).panels[(0 : Fin 32)].fly.filter (fun x => x.op.kind = op.kind) = [fly1 op] ∧ (fly1 op).due ≤ (flying op).panels[(0 : Fin 32)].cycle ∧ (fly1 op).e < 16
    ∧ ∀ e < 16, ∀ q < 8, ((flying op).panels[(0 : Fin 32)].eng e).occ q < 16
      ∧ ((flying op).panels[(0 : Fin 32)].arr.filter fun a => a.cycle = 128 && a.e = e && a.q = q).length < pushMax q) := by decide +kernel
/-- QA of engine 0 full as another entry comes. -/
def brim (cycle : Nat) : State :=
  pan0 up { cycle := cycle, seg := some {}, fly := [fly1 (.read 0 {})], engines := (Vector.replicate 16 {}).set 0 { qa := List.replicate 16 {} }, written := [7] }
theorem wit_overflow : (brim 130).panels[(0 : Fin 32)].fly.filter (fun y => y.op.kind = 0) = [fly1 (.read 0 {})] ∧ 128 < (brim 130).panels[(0 : Fin 32)].cycle
    ∧ ((brim 130).panels[(0 : Fin 32)].eng 0).occ 0 = 16 ∧ (brim 130).panels[(0 : Fin 32)].fault = none
    ∧ (∀ e < 16, ∀ k < 8, (e, k) ≠ (0, 0) → ((brim 130).panels[(0 : Fin 32)].eng e).occ k < 16) ∧ (brim 128).panels[(0 : Fin 32)].cycle = 128
    ∧ (brim 128).panels[(0 : Fin 32)].ended = false ∧ (brim 128).panels[(0 : Fin 32)].seg ≠ none := by decide +kernel
theorem wit_landings : (∀ op ∈ ([.product 63 (List.replicate 128 Sk.zero) [true], .forerun 0 0 [], .compare 0 true [] 0, .preload 0 (List.replicate 128 0) [],
      .nadd 0 { grp := 31 } 0] : List FlyOp),
    (flying op).panels[(0 : Fin 32)].fly.filter (fun x => x.op.kind = op.kind) = [fly1 op] ∧ ((flying op).panels[(0 : Fin 32)].arr = [])) := by decide +kernel
theorem wit_combine : [1, 2].Perm [2, 1] := by decide
theorem wit_scales : Fmt.e2m1.scaled = true ∧ 0 < ({} : Ent).cut ∧ fld ({ sc := 0xFF } : Ent).sc.toNat 0 8 = 0xFF ∧ fld ({ sc := 0xFE } : Ent).sc.toNat 0 8 ≠ 0xFF := by decide +kernel
theorem wit_zero_drain : (Sk.of 0).acc = 0 ∧ (Sk.of 0).nan = false ∧ (Sk.of 0).pinf = false ∧ (Sk.of 0).ninf = false ∧ (Sk.of 0).sat = false
    ∧ Fmt.fp32.scaled = false := by decide +kernel
/-- A panel that runs a segment of one word. -/
def running (w : Nat) : State := pan0 up { seg := some {}, store := tset 0 [] 0 (BitVec.ofNat 1024 w) }
theorem wit_row_word : (running 0).panelUp 0 = true ∧ (running 0).panels[(0 : Fin 32)].seg = some {} ∧ (running 0).panels[(0 : Fin 32)].ended = false
    ∧ RW.lpOp 0 = 0 ∧ (∀ k < 4, RW.wen 0 k = false) ∧ (∀ q < 8, RW.push 0 q = 0) ∧ (∃ w : Nat, w = (tget 0 (running 0).panels[(0 : Fin 32)].store 0).toNat ∧ w = 0) :=
  ⟨by decide +kernel, by decide +kernel, by decide +kernel, by decide +kernel, by decide +kernel, by decide +kernel, 0, by decide +kernel, rfl⟩
theorem wit_tags_and_residue : (running 0).panels[(0 : Fin 32)].ended = false ∧ (running 0).panels[(0 : Fin 32)].seg ≠ none
    ∧ (pan0 up { prev := some {} }).panels[(0 : Fin 32)].prev ≠ none ∧ (∀ e < 16, ∀ q < 8, ((pan0 up { prev := some {} }).panels[(0 : Fin 32)].eng e).occ q = 0)
    ∧ (∃ e < 16, ∃ q < 8, ((pan0 up { prev := some {}, engines := Vector.replicate 16 { qd := [{}] } }).panels[(0 : Fin 32)].eng e).occ q ≠ 0) := by decide +kernel
/-- A panel 0 that ran the training slot 0, its spare present. -/
def swatched : State :=
  { pan0 up { ran := some {} } with slots := up.slots.set 0 { st := .running, graph := { tasks := [6 * 2 ^ 44, 7 * 2 ^ 44] }, tasks := [{}, {}] }
                                    swt := { due := [{ panel := 0, primary := 0, rot := 1 }] } }
theorem wit_swatch : (swatched.remap.spare 0).isSome = true ∧ swatched.panelUp 0 = true ∧ swatched.panels[(0 : Fin 32)].ranFault = false
    ∧ (∀ k ∈ swatched.swt.due, k.susp = none ∧ k.z = none ∧ k.panel = 0) ∧ swatched.panels[(0 : Fin 32)].ran = some {} ∧ (swatched.slot 0).st = .running
    ∧ (swatched.slot 0).graph.training = true ∧ (swatched.slot 0).cancelled = false ∧ swatched.swt.suspects.length < 64
    ∧ swatched.panels[(0 : Fin 32)].shadow ≠ (swatched.frame.toNat + 15) % 16
    ∧ ({ swatched.panels[(0 : Fin 32)] with shadow := 15, differ := true } : Panel).spareDiffers = true := by decide +kernel

/-! ### Witnesses: contexts, tensors, slots -/

theorem wit_create : up.tickRun = true ∧ up.bru.ready = true ∧ up.ctxs[(0 : Fin 16)].st = .free ∧ (up.setCtx 0 { up.ctxs[(0 : Fin 16)] with st := .live }).quotasOk = true
    ∧ up.ctxs[(0 : Fin 16)].orphans = [] ∧ State.reset.tickRun = false ∧ live0.ctxs[(0 : Fin 16)].st ≠ .free ∧ up.ctxs[(0 : Fin 16)].orphan = false := by decide +kernel
/-- Context 0 FREE with an orphaned table. -/
def orphaned : State := ctx0 { orphan := true, orphGen := 4, orphans := [{ tid := 9, raw := true, e0 := 64, ctx := 0 }], cfg := { hbmQ := 64 } }
theorem wit_reattach : orphaned.ctxs[(0 : Fin 16)].st = .free ∧ orphaned.ctxs[(0 : Fin 16)].orphan = true ∧ orphaned.ctxs[(0 : Fin 16)].orphGen = 4
    ∧ (orphaned.setCtx 0 { orphaned.ctxs[(0 : Fin 16)] with st := .live }).quotasOk = true
    ∧ ({ orphaned.ctxs[(0 : Fin 16)] with tensors := orphaned.ctxs[(0 : Fin 16)].orphans } : Ctx).pagesOk = true := by decide +kernel
/-- Context 0 DYING, with a segment on a panel of each partition listed. -/
def dying (l : List (Fin 32)) : State :=
  let s := ctx0 { liveCtx with st := .dying }
  { s with panels := l.foldl (fun (v : Vector Panel 32) (i : Fin 32) => v.set i { seg := some {} }) s.panels }
theorem wit_teardown : live0.ctxs[(0 : Fin 16)].st = .live ∧ live0.liveSlots 0 = [] ∧ (dying []).ctxs[(0 : Fin 16)].st = .dying ∧ (dying []).outWrites 0 0 = false
    ∧ (dying []).outWrites 0 1 = false ∧ (dying [0]).outWrites 0 0 = true ∧ (dying [0]).outWrites 0 1 = false ∧ (dying [16]).outWrites 0 1 = true
    ∧ (dying [0, 16]).awake = true ∧ (dying [0, 16]).outWrites 0 0 = true ∧ (dying [0, 16]).pwr.st = 1 := by decide +kernel
/-- The record of a raw object of 64 bytes. -/
def rawRec : TRec := { tid := 9, raw := true, e0 := 64 }
/-- Context 0 LIVE with a quota, and a tensor command of its function that waits. -/
def asking (k : Nat) (w : BitVec 1024) (l : List TRec) : State :=
  { ctx0 { liveCtx with cfg := { liveCtx.cfg with hbmQ := 64 }, tensors := l } with
    host := { up.host with txn := up.host.txn.set 0 { lone := [{ kind := k, ctx := 0, record := w }] } } }
theorem wit_tensor_create : (asking 0 rawRec.word []).host.txn[(0 : Fin 16)].lone = [{ kind := 0, ctx := 0, record := rawRec.word }]
    ∧ (asking 0 rawRec.word []).host.txn[(0 : Fin 16)].st ≠ 2
    ∧ (asking 0 rawRec.word []).ctxs[(0 : Fin 16)].createOk rawRec.word { TRec.ofWord rawRec.word with ctx := 0, gen := 5 } = true
    ∧ ({ TRec.ofWord rawRec.word with ctx := 0 } : TRec).allPages ≤ 2 ^ 19
    ∧ (asking 0 rawRec.word [{ rawRec with tid := 8 }]).ctxs[(0 : Fin 16)].createOk rawRec.word { TRec.ofWord rawRec.word with ctx := 0, gen := 5 } = true
    ∧ (asking 0 rawRec.word [rawRec]).ctxs[(0 : Fin 16)].createOk rawRec.word { TRec.ofWord rawRec.word with ctx := 0, gen := 5 } = false := by decide +kernel
/-- An FP32 tensor of 32 elements of context 0. -/
def f32Rec : TRec := { tid := 9, e0 := 32, ctx := 0 }
theorem wit_tensor_commands : (asking 1 f32Rec.word [f32Rec]).tensor 0 9 = some f32Rec ∧ (asking 1 f32Rec.word [f32Rec]).inUse 0 9 = false
    ∧ (TRec.ofWord f32Rec.word).tid = 9 ∧ (TRec.ofWord f32Rec.word).e0 = 32 ∧ FW.bad (TRec.ofWord f32Rec.word).fmt = false
    ∧ recReserved f32Rec.word (TRec.ofWord f32Rec.word) = true ∧ (TRec.ofWord f32Rec.word).upd = f32Rec.upd
    ∧ (asking 2 (BitVec.ofNat 1024 9) [f32Rec]).host.txn[(0 : Fin 16)].lone = [{ kind := 2, ctx := 0, record := BitVec.ofNat 1024 9 }]
    ∧ (asking 2 9 [f32Rec]).writesTo f32Rec = false
    ∧ ({ asking 2 9 [f32Rec] with slots := up.slots.set 0 { st := .running, graph := { tasks := [9 * 2 ^ 256] } } } : State).inUse 0 9 = true := by decide +kernel
/-- A raw object that holds an image of one task at 2 MiB and its completion area. -/
def imageRec : TRec := { tid := 9, raw := true, e0 := 65536, ctx := 0, place := 2 ^ 21 }
/-- Its header: version 2, size 64, one task at 64. -/
def header : Nat := 2 * 2 ^ 56 + 64 * 2 ^ 48 + 64 * 2 ^ 288 + 2 ^ 138
/-- Slot 0 ADMITTING an image with these descriptors. -/
def admitting (l : List Nat) : State :=
  { ctx0 { liveCtx with tensors := [imageRec] } with
    slots := up.slots.set 0 { st := .admitting, image := BitVec.ofNat 48 (2 ^ 21), cpl := BitVec.ofNat 48 (2 ^ 21 + 4096), graph := { addr := 2 ^ 21, hdr := header, tasks := l } } }
theorem wit_descriptor_versions : (admitting [0]).slots[(0 : Fin 64)].st = .admitting ∧ (admitting [0]).slots[(0 : Fin 64)].admitted = false
    ∧ (admitting [0]).slots[(0 : Fin 64)].leave = none ∧ (admitting [0]).ctxs[(0 : Fin 16)].st = .live ∧ fld 0 56 8 ≠ 2
    ∧ ((admitting [0]).rawRoom 0 (2 ^ 21)).isSome = true ∧ ((admitting [0]).rawRoom 0 (2 ^ 21 + 4096)).any (fun r => decide (32 ≤ r)) = true
    ∧ fld header 56 8 = 2 ∧ fld header 48 8 = 64 ∧ GH.resv0 header = true ∧ GH.limits header = true ∧ GH.ntask header = 1
    ∧ ((admitting [0]).rawRoom 0 (2 ^ 21)).any (fun r => decide (GH.span header ≤ r)) = true := by decide +kernel
theorem wit_arm : State.reset.tickRun = false ∧ live0.host.slotOwn[(0 : Fin 64)].toNat = 0 ∧ live0.host.slotOwn[(0 : Fin 64)].toNat ≠ 1 ∧ live0.ctxs[(0 : Fin 16)].st ≠ .dying
    ∧ (admitting [0]).slots[(0 : Fin 64)].st = .admitting ∧ live0.slots[(0 : Fin 64)].st ≠ .running := by decide +kernel
/-- Slot 0 RUNNING a graph of one task. -/
def tasked (d : Nat) (t : TaskSt) : State := { live0 with slots := up.slots.set 0 { st := .running, admitted := true, graph := { tasks := [d] }, tasks := [t] } }
theorem wit_cancel : (tasked 0 {}).slots[(0 : Fin 64)].st = .running ∧ (tasked 0 {}).tickRun = true ∧ (tasked 0 {}).slots[(0 : Fin 64)].graph.training = false
    ∧ ((tasked 0 {}).slots[(0 : Fin 64)].task 0).finished = false := by decide +kernel

/-! ### Witnesses: Longshore -/

theorem wit_checks : live0.rxCheck { hdr := 1 } = some 1 ∧ live0.pwr.rails = true ∧ State.reset.pwr.rails = false
    ∧ sigKind (sig 1 0 5 0 0 0).pkt = some 1 ∧ live0.rxCheck (sig 1 0 5 0 0 0).pkt = none ∧ up.rxCheck (sig 1 0 5 0 0 0).pkt = some 4
    ∧ live0.rxCheck (mk [(508, 3), (504, 1)] []).pkt = some 2 ∧ live0.rxCheck (mk [(508, 2), (504, 1), (441, 65536)] []).pkt = some 3
    ∧ live0.rxCheck (mk [(508, 2), (504, 1), (441, 65535)] []).pkt = some 4 := by decide +kernel
theorem wit_data : Fresh live0 (sig 1 0 5 0 0 0) ∧ ((arrives live0 (sig 1 0 5 0 0 0)).stream 0 1 4).cum < 2 ^ 32 := by
  unfold Fresh Passes Checked InWindow; decide +kernel
theorem wit_duplicate : ¬InWindow (stream1 live0 { ctx := 0, peer := 1, tc := 4, cum := 1 }) (sig 1 0 5 0 0 0)
    ∧ Passes (stream1 live0 { ctx := 0, peer := 1, tc := 4, cum := 1 }) (sig 1 0 5 0 0 0) := by
  unfold Passes Checked InWindow; decide +kernel
theorem wit_resetting_data : ((ctx0 { liveCtx with resetting := true }).ctx 0).resetting = true ∧ Checked (ctx0 { liveCtx with resetting := true }) (sig 1 0 5 0 0 0)
    ∧ Checked { live0 with esc := { active := 4 } } (sig 1 0 5 0 0 0) := by unfold Checked; decide +kernel
/-- Rank 1 with a packet of class 2 unacknowledged. -/
def sent1 (n : Nat) : State := stream1 (peer1 serving { ctx := 0, rank := 1, joined := true }) { ctx := 0, peer := 1, tc := 2, nextSeq := 1, unacked := [(0, 0, {})], expiries := n }
theorem wit_ack : Checked (sent1 0) (pkt 2 2 [(357, 1), (141, 1)] []) ∧ LS.ackv (pkt 2 2 [(357, 1), (141, 1)] []).pkt.hdr = true
    ∧ ((sent1 0).peer 0 1).held = false ∧ ((sent1 0).stream 0 1 2).txq = []
    ∧ (∃ u ∈ ((sent1 0).stream 0 1 2).unacked, seqBefore u.1 1 = true) := by unfold Checked; decide +kernel
theorem wit_join : Checked live0 (pkt 3 0 [] [2, 2, 0, 0, 6]) ∧ LS.ackv (pkt 3 0 [] [2, 2, 0, 0, 6]).pkt.hdr = false ∧ Entered live0 0 1
    ∧ (nth 0 (pkt 3 0 [] [2, 2, 0, 0, 6]).pkt.payload 0).toNat ≤ 2 ∧ (live0.ctx 0).cfg.job.toNat = LS.job (pkt 3 0 [] []).pkt.hdr
    ∧ live0.fab.streams = [] ∧ (live0.peer 0 1).held = false ∧ Checked up (pkt 3 0 [] [2, 2, 0, 0, 6]) ∧ (up.ctx 0).st ≠ .live := by
  unfold Checked Entered; decide +kernel
/-- Rank 1 as this module's JOIN waits for its answer. -/
def joining : State := peer1 serving { ctx := 0, rank := 1, joining := true }
theorem wit_join_ack : (joining.peer 0 1).joining = true ∧ (joining.peer 0 1).unreachable = false ∧ Checked joining (pkt 4 0 [] [0, 0, 2, 0, 6])
    ∧ Checked joining (pkt 4 0 [] [0, 0, 0, 3, 6]) ∧ joining.fab.streams = [] ∧ Checked joining (pkt 5 0 [] [5, 0, 0, 0]) ∧ Checked joining (pkt 6 0 [] []) := by
  unfold Checked; decide +kernel
theorem wit_serves : 0 < serving.weight 0 ∧ (serving.fab.ports[(0 : Fin 32)]).sub 0 = 3 ∧ serving.bitmap ≠ 0 ∧ live0.bitmap = 0 := by decide +kernel
theorem wit_unpaused : Unpaused serving := by
  intro n tc
  have h : ∀ n : Fin 32, serving.fab.ports[n].pfcPause = 0 := by decide +kernel
  have h' := h n
  simp only [Fin.getElem_fin] at h'
  simp [Port.paused, h']
theorem wit_timers : ((sent1 14).peer 0 1).held = false ∧ ((sent1 14).stream 0 1 2).expiries < 15 ∧ 15 ≤ ((sent1 15).stream 0 1 2).expiries
    ∧ ((sent1 15).peer 0 1).unreachable = false ∧ ((sent1 0).stream 0 1 2).sinceAck = 0
    ∧ 0 < ((stream1 serving { ctx := 0, peer := 1, tc := 2, sinceAck := 1 }).stream 0 1 2).sinceAck ∧ (∀ u ∈ (live0.stream 0 1 2).unacked, u.1 ≠ 0) := by decide +kernel
theorem wit_rank_timers : (joining.peer 0 1).tries < 100 ∧ ((peer1 serving { ctx := 0, rank := 1, joining := true, tries := 100 }).peer 0 1).tries = 100
    ∧ ((peer1 serving { ctx := 0, rank := 1, held := true }).peer 0 1).held = true := by decide +kernel

/-! ### Witnesses: ports and lasers -/

/-- Port 31 retrains its sub-port 0. -/
def retraining : State := { up with fab := { up.fab with ports := up.fab.ports.set 31 (({} : Port).setSub 0 5 0) } }
theorem wit_ports : (∀ p ∈ retraining.fab.peers, p.joined = false) ∧ retraining.fab.ports[(31 : Fin 32)].waitq = [] ∧ retraining.fab.ports[(31 : Fin 32)].hasSub 0 = true
    ∧ retraining.fab.ports[(31 : Fin 32)].en = true ∧ retraining.fab.ports[(31 : Fin 32)].subOf 7 = 0 ∧ retraining.fab.ports[(31 : Fin 32)].sub 0 = 5
    ∧ retraining.fab.ports[(31 : Fin 32)].retry.getLsbD 0 = false ∧ (∀ x ∈ retraining.fab.strands.toList, x.wearQ = [])
    ∧ (({} : Port).setSub 0 6 0).sub 0 = 6 := by decide +kernel
theorem wit_retrain : up.hostUp 0 = true ∧ up.pageUp 0x0C 31 = true ∧ up.pageLive 0x0C 31 = false ∧ live0.pageLive 0x0C 31 = true ∧ up.host.txn[(0 : Fin 16)].st ≠ 1 := by decide +kernel
theorem wit_lasers : up.fab.ports[(31 : Fin 32)].hasSub (up.fab.ports[(31 : Fin 32)].subOf 7) = true ∧ up.fab.strands[(7 : Fin 8)].spares ≠ 0
    ∧ up.fab.strands[(7 : Fin 8)].switching = none ∧ up.retraining = false ∧ retraining.retraining = true
    ∧ ({ up with fab := { up.fab with strands := up.fab.strands.set 7 { spares := 0 } } } : State).fab.strands[(7 : Fin 8)].spares = 0 := by decide +kernel
theorem wit_addresses : BV.fld (tget 0 up.fab.addrs 0) 48 32 = 0 := by decide +kernel

/-! ### Witnesses: reductions, gathers and transfers -/

/-- A group of two members along its first axis. -/
def pairGrp : BitVec 512 := BitVec.ofNat 512 (2 ^ 511 + 2 * 2 ^ 16 + 2 ^ 33 + sumN ((List.range 5).map fun a => 2 ^ (49 * (a + 1) + 16)))
/-- Slot 0 RUNNING a graph of these descriptors, with an FP32 tensor of 32 elements at 2 MiB. -/
def graphed (l : List Nat) (ts : List TaskSt) : State :=
  { live0 with
    ctxs := up.ctxs.set 0 { liveCtx with tensors := [{ f32Rec with place := 2 ^ 21 }] }
    slots := up.slots.set 0 { st := .running, admitted := true, graph := { hdr := 4 * 2 ^ 117 + 8 * 2 ^ 97, tasks := l }, tasks := ts } }
/-- A reduction of 32 elements of ranks 0 and 1 at rank 0, for the REDUCE task 0. -/
def red0 : Red := { ctx := 0, slot := 0, task := 0, redid := 3, ranks := [0, 1], grp := pairGrp, elems := 32 }
/-- The descriptor of that task. -/
def reduceD : Nat := 5 * 2 ^ 44 + 3 * 2 ^ 748 + 9 * 2 ^ 256
/-- That reduction in progress. -/
def reducing (r : Red) : State := let s := graphed [reduceD] [{ dispatched := true }]
  { s with fab := { s.fab with reds := [r] } }
/-- Its first piece, claimed. -/
def piece0 : Piece := { chunk := 0, idx := 0, claimed := true }
/-- A packet of partials. -/
def partials (l : List (Nat × Nat)) (pl : List Byte) : Frame := pkt 1 2 ([(203, 5), (273, 3)] ++ l) pl


/-- Does frame f reach the state as one that is taken? -/
theorem wit_reduction_commands : reductionCommands (sig 2 3 0 0 0 0) = [.climb (sig 2 3 0 0 0 0)] ∧ reductionCommands (sig 3 3 0 0 0 0) = [.shareEnd (sig 3 3 0 0 0 0)]
    ∧ reductionCommands (sig 4 3 0 0 0 0) = [.grant (sig 4 3 0 0 0 0)] ∧ reductionCommands (partials [] []) = [.lsDataRx (partials [] [])]
    ∧ (live0.red 0 3 = none) ∧ (red0.epoch + 16 - LS.epoch (pkt 1 4 [(203, 9), (273, 3), (485, 15)] []).pkt.hdr) % 16 = 1
    ∧ (red0.epoch + 16 - LS.epoch (pkt 1 4 [(203, 9), (273, 3), (485, 7)] []).pkt.hdr) % 16 = 9
    ∧ ((ctx0 liveCtx).slot 0).st ≠ .running := by decide +kernel
theorem wit_epochs : Fresh live0 (sig 2 3 0 0 0 0) ∧ Fresh (reducing red0) (sig 2 3 0 0 0 0) ∧ Fresh (reducing { red0 with epoch := 1 }) (sig 2 3 0 0 0 0)
    ∧ Fresh (reducing { red0 with epoch := 9 }) (sig 3 3 0 0 0 0) := by unfold Fresh Passes Checked InWindow; decide +kernel
theorem wit_raise : Fresh (reducing red0) (sig 1 0 8 0 0 0) ∧ rxC (sig 1 0 8 0 0 0) = 0 ∧ rxChunk (sig 1 0 8 0 0 0) = 8 ∧ rxChunk (sig 1 0 12 0 0 0) = 12
    ∧ ((reducing red0).slot 0).range = (8, 4) := by unfold Fresh Passes Checked InWindow; decide +kernel
theorem wit_flag_owned : FlagOwned (reducing red0) 0 8 ∧ FlagOwned (reducing red0) 0 11 ∧ ¬FlagOwned (reducing red0) 0 12 ∧ ¬FlagOwned (reducing red0) 0 7 := by
  unfold FlagOwned; decide +kernel
theorem wit_signals : OfRed (reducing red0) (sig 2 3 0 0 0 0) red0 ∧ OfRed (reducing red0) (sig 4 3 0 0xFFFF 0 0) red0 ∧ OfRed (reducing red0) (sig 4 3 0 0 0 0) red0
    ∧ red0.outOf 0 0 = [] ∧ 0 ∉ red0.done ∧ OfRed (reducing { red0 with done := [0] }) (sig 3 3 0 0 0 0) { red0 with done := [0] } := by
  unfold OfRed Fresh Passes Checked InWindow; decide +kernel
theorem wit_share_ends : OfRed (reducing { red0 with pieces := [piece0] }) (sig 3 3 0 0 0 0) { red0 with pieces := [piece0] }
    ∧ memberOf red0.ranks 1 = some 1 ∧ ({ red0 with pieces := [piece0] } : Red).piece 0 0 (grpStageOf pairGrp 1 0) = some piece0
    ∧ sigDigest (sig 3 3 0 0 0 0).pkt = (reducing { red0 with pieces := [piece0] }).homeDigest { red0 with pieces := [piece0] } 0 0
    ∧ sigDigest (sig 3 3 0 0 0 5).pkt ≠ (reducing { red0 with pieces := [piece0] }).homeDigest { red0 with pieces := [piece0] } 0 0
    ∧ Entered (reducing red0) 0 1 := by unfold OfRed Fresh Passes Checked InWindow Entered; decide +kernel
/-- A packet of one partial of the value 0 at accumulator 0, and one that is malformed. -/
def partial0 : Frame := partials [] (List.replicate 32 0)
def malformed : Frame := partials [] [1]
theorem wit_contributions : OfRed (reducing { red0 with pieces := [piece0] }) partial0 { red0 with pieces := [piece0] } ∧ (contribWords partial0.pkt).isSome = true
    ∧ LS.ledger partial0.pkt.hdr = 0 ∧ LS.poison partial0.pkt.hdr = false ∧ LS.poison (partials [(135, 1)] []).pkt.hdr = true
    ∧ LS.ledger (partials [(142, 1)] []).pkt.hdr ≠ 0 ∧ OfRed (reducing { red0 with pieces := [piece0] }) malformed { red0 with pieces := [piece0] }
    ∧ contribWords malformed.pkt = none ∧ ({ red0 with pieces := [piece0] } : Red).piece 0 (0 / 32 / red0.pieceN) 0 = some piece0
    ∧ red0.padding ((reducing red0).redOut red0) 31 = false ∧ red0.padding ((reducing red0).redOut red0) 32 = true
    ∧ (reducing red0).redKeeps red0 0 = true := by unfold OfRed Fresh Passes Checked InWindow; decide +kernel
/-- A report or agreed anchor of the first block, or of a sounding. -/
def anchorPkt (l : List (Nat × Nat)) (pl : List Byte) : Frame := pkt 1 4 ([(203, 4), (273, 3)] ++ l) pl
theorem wit_agreement : Fresh (reducing red0) (anchorPkt [] [5, 0]) ∧ agreePkt (anchorPkt [] [5, 0]).pkt = true ∧ (reducing red0).red 0 3 = some red0
    ∧ 1 ∈ red0.down 0 ∧ LS.last (anchorPkt [] [5, 0]).pkt.hdr = false ∧ LS.last (anchorPkt [(137, 1)] []).pkt.hdr = true ∧ red0.home 0 = red0.self
    ∧ ({ red0 with self := 1 } : Red).home 0 ≠ 1 ∧ ({ red0 with self := 1 } : Red).up 0 = 0 ∧ 0 ∉ ({ red0 with self := 1 } : Red).down 0
    ∧ (∀ q ∈ red0.self :: red0.down 0, (q, 0) ∈ [(0, 0)] ∨ q = 1) ∧ (¬∀ q ∈ red0.self :: red0.down 0, (q, 0) ∈ red0.reports ∨ q = 1) := by
  unfold Fresh Passes Checked InWindow; decide +kernel
theorem wit_reports : (reducing red0).tagsExist red0 = true ∧ 0 ∈ ({ red0 with grantA := [0] } : Red).grantA ∧ 0 ∉ red0.repSent ∧ 0 < red0.chunks ∧ 0 ∉ red0.grantA
    ∧ ({ red0 with declared := some 5 } : Red).declared.isSome = true ∧ red0.attn = false ∧ ({ red0 with ranks := [0] } : Red).ranks.length = 1 ∧ red0.repMax = []
    ∧ (∀ b ∈ red0.chunkBlocks 0, ∀ g, (reducing red0).localAnchor red0 b = some g → -32768 ≤ g) := by decide +kernel
theorem wit_ends : (reducing red0).contribDone red0 = true ∧ red0.chunkClimbs 0 = false ∧ 0 ∉ red0.ended ∧ 0 ∉ red0.done ∧ 0 < red0.npieces 0
    ∧ ({ red0 with climbed := [0] } : Red).chunkClimbs 0 = true ∧ red0.holder (red0.enter 0) (red0.home 0) = red0.self
    ∧ ({ red0 with self := 1 } : Red).holder (({ red0 with self := 1 } : Red).enter 0) (({ red0 with self := 1 } : Red).home 0) ≠ 1
    ∧ ((reducing { red0 with pieces := [piece0] }).flushPiece { red0 with pieces := [piece0] } 0 0 0).2.piece 0 0 0 = some piece0 := by decide +kernel
/-- A piece whose ends are in, of an empty share of each member. -/
def whole0 (led : Nat) : Piece := { piece0 with ends := [{ member := 0, count := 0, digest := 0, ledger := 0 }, { member := 1, count := 0, digest := 0, ledger := led }] }
theorem wit_pieces : (reducing { red0 with pieces := [piece0] }).red 0 3 = some { red0 with pieces := [piece0] }
    ∧ ([piece0].find? fun q => q.chunk = 0 && q.idx = 0 && q.claimed && !q.drained && (reducing { red0 with pieces := [piece0] }).pieceComplete { red0 with pieces := [piece0] } q) = none
    ∧ (∀ led < 2, ([whole0 led].find? fun q => q.chunk = 0 && q.idx = 0 && q.claimed && !q.drained
        && (reducing { red0 with pieces := [whole0 led] }).pieceComplete { red0 with pieces := [whole0 led] } q) = some (whole0 led))
    ∧ red0.stages = 1 ∧ (∀ e ∈ (whole0 0).ends, tget 0 (whole0 0).led e.member = e.ledger) ∧ ((whole0 0).pre + sumN ((whole0 0).ends.map fun e => e.ledger)) % ledM = 0
    ∧ (reducing red0).redLedger red0 [] = 0 ∧ ¬(∀ e ∈ (whole0 1).ends, tget 0 (whole0 1).led e.member = e.ledger)
    ∧ ((reducing red0).slot 0).st = .running := by decide +kernel
theorem wit_climbs : ((reducing { red0 with climbed := [0] }).fab.reds.find? fun r => r.slot = 0 ∧ r.task = 0 ∧ !r.isGather) = some { red0 with climbed := [0] }
    ∧ TD.typ ((reducing red0).slot 0 |>.desc 0) = 5 ∧ (reducing { red0 with climbed := [0] }).contribDone { red0 with climbed := [0] } = true ∧ red0.climbed = []
    ∧ TD.premem (reduceD + 0xFFFFE * 2 ^ 703) ≠ 0xFFFFF ∧ ({ red0 with climbed := [0] } : Red).anchor 0 ≤ 32751 := by decide +kernel
/-- A GEMM task of a reduction that no REDUCE task gathers, all its segments ended. -/
def climbing (l : List Nat) : State := graphed [3 * 2 ^ 748 + 2 ^ 224] [{ dispatched := true, next := 1, segdone := 1, climbs := l }]
theorem wit_task_climbs : (climbing [0]).mates 0 0 = [0] ∧ TD.typ ((climbing [0]).slot 0 |>.desc 0) ≤ 1 ∧ ((climbing [0]).slot 0 |>.task 0).running = []
    ∧ ((climbing [0]).slot 0 |>.task 0).segdone = TD.segments ((climbing [0]).slot 0 |>.desc 0) ∧ ((climbing [0]).slot 0 |>.task 0).climbs ≠ []
    ∧ ((climbing []).slot 0 |>.task 0).climbs = [] := by decide +kernel
/-- A GATHER of the same tensor whose chunk 0 raises flag 8. -/
def gathering : State :=
  let s := graphed [5 * 2 ^ 44 + 2 ^ 39 + 9 * 2 ^ 256] [{ dispatched := true }]
  { s with fab := { s.fab with reds := [{ red0 with redid := 0, isGather := true }] } }
/-- A part of a gathered chunk, or of a transfer. -/
def bytesPkt (tc : Nat) (pl : List Byte) : Frame := pkt 1 tc [(203, 1)] pl
theorem wit_gather : Fresh gathering (bytesPkt 2 []) ∧ gathering.gatherRed 0 0 0 = some ({ red0 with redid := 0, isGather := true }, 0)
    ∧ (gathering.slot 0).st = .running ∧ ledger 0 0 9 (bytes8 0 []) = LS.ledger (bytesPkt 2 []).pkt.hdr ∧ (gathering.redOut red0).tid = 9
    ∧ (gathering.redOut red0).grad = false := by unfold Fresh Passes Checked InWindow; decide +kernel
/-- A transfer, received or sent, with rank 1 under tag 0. -/
def moving (x : P2P) : State :=
  let s := graphed [5 * 2 ^ 44 + 2 * 2 ^ 39 + 9 * 2 ^ 256] [{ dispatched := true }]
  { s with fab := { s.fab with p2p := [x] } }
def recv0 : P2P := { ctx := 0, slot := 0, task := 0, peer := 1, tag := 0, recv := true }
theorem wit_transfers : Fresh (moving recv0) (bytesPkt 3 []) ∧ ((moving recv0).fab.p2p.find? fun y => y.ctx = 0 ∧ y.peer = 1 ∧ y.tag = 0 ∧ y.recv) = some recv0
    ∧ ((moving recv0).p2pBlocks 0 0).isSome = true ∧ Fresh (moving recv0) (sig 3 0 0 0 0 0) ∧ Fresh (moving recv0) (sig 4 0 0 0 0 0)
    ∧ ((moving recv0).fab.p2p.find? fun y => y.ctx = 0 ∧ y.peer = 1 ∧ y.tag = 0 ∧ !y.recv) = none
    ∧ ((moving { recv0 with recv := false }).fab.p2p.find? fun y => y.ctx = 0 ∧ y.peer = 1 ∧ y.tag = 0 ∧ !y.recv) = some { recv0 with recv := false } := by
  unfold Fresh Passes Checked InWindow; decide +kernel

/-! ### Witnesses: pages, memory errors, twins -/

/-- A part of a page. -/
def pagePkt (l : List (Nat × Nat)) (pl : List Byte) : Frame := pkt 1 5 ((203, 6) :: l) pl
/-- A module that lends a page of rank 1, and with room for one. -/
def lending (n : Nat) : State := { live0 with pager := { reserve := BitVec.ofNat 20 n } }
def lent0 : Lent := { rank := 1, ctx := 0, gen := 6, page := 0 }
theorem wit_lending : Fresh (lending 1) (pagePkt [] [7]) ∧ Fresh (lending 0) (pagePkt [] [7]) ∧ (lending 1).pager.lent.length < (lending 1).pager.reserve.toNat
    ∧ (lending 0).pager.reserve.toNat ≤ (lending 0).pager.lent.length ∧ LS.redid (pagePkt [] [7]).pkt.hdr = 0 ∧ LS.last (pagePkt [] [7]).pkt.hdr = false
    ∧ Fresh { live0 with pager := { lent := [lent0] } } (pagePkt [(273, 1)] [])
    ∧ ([lent0].find? fun l => l.ctx = 0 && l.rank = 1 && l.page = rxChunk (pagePkt [(273, 1)] [])) = some lent0 := by
  unfold Fresh Passes Checked InWindow; decide +kernel
/-- A page of context 0 at rank 1, on its way back. -/
def far0 (parts : List (Nat × List Byte)) : FarPage := { ctx := 0, tid := 9, page := 0, lender := some 1, sum := 5, recalling := true, parts := parts }
def recalled (parts : List (Nat × List Byte)) : State := { live0 with pager := { far := [far0 parts] } }
theorem wit_recall : Fresh (recalled []) (pagePkt [(273, 2)] [7]) ∧ ((recalled []).pager.far.find? fun g => g.ctx = 0 && g.page = 0 && g.lender = some 1 && g.recalling) = some (far0 [])
    ∧ LS.offset (pagePkt [(273, 2)] [7]).pkt.hdr < 2 ^ 21 ∧ Fresh (recalled []) (pagePkt [(273, 2), (137, 1)] (toLE 8 5)) ∧ LS.last (pagePkt [(273, 2), (137, 1)] (toLE 8 5)).pkt.hdr = true
    ∧ BitVec.ofNat 64 (ofLE (pagePkt [] (toLE 8 5)).pkt.payload) = (far0 []).sum ∧ BitVec.ofNat 64 (ofLE (pagePkt [] (toLE 8 4)).pkt.payload) ≠ (far0 []).sum := by
  unfold Fresh Passes Checked InWindow; decide +kernel
theorem parts_len (n : Nat) : partsLen [(0, List.replicate n 0)] = n := by simp [partsLen, sumN]
/-- All the bytes of a page have arrived. -/
theorem wit_recall_whole : ∃ l : List (Nat × List Byte), partsLen l = 2 ^ 21 ∧ ∀ x ∈ l, x.1 < 2 ^ 21 :=
  ⟨[(0, List.replicate (2 ^ 21) 0)], parts_len _, fun x hx => by
    rw [List.mem_singleton.mp hx]; exact Nat.two_pow_pos 21⟩
/-- A context of two spillable tensors of one page each, at 2 and 4 MiB: the page of the first in a frame, of the second far. -/
def spilling (hbm spill : Nat) (lender : Option Nat) : State :=
  { ctx0 { liveCtx with cfg := { liveCtx.cfg with hbmQ := BitVec.ofNat 20 hbm, spillQ := BitVec.ofNat 20 spill, hostPages := 2, lenders := [1] }
                        tensors := [{ f32Rec with place := 2 ^ 21, spill := true }, { f32Rec with tid := 8, place := 2 ^ 22, spill := true }] } with
    pager := { frames := [(1, 1)], far := [{ ctx := 0, tid := 8, page := 2, lender := lender, sum := 0 }] }
    slots := up.slots.set 0 { st := .running, admitted := true, graph := { tasks := [2 ^ 224 + 8 * 2 ^ 256 + 0xFFFF * 2 ^ 512] }, tasks := [{}] } }
theorem wit_evict : ((spilling 4 2 none).ctx 0).st = .live ∧ ((spilling 4 2 none).ctx 0).cfg.hbmQ.toNat < ((spilling 4 2 none).residentPages 0).length + 4
    ∧ ((spilling 5 2 none).residentPages 0).length + 4 ≤ ((spilling 5 2 none).ctx 0).cfg.hbmQ.toNat
    ∧ ((spilling 4 2 none).farPages 0).length < ((spilling 4 2 none).ctx 0).cfg.spillQ.toNat ∧ ((spilling 4 1 none).ctx 0).cfg.spillQ.toNat ≤ ((spilling 4 1 none).farPages 0).length
    ∧ (((spilling 4 2 none).farPages 0).filter fun f => f.lender.isNone).length < ((spilling 4 2 none).ctx 0).cfg.hostPages.toNat ∧ 1 ∈ ((spilling 4 2 none).ctx 0).cfg.lenders
    ∧ (spilling 4 2 none).victim 0 = some 1 := by decide +kernel
theorem wit_page_recall : ((spilling 2 2 none).residentPages 0).length < ((spilling 2 2 none).ctx 0).cfg.hbmQ.toNat ∧ (∀ g ∈ (spilling 2 2 (some 1)).farPages 0, g.recalling = false ∧ g.lender.isSome = true) ∧ ((spilling 1 2 none).ctx 0).cfg.hbmQ.toNat ≤ ((spilling 1 2 none).residentPages 0).length
    ∧ (∃ g ∈ (spilling 2 2 none).farPages 0, g.lender = none) ∧ (∀ g ∈ live0.pager.far, ¬(g.ctx = 0 ∧ g.lender = none)) := by decide +kernel
theorem wit_next_use : (spilling 2 2 none).nextUse 0 2 ≠ none := by
  have h : (spilling 2 2 none).taskOrder (some 0) = [(0, 0)] := by
    have l : ((List.range 64).flatMap fun n =>
        let x := (spilling 2 2 none).slot n
        if x.st = .running ∧ ((some 0 : Option Nat).isNone ∨ some 0 = some x.ctx.toNat) then
          ((List.range x.tasks.length).filter fun i => !(x.task i).finished).map fun i => (taskKey (x.desc i) n i, n, i)
        else []) = [(taskKey ((spilling 2 2 none).slot 0 |>.desc 0) 0 0, 0, 0)] := by decide +kernel
    unfold State.taskOrder
    simp only [l, List.mergeSort_singleton, List.map_cons, List.map_nil]
  unfold State.nextUse
  rw [h]
  decide +kernel
theorem wit_memory_errors : (0 : Nat) < 16 ∧ (0 : Nat) < 2 ^ 40 ∧ (31 : Nat) < 32 ∧ tget 0 up.pager.corrected 3 + 0 ≤ up.pager.threshold.toNat
    ∧ (({} : Panel).eng 0).qa[0]? = none ∧ (({ engines := (Vector.replicate 16 {}).set 0 { qa := [{}] } } : Panel).eng 0).qa[0]? = some ({} : Ent)
    ∧ (reducing { red0 with pieces := [piece0] }).red 0 3 = some { red0 with pieces := [piece0] } ∧ (0 : Nat) < 2 ^ 38 := by decide +kernel
/-- A reserve tensor of context 0 with two copies. -/
def mirrored (x : Ctx) : State := ctx0 { x with st := .live, gen := 5, cfg := { x.cfg with job := 7, grid := 1, ranks := tset 0 [] 1 (BitVec.allOnes 256) }, tensors := [{ f32Rec with upd := BitVec.ofNat 64 (2 ^ 30), place := 2 ^ 21 }] }
/-- A line of a twin delta for tensor 9, and the packet that closes it. -/
def deltaLine (led : Nat) : Frame := pkt 1 6 [(203, 7), (253, 9), (142, led)] (List.replicate 128 0)
def deltaClose (led step : Nat) (l : List (Nat × Nat)) : Frame := pkt 1 6 ([(203, 7), (137, 1), (142, led), (221, step)] ++ l) []
theorem wit_twin_lines : Fresh (mirrored {}) (deltaLine 0) ∧ deltaPkt (deltaLine 0).pkt false = true
    ∧ (mirrored {}).tensor 0 (LS.redid (deltaLine 0).pkt.hdr % 4096 * 2 ^ 20 + rxChunk (deltaLine 0)) = some { f32Rec with upd := BitVec.ofNat 64 (2 ^ 30), place := 2 ^ 21 }
    ∧ lineLedger 0 1 9 0 (List.replicate 128 0) = LS.ledger (deltaLine (lineLedger 0 1 9 0 (List.replicate 128 0))).pkt.hdr
    ∧ lineLedger 0 1 9 0 (List.replicate 128 0) ≠ LS.ledger (deltaLine (lineLedger 0 1 9 0 (List.replicate 128 0) + 1)).pkt.hdr
    ∧ ((mirrored {}).ctx 0).cfg.adState ≠ 1 ∧ ((mirrored { twinOn := true }).ctx 0).twinOn = true ∧ ((mirrored { cfg := { adopt := BitVec.ofNat 64 (2 ^ 36) } }).ctx 0).st = .live := by
  unfold Fresh Passes Checked InWindow; decide +kernel
theorem wit_twin_close : Fresh (mirrored {}) (deltaClose 0 1 []) ∧ deltaPkt (deltaClose 0 1 []).pkt true = true
    ∧ ((arrives (mirrored {}) (deltaClose 0 1 [])).stream 0 1 6).cum = LS.seq (deltaClose 0 1 []).pkt.hdr
    ∧ ((arrives (mirrored {}) (deltaClose 0 1 [(389, 1)])).stream 0 1 6).cum ≠ LS.seq (deltaClose 0 1 [(389, 1)]).pkt.hdr ∧ Fresh (mirrored {}) (deltaClose 0 1 [(389, 1)])
    ∧ LS.ledger (deltaClose 0 1 []).pkt.hdr = 0 ∧ LS.ledger (deltaClose 3 1 []).pkt.hdr ≠ 0 ∧ (((mirrored {}).ctx 0).tensors.map (·.tid)).Nodup
    ∧ LS.poison (deltaClose 0 1 [(135, 1)]).pkt.hdr = true := by unfold Fresh Passes Checked InWindow; decide +kernel
/-- A context that waits for the echo of step 1 from rank 1. -/
def awaiting (n : Nat) : State := mirrored { twinWait := some 1, twinTries := n, cfg := { finTwin := BitVec.ofNat 64 (2 ^ 63 + 2 ^ 32) } }
theorem wit_twin_echo : Fresh (awaiting 0) (deltaClose 0 1 []) ∧ ((awaiting 0).ctx 0).twinWait = some (LS.offset (deltaClose 0 1 []).pkt.hdr)
    ∧ ((awaiting 0).ctx 0).twinWait ≠ some (LS.offset (deltaClose 0 2 []).pkt.hdr) ∧ ((awaiting 2).ctx 0).twinTries < 3 ∧ 3 ≤ ((awaiting 3).ctx 0).twinTries
    ∧ LS.poison (deltaClose 0 1 []).pkt.hdr = false ∧ Entered (awaiting 0) 0 1 := by unfold Fresh Passes Checked InWindow Entered; decide +kernel

--#eval ((List.range 64).filter fun k => ({finTwin := BitVec.ofNat 64 (2^k)} : CtxCfg).twRank != 0)

theorem wit_pulls : ((mirrored {}).ctx 0).st = .live ∧ (∃ u ∈ ((mirrored {}).ctx 0).tensors, u.finEn = true ∧ u.finStep ≠ 1 % 2 ^ 32)
    ∧ (∀ u ∈ ((mirrored {}).ctx 0).tensors, u.finEn = true → u.finStep = 0 % 2 ^ 32) ∧ (up.ctx 0).st ≠ .live := by decide +kernel

/-! ### Witnesses: the tick, tasks, the end of a step -/

theorem still_up : Still up none := by unfold Still; decide +kernel
theorem still_floor : Still { up with pwr := { up.pwr with floorLeft := 1 } } none := by unfold Still; decide +kernel
theorem still_entering : Still (power 1 (some 2)) none := by unfold Still; decide +kernel
theorem still_leaving : Still (power 2 (some 1)) none := by unfold Still; decide +kernel
theorem wit_ticks : up.host.txn[(0 : Fin 16)].st ≠ 2 ∧ up.pwr.st = 1 ∧ up.pwr.target = none ∧ (power 2 (some 1)).pwr.resume ≤ 1 ∧ (power 2 none).pwr.st = 2
    ∧ bitRev 6 0 < 32 ∧ ¬bitRev 6 1 < 32 ∧ up.pwr.floorLeft = 0 := by decide +kernel
/-- PF0's commit of the largest payload and of the swatch configuration waits for the tick. -/
def committing (v w : Nat) : State := txn { st := 2, staged := [whole Reg.largest (BitVec.ofNat 64 v), whole ⟨0x0F, 0, 0x100⟩ (BitVec.ofNat 64 w)] }
theorem still_committing : Still (committing 8192 (5 * 2 ^ 60 + 3 * 2 ^ 56 + 24 * 2 ^ 40)) none := by unfold Still; decide +kernel
theorem wit_commit : (committing 0 0).host.txn[(0 : Fin 16)].st = 2
    ∧ (1024 ≤ BV.fld (BitVec.ofNat 64 8192) 0 14 ∧ BV.fld (BitVec.ofNat 64 8192) 0 14 ≤ 8192 ∧ BV.fld (BitVec.ofNat 64 8192) 0 14 % 1024 = 0)
    ∧ (3 ≤ BV.fld (BitVec.ofNat 64 (3 * 2 ^ 60 + 2 ^ 56 + 2 ^ 40)) 60 4 ∧ BV.fld (BitVec.ofNat 64 (12 * 2 ^ 60)) 60 4 ≤ 12)
    ∧ ¬1024 ≤ BV.fld (BitVec.ofNat 64 1023) 0 14 ∧ ¬BV.fld (BitVec.ofNat 64 9216) 0 14 ≤ 8192 ∧ ¬3 ≤ BV.fld (BitVec.ofNat 64 (2 * 2 ^ 60)) 60 4 := by decide +kernel
/-- Slot 63 of an admitted graph without tasks. -/
def emptied : State := { live0 with slots := up.slots.set 63 { st := .admitting, admitted := true } }
theorem still_emptied : Still emptied (some 63) := by unfold Still; decide +kernel
theorem wit_empty_graph : emptied.slots[(63 : Fin 64)].st = .admitting ∧ emptied.slots[(63 : Fin 64)].graph.tasks = [] := by decide +kernel
/-- A GEMM task of one segment without tensors. -/
def staging : State := graphed [2 ^ 224] [{}]
theorem wit_stage : staging.mayStage 0 0 0 = true ∧ staging.mayStage 0 0 1 = false ∧ staging.panelUp 31 = true ∧ staging.panels[(31 : Fin 32)].knows 0 0 0 = false
    ∧ staging.ready 0 0 = true ∧ (∀ r ∈ (staging.buildSeg 0 0 0).refs, staging.understated r = false) ∧ staging.panels[(31 : Fin 32)].grant (staging.buildSeg 0 0 0).granules = some []
    ∧ (staging.panels[(31 : Fin 32)].makeResident 0 0 0 []).isSome = true ∧ staging.roomFor 0 [] = true
    ∧ (pan0 staging { staged := [{}] }).panels[(0 : Fin 32)].knows 0 0 0 = true ∧ (spilling 1 2 none).isFar 2 = true ∧ (spilling 1 2 none).roomFor 0 [2] = false
    ∧ ({ staged := [{ map := List.range 384 }] } : Panel).grant 1 = none := by decide +kernel
/-- Panel 0 with a finished segment that waits for writeback, and with one that has ended. -/
def drained (typ : Nat) (f : Option (BitVec 64)) : State := pan0 live0 { wbq := [{ seg := { typ := typ }, fault := f }] }
def ended (b e : Bool) : State := pan0 live0 { seg := some {}, ended := e, backed := b }
theorem wit_writeback : (drained 0 none).panels[(0 : Fin 32)].wbq = [{ seg := { typ := 0 } }] ∧ (drained 1 (some 3)).panels[(0 : Fin 32)].wbq = [{ seg := { typ := 1 }, fault := some 3 }]
    ∧ (ended false true).panels[(0 : Fin 32)].ended = true ∧ (ended true true).panels[(0 : Fin 32)].backed = true ∧ (ended false false).panels[(0 : Fin 32)].ended = false := by decide +kernel
/-- Slot 0 with one dispatched task. -/
def going (d : Nat) : State := graphed [d] [{ dispatched := true }]
theorem wit_updates : Going (going (6 * 2 ^ 44)) 0 0 6 ∧ UP.clips (nth 0 ((going (6 * 2 ^ 44)).slot 0).graph.uprogs (TD.prog (6 * 2 ^ 44))) = false
    ∧ ¬Going (going (6 * 2 ^ 44)) 0 1 6 ∧ ((UP.reads 0).filterMap fun k => ((going (6 * 2 ^ 44)).taskEnv 0 0).r k) = []
    ∧ UP.clips (1 * 2 ^ 112 + 0) = false := by unfold Going; decide +kernel
theorem wit_moves : Going (going (4 * 2 ^ 44)) 0 0 4 ∧ bitOf (4 * 2 ^ 44) 1021 = false ∧ bitOf (4 * 2 ^ 44) 1022 = false ∧ (going (4 * 2 ^ 44)).movePoison 0 0 = false := by
  unfold Going; decide +kernel
/-- A REDUCE task whose one chunk is done, and one whose chunk is not. -/
def finished : State := reducing { red0 with done := [0], ended := [0] }
theorem wit_collectives : Going finished 0 0 5 ∧ TD.variant ((finished.slot 0).desc 0) ≤ 1 ∧ (finished.fab.reds.find? fun r => r.slot = 0 ∧ r.task = 0) = some { red0 with done := [0], ended := [0] }
    ∧ finished.collDone { red0 with done := [0], ended := [0] } = true ∧ (reducing red0).collDone red0 = false := by unfold Going; decide +kernel
theorem wit_transfer_ends : Going (moving recv0) 0 0 5 ∧ 1 < TD.variant (((moving recv0).slot 0).desc 0) ∧ ((moving recv0).fab.p2p.find? fun x => x.slot = 0 ∧ x.task = 0) = some recv0
    ∧ recv0.total ≠ some recv0.packets ∧ (moving { recv0 with recv := false, sentAll := true }).allAcked 0 ({ recv0 with recv := false, sentAll := true } : P2P).sent = true
    ∧ recv0.sentAll = false ∧ (∀ p, (moving recv0).p2pBlocks 0 0 = some p → p.2.1.length * p.1.blockLen = 0) := by
  refine ⟨by unfold Going; decide +kernel, by decide +kernel, by decide +kernel, by decide +kernel, by decide +kernel, by decide +kernel, ?_⟩
  intro p h
  have : ((moving recv0).p2pBlocks 0 0).all (fun p => p.2.1.length * p.1.blockLen = 0) = true := by decide +kernel
  rw [h] at this; simpa using this
/-- A training slot of a job of one rank, its UPDATE task and its seal. -/
def trainingAs (a : Attempt) (ts : List TaskSt) : State :=
  { ctx0 { liveCtx with cfg := { liveCtx.cfg with grid := 0 } } with
    slots := up.slots.set 0 { st := .running, admitted := true, graph := { tasks := [6 * 2 ^ 44, 7 * 2 ^ 44] }, tasks := ts, att := a } }
theorem wit_votes : (trainingAs {} [{}, {}]).trainSlot 0 = some 0 ∧ up.trainSlot 0 = none ∧ ((trainingAs {} [{}, {}]).slot 0).graph.normTasks = []
    ∧ (trainingAs {} [{}, {}]).voteClean 0 = false ∧ (trainingAs {} [{ status := 1, finished := true }, { dispatched := true }]).voteClean 0 = true
    ∧ ((trainingAs {} [{}, {}]).ctx 0).ranksN = 1 ∧ ((trainingAs {} [{}, {}]).ctx 0).cfg.rank = 0 ∧ (trainingAs {} [{}, {}]).fab.sw = []
    ∧ ((trainingAs { replayBit := true } [{}, {}]).slot 0).att.replayBit = true := by decide +kernel
theorem wit_norm : (({ tasks := [6 * 2 ^ 44 + 2 ^ 989] } : Graph).normTasks ≠ []) ∧ ((graphed [6 * 2 ^ 44 + 2 ^ 989] [{ status := 1, finished := true }]).gradsDone 0 = true)
    ∧ (graphed [6 * 2 ^ 44 + 2 ^ 989] [{}]).trainSlot 0 = some 0 := by decide +kernel

/-! ### Witnesses: notices, Swash, replays, resets, dumps, bring-up -/

/-- A Swash packet: a stop notice of these three words, or operands of an operation of group 64. -/
def swashPkt (l : List (Nat × Nat)) (pl : List Byte) : Frame := pkt 1 1 ([(203, 8)] ++ l) pl
def notice : Frame := swashPkt [(135, 1)] (toLE 8 1 ++ toLE 8 0 ++ toLE 8 0)
/-- A job of two ranks with a training slot. -/
def jobOf2 : State := graphed [6 * 2 ^ 44, 7 * 2 ^ 44] [{}, {}]
theorem wit_notice : Fresh jobOf2 notice ∧ (memberOf (jobOf2.swGroup 0 64) 0).isSome = true ∧ (memberOf (jobOf2.swGroup 0 64) 1).isSome = true
    ∧ ((jobOf2.liveSlots 0).find? fun n => let x := jobOf2.slot n; x.st = .running && x.graph.training && decide (x.step.toNat = 0 ∧ x.attempt.toNat = 0)) = some 0
    ∧ (jobOf2.slot 0).att.voted = false ∧ LS.poison notice.pkt.hdr = true ∧ LS.poison (swashPkt [] []).pkt.hdr = false := by
  unfold Fresh Passes Checked InWindow; decide +kernel
/-- An operation of that job in progress, of the COLL task of slot 0 (use 7). -/
def swashing (op : SwOp) : State := { going (5 * 2 ^ 44 + 3 * 2 ^ 39) with fab := { live0.fab with sw := [op] } }
def op0 : SwOp := { ctx := 0, grp := 64, seq := 0, code := 1, lanes := 1, ranks := [0, 1], self := 0, use := 7 }
theorem wit_swash : Fresh (swashing op0) (swashPkt [(221, 2 ^ 17 + 2 ^ 28 + 2 ^ 24)] (toLE 8 1))
    ∧ memberOf ((swashing op0).swGroup 0 64) ((swashing op0).ctx 0).cfg.rank.toNat = some 0 ∧ memberOf ((swashing op0).swGroup 0 64) 1 = some 1
    ∧ (swashing op0).swFind 0 64 0 = some op0 ∧ 1 ∈ swKids 2 0 ∧ (∀ x ∈ op0.kids, x.1 ≠ 1) ∧ op0.own = none ∧ 0 ∉ swKids 2 1
    ∧ (∃ x ∈ ({ op0 with kids := [(1, 1, 1, [1])] } : SwOp).kids, x.1 = 1) ∧ ((swashing op0).slot 0).st = .running
    ∧ ((swashing op0).slot 0 |>.task 0).finished = false ∧ ((swashing op0).slot 0 |>.task 0).ends = none := by
  unfold Fresh Passes Checked InWindow; decide +kernel
/-- A vote has decided on a replay. -/
def replaying (n : Nat) : State := { live0 with slots := up.slots.set 63 { st := .running, attempt := BitVec.ofNat 3 n, att := { sealing := 2 } } }
theorem wit_replay : (replaying 2).slots[(63 : Fin 64)].attempt.toNat < 3 ∧ 3 ≤ (replaying 3).slots[(63 : Fin 64)].attempt.toNat ∧ (replaying 0).runningSegs 63 = false
    ∧ (replaying 0).writesWait 63 = false ∧ (replaying 0).slots[(63 : Fin 64)].att.sealing = 2 := by decide +kernel
/-- A module in a reset of level l and domain d. -/
def resetting (l d : Nat) : State := { live0 with esc := { active := l, domain := d } }
theorem wit_reset_requests : asked live0 (.contextReset 0) = some (1, 0, 2) ∧ asked live0 (.hardwareFault .module) = some (5, 0, 1) ∧ asked live0 (.hardwareFault (.part 1)) = some (4, 1, 1)
    ∧ live0.awake = true ∧ live0.hostUp 0 = true ∧ ({ live0 with host := {} } : State).hostUp 0 = false ∧ live0.bru.ready = true ∧ live0.esc.active = 0 ∧ (power 4 none).pwr.st = 4
    ∧ live0.esc.ignored ≠ BitVec.allOnes 64 ∧ rising.bru.ready = false ∧ rising.esc.active ≠ 5 := by decide +kernel
theorem wit_reset_relations : (resetting 3 0).remap.domIn (3, 0) (1, 0) = false ∧ (resetting 3 0).remap.domIn (1, 0) (3, 0) = false ∧ (resetting 3 0).esc.queue.length < 15
    ∧ (resetting 4 0).remap.domIn (4, 0) (3, 15) = true ∧ (resetting 4 0).remap.domIn (4, 0) (3, 16) = false ∧ (resetting 3 0).remap.domIn (3, 0) (2, 16) = true
    ∧ (resetting 3 0).remap.domIn (3, 0) (2, 17) = false ∧ max 3 2 = 3 ∧ max 4 3 = 4 := by decide +kernel
theorem wit_function_resets : live0.host.link = true ∧ live0.host.txn[(15 : Fin 16)].st = 0 ∧ 0 ∉ live0.host.d3
    ∧ ({ live0 with host := { live0.host with txn := live0.host.txn.set 15 { st := 1 } } } : State).host.txn[(15 : Fin 16)].st ≠ 0
    ∧ live0.pins.perst = false ∧ live0.pins.pwrGood = true ∧ ({ live0 with pins := { live0.pins with pwrGood := false } } : State).pins.pwrGood = false := by decide +kernel
theorem wit_reset_ends : (∀ l ∈ [1, 2, 3, 4, 5, 6], (resetting l 0).awake = true ∧ (resetting l 0).resetOver = true ∧ (resetting l 0).pwr.waiting = none) ∧ live0.resetOver = false
    ∧ ({ dying [0] with esc := { active := 1, domain := 0 } } : State).outWrites 0 0 = true ∧ (resetting 1 0).outWrites 0 0 = false ∧ (resetting 1 0).outWrites 0 1 = false
    ∧ (∀ w ∈ ([] : List Flaw), w.engine ≠ 3) := by decide +kernel
theorem wit_dump : live0.tickRun = true ∧ ({ live0 with tickRun := false } : State).tickRun = false ∧ live0.dump.held = false ∧ ({ held := true } : Dump).held = true
    ∧ ({ live0 with dump := { collecting := true } } : State).dump.next < ({ live0 with dump := { collecting := true } } : State).dumpUnits.length
    ∧ live0.pwr.rails = true := by decide +kernel
/-- Bring-up stands at a stage. -/
def bringing (st : Nat) : State := { live0 with bru := { running := true, stage := BitVec.ofNat 8 st } }
theorem wit_bringup : (bringing 0).bru.reports = [] ∧ (bringing 6).awake = true ∧ (bringing 6).pins.pwrGood = true ∧ (bringing 6).bru.path = 0 ∧ (bringing 6).bru.reports.length ≤ 20
    ∧ (bringing 1).bru.stage ∈ ([1, 2, 3, 4, 5, 6] : List (BitVec 8)) ∧ (bringing 7).bru.deferred = false ∧ ({ fatal := some 0x80 } : StageFacts).fatal = some 0x80 := by decide +kernel

/-! ### Witnesses: the security root -/

/-- A queue of signatures, and the first receipt key active for job 7. -/
def signing (l : List SigReq) : State :=
  { live0 with sec := { queue := l, rk := (Vector.replicate 32 {}).set 0 { st := 2, job := 7, seq := 1, certified := true } } }
def meas0 : SigReq := { what := .meas 2, tick := 0, msg := [] }
def receipt0 : SigReq := { what := .receipt 0 4, tick := 0, msg := [] }
theorem wit_leaves : (∀ q ∈ (signing [meas0]).sec.queue, q.leaf = none ∧ ∃ tr, q.what = .meas tr) ∧ (signing [meas0]).sec.idLeaf + 1 + 16384 < 2 ^ 20 ∧ meas0 ∉ ([] : List SigReq)
    ∧ (signing [receipt0]).signKey (signing [receipt0]).ctxs[(0 : Fin 16)].cfg.job = some 0 ∧ (signing [receipt0]).sec.rk[(0 : Fin 32)].st = 2
    ∧ (signing [receipt0]).sec.rk[(0 : Fin 32)].leaf + 1 ≠ 61440 ∧ live0.sec.queue = [] := by
  refine ⟨?_, by decide +kernel, by decide +kernel, by decide +kernel, by decide +kernel, by decide +kernel, by decide +kernel⟩
  intro q h
  have : q = meas0 := by simpa [signing] using h
  subst this
  exact ⟨rfl, 2, rfl⟩
theorem wit_releases : ([{ receipt0 with leaf := some 3 }].find? fun x => x.leaf.isSome) = some { receipt0 with leaf := some 3 }
    ∧ ([{ meas0 with leaf := some 3 }].find? fun x => x.leaf.isSome) = some { meas0 with leaf := some 3 }
    ∧ ([({ what := .cert 0, tick := 0, msg := [], leaf := some 3 } : SigReq)].find? fun x => x.leaf.isSome) = some { what := .cert 0, tick := 0, msg := [], leaf := some 3 } := by decide +kernel
/-- A receipt key that is being generated. -/
def making : State := { live0 with sec := { rk := (Vector.replicate 32 {}).set 0 { st := 1, job := 7, seq := 1 } } }
theorem wit_keys : making.sec.rk[(0 : Fin 32)].st = 1 ∧ (∀ q ∈ making.sec.queue, q.what ≠ .cert 0) ∧ making.sec.idLeaf < 2 ^ 20 ∧ making.sec.rk[(1 : Fin 32)].st ≠ 1
    ∧ BV.fld making.sec.rkSel 59 5 = 0 ∧ (∃ c : Fin 16, making.ctxs[c].st = .live ∧ making.ctxs[c].cfg.job = making.sec.rk[(0 : Fin 32)].job)
    ∧ (∀ c : Fin 16, making.ctxs[c].st = .live → making.ctxs[c].cfg.job ≠ making.sec.rk[(1 : Fin 32)].job) := by decide +kernel
/-- A mailbox request of a version and code, 8 bytes long. -/
def boxed (v code : Nat) : State := { live0 with sec := { mbox := tset 0 (tset 0 (tset 0 [] 0 (BitVec.ofNat 8 v)) 1 (BitVec.ofNat 8 code)) 4 8 } }
theorem wit_messages : live0.pins.vin = true ∧ 2 ∉ live0.sec.busy ∧ 2 ∈ ({ busy := [2] } : Sec).busy
    ∧ (∀ i : Fin 32, making.sec.rk[i].st ≠ 0 → making.sec.rk[i].job = 7 → making.sec.rk[i].seq.toNat ≠ 2) ∧ live0.sec.mboxSt ≠ 1 ∧ ({ mboxSt := 1 } : Sec).mboxSt = 1
    ∧ tget 0 (boxed 1 9).sec.mbox 0 ≠ 2 ∧ tget 0 (boxed 2 5).sec.mbox 0 = 2 ∧ tget 0 (boxed 2 5).sec.mbox 1 = 5 ∧ (∀ k < 4, tget 0 (boxed 2 5).sec.mbox (4 + k) = BitVec.ofNat 8 (8 / 256 ^ k)) := by
  decide +kernel
theorem wit_tokens : live0.sec.tokens ≤ 64 ∧ 0 < live0.sec.tokens ∧ ({ tokens := 0 } : Sec).tokens = 0 ∧ live0.sec.idLeaf + 16384 < 2 ^ 20 ∧ 2 ^ 20 ≤ ({ idLeaf := 2 ^ 20 - 16384 } : Sec).idLeaf + 16384
    ∧ (List.replicate 32 (0 : Byte)).length = 32 := by decide +kernel

/-! ### Witnesses: completion -/

theorem wit_rank_packets : Checked live0 (pkt 3 0 [] [2, 2, 0, 0, 6]) ∧ Checked joining (pkt 4 0 [] [0, 0, 2, 0, 6]) ∧ Checked joining (pkt 4 0 [] [0, 0, 0, 3, 6])
    ∧ Checked joining (pkt 5 0 [] [5, 0, 0, 0]) ∧ Checked joining (pkt 6 0 [] []) ∧ Entered live0 0 1 ∧ (live0.ctx 0).st = .live ∧ (live0.peer 0 1).joined = false
    ∧ (live0.ctx 0).cfg.job.toNat = LS.job (pkt 3 0 [] []).pkt.hdr ∧ (live0.ctx 0).cfg.rank.toNat = LS.dst (pkt 3 0 [] []).pkt.hdr := by unfold Checked Entered; decide +kernel
theorem wit_deltas : Fresh (mirrored {}) (deltaLine (lineLedger 0 1 9 0 (List.replicate 128 0))) ∧ deltaPkt (deltaLine 0).pkt false = true ∧ deltaPkt (deltaClose 0 1 []).pkt true = true
    ∧ ((arrives (mirrored {}) (deltaLine 0)).stream 0 1 6).cum < 2 ^ 32 ∧ 2 ^ 20 ≤ ({ idLeaf := 2 ^ 20 } : Sec).idLeaf ∧ mayStop .heartbeat = false := by
  unfold Fresh Passes Checked InWindow; decide +kernel

end Sys2Proof.Tests
end

section
/-! SUPPORT. Reading a context or a slot by its number in range, and what a fold over the state leaves of a field. -/
namespace Sys2Proof.Machine

variable (s : State)

theorem State.ctx_fin (c : Fin 16) : s.ctx c = s.ctxs[c] := by simp [State.ctx]
theorem State.slot_fin (n : Fin 64) : s.slot n = s.slots[n] := by simp [State.slot]

theorem State.ctxs_setCtx (c : Fin 16) (x : Ctx) : (s.setCtx c x).ctxs[c] = x := by
  rw [← State.ctx_fin, State.ctx_setCtx s c x c.isLt]
theorem State.slots_setSlot (n : Fin 64) (x : Slot) : (s.setSlot n x).slots[n] = x := by
  rw [← State.slot_fin, State.slot_setSlot s n x n.isLt]
theorem State.slots_setSlot_ne {n k : Fin 64} (x : Slot) (h : k ≠ n) : (s.setSlot n x).slots[k] = s.slots[k] := by
  rw [← State.slot_fin, ← State.slot_fin, State.slot_setSlot_ne s n k x (fun e => h (Fin.ext e.symm))]

/-- A field that no step of a fold changes is as it was after the fold. -/
theorem State.foldl_field {α β : Type} (f : State → β) {g : State → α → State} (h : ∀ t a, f (g t a) = f t) (l : List α) :
    f (l.foldl g s) = f s := by
  induction l generalizing s with
  | nil => rfl
  | cons a l ih => rw [List.foldl_cons, ih, h]

end Sys2Proof.Machine
end

section
/-! SUPPORT. What CREATE does with the offered architecture major (spec/00 R16, spec/10 R264). -/
namespace Sys2Proof.Machine

variable (s : State)

/-! ### Discarding orphans -/

@[simp] theorem State.freeRange_ctxs (c a n : Nat) : (s.freeRange c a n).ctxs = s.ctxs := rfl
@[simp] theorem State.freeRange_tdp (c a n : Nat) : (s.freeRange c a n).tdp = s.tdp := rfl
@[simp] theorem State.freeRange_reserve (c a n : Nat) : (s.freeRange c a n).pager.reserve = s.pager.reserve := rfl

/-- The tensors of a list have their pages freed, one after another. -/
def State.freeAll (l : List TRec) : State := l.foldl (fun s t => s.freeRange t.ctx t.place (t.allPages * 2 ^ 21)) s

@[simp] theorem State.freeAll_ctxs (l : List TRec) : (s.freeAll l).ctxs = s.ctxs := by
  unfold State.freeAll
  exact s.foldl_field State.ctxs (fun _ _ => State.freeRange_ctxs ..) l
@[simp] theorem State.freeAll_tdp (l : List TRec) : (s.freeAll l).tdp = s.tdp := by
  unfold State.freeAll
  exact s.foldl_field State.tdp (fun _ _ => State.freeRange_tdp ..) l
@[simp] theorem State.freeAll_reserve (l : List TRec) : (s.freeAll l).pager.reserve = s.pager.reserve := by
  unfold State.freeAll
  exact s.foldl_field (·.pager.reserve) (fun _ _ => State.freeRange_reserve ..) l
@[simp] theorem State.freeAll_ctx (l : List TRec) (c : Nat) : (s.freeAll l).ctx c = s.ctx c := by simp [State.ctx]

/-- Discarded orphans: their pages are freed, and the context forgets them (R424). -/
theorem State.dropOrphans_eq (c : Nat) :
    s.dropOrphans c = (s.freeAll (s.ctx c).orphans).setCtx c { s.ctx c with orphans := [], orphan := false, orphGen := 0 } := by
  have hctx := s.freeAll_ctx (s.ctx c).orphans c
  unfold State.freeAll at hctx ⊢
  simp only [State.dropOrphans, hctx]

@[simp] theorem State.dropOrphans_tdp (c : Nat) : (s.dropOrphans c).tdp = s.tdp := by simp [State.dropOrphans_eq]
@[simp] theorem State.dropOrphans_reserve (c : Nat) : (s.dropOrphans c).pager.reserve = s.pager.reserve := by
  simp [State.dropOrphans_eq]

theorem State.dropOrphans_ctx_ne {c d : Nat} (h : c ≠ d) : (s.dropOrphans c).ctx d = s.ctx d := by
  simp [State.dropOrphans_eq, h]

/-! ### Quotas -/

variable {s}

/-- The quota rules (R265, R297, R356) read only which contexts are LIVE, their configurations, the lending reserve and the
partitions. -/
theorem State.quotasOk_congr {t : State} (hst : ∀ c, (s.ctx c).st = (t.ctx c).st) (hcfg : ∀ c, (s.ctx c).cfg = (t.ctx c).cfg)
    (hres : s.pager.reserve = t.pager.reserve) (htdp : s.tdp = t.tdp) : s.quotasOk = t.quotasOk := by
  have hlive : s.liveCtxs = t.liveCtxs := by simp only [State.liveCtxs, State.live, hst]
  simp only [State.quotasOk, State.panelsOk, State.hbmOk, State.tdpOk, hlive, hcfg, hres, htdp]

/-- The quota rules after a create that discards orphans are those of the state with the context merely LIVE. -/
theorem State.quotasOk_dropOrphans (c : Fin 16) {x y : Ctx} (hst : x.st = y.st) (hcfg : x.cfg = y.cfg) :
    ((s.dropOrphans c).setCtx c x).quotasOk = (s.setCtx c y).quotasOk := by
  have hctx : ∀ d : Nat, ((s.dropOrphans c).setCtx c x).ctx d = (if d = c.val then x else s.ctx d)
      ∧ (s.setCtx c y).ctx d = if d = c.val then y else s.ctx d := by
    intro d
    by_cases hd : d = c.val
    · subst hd; simp
    · simp [hd, Ne.symm hd, s.dropOrphans_ctx_ne (Ne.symm hd)]
  apply State.quotasOk_congr
  · intro d
    rw [(hctx d).1, (hctx d).2]
    split
    · exact hst
    · rfl
  · intro d
    rw [(hctx d).1, (hctx d).2]
    split
    · exact hcfg
    · rfl
  · simp
  · simp

/-! ### The create -/

/-- What a create without reattach makes of a context: LIVE, answer 2, nothing left of its earlier life (R264). -/
def Ctx.created (x : Ctx) : Ctx :=
  { x with st := .live, answer := 2, flags := [], tensors := [], orphans := [], orphan := false, orphGen := 0
           swSeq := [], receipts := [], epochs := [], twinWait := none, twinTries := 0, leafWait := none
           progress := 0, parSums := [], freeing := [], aband := [] }

/-- An offer other than 2 leaves the context FREE and gives the answer 2 (R16). -/
theorem State.createCtx_other_major {c offer : Nat} (re : Bool) (regen : BitVec 8) (hready : s.bru.ready = true)
    (hfree : (s.ctx c).st = .free) (hoffer : offer ≠ 2) :
    s.createCtx c offer re regen = some (s.setCtx c { s.ctx c with answer := 2 }) := by
  simp [State.createCtx, hready, hfree, hoffer]

/-- An offer of 2 without reattach makes the context LIVE where the quotas fit (R16, R264). -/
theorem State.createCtx_major_two {c : Fin 16} (regen : BitVec 8) (hready : s.bru.ready = true) (hfree : (s.ctx c).st = .free)
    (hquota : (s.setCtx c { s.ctx c with st := .live }).quotasOk = true) :
    s.createCtx c 2 false regen = some ((s.dropOrphans c).setCtx c (s.ctx c).created) := by
  have hfit : ((s.dropOrphans c).setCtx c (s.ctx c).created).quotasOk = true := by
    rw [← hquota]
    exact State.quotasOk_dropOrphans c rfl rfl
  simpa [State.createCtx, Ctx.created, hready, hfree] using hfit

/-- With a running tick, a create that is not refused commits what `createCtx` gives (R404, R452). -/
theorem exec_create_of_some {c offer : Nat} {re : Bool} {regen : BitVec 8} {t : State} (htick : s.tickRun = true)
    (h : s.createCtx c offer re regen = some t) : exec (.create c offer re regen) s = .next t := by
  change execCreate c offer re regen s = .next t
  simp [execCreate, htick, h]

end Sys2Proof.Machine
end

section
namespace Sys2Proof.Proofs
open Machine Stated

/-- Settles O24: with another major the create is the answer alone; with major 2 it makes the context LIVE with that answer. -/
theorem creationTakesArchitectureMajorTwo : Obligations.CreationTakesArchitectureMajorTwo := by
  unfold Obligations.CreationTakesArchitectureMajorTwo
  intro c offer re regen s htick hready hfree
  rw [← State.ctx_fin] at hfree ⊢
  refine ⟨fun hoffer => ⟨?_, ?_, ?_⟩, fun hoffer hre hquota => ?_⟩
  · exact exec_create_of_some htick (State.createCtx_other_major re regen hready hfree hoffer)
  · rw [State.ctxs_setCtx]; exact hfree
  · rw [State.ctxs_setCtx]
  · subst hoffer hre
    refine ⟨_, exec_create_of_some htick (State.createCtx_major_two regen hready hfree hquota), ?_⟩
    have hctx := State.ctxs_setCtx (s.dropOrphans c) c (s.ctx c).created
    exact ⟨congrArg Ctx.st hctx, congrArg Ctx.answer hctx⟩

end Sys2Proof.Proofs
end

section
/-! SUPPORT. Admission of a graph with a descriptor of another version or size (spec/00 R15, spec/10 R275 to R277). -/
namespace Sys2Proof.Machine

/-! ### The checks -/

/-- The version check stands first among a task's checks (R277, code 0x01). -/
theorem taskFail_version (v : AdmEnv) (g : Graph) (es : List TaskEnv) (i : Nat) (e : TaskEnv)
    (h : fld e.d 56 8 ≠ 2 ∨ fld e.d 48 8 ≠ 128) : taskFail v g es i e = some 1 := by
  unfold taskFail
  refine if_neg fun hck => ?_
  obtain ⟨hdesc, -⟩ := Bool.and_eq_true_iff.mp (Bool.and_eq_true_iff.mp hck).1
  obtain ⟨hver, hsize⟩ := Bool.and_eq_true_iff.mp hdesc
  exact h.elim (· (of_decide_eq_true hver)) (· (of_decide_eq_true hsize))

/-- The first failing check over a graph's tasks in their order, with the task's index. -/
def tasksFail (v : AdmEnv) (g : Graph) : Option (Nat × Nat) :=
  let es := g.tasks.map (v.task g)
  ((List.range es.length).zip es).findSome? fun (i, e) => (taskFail v g es i e).map fun c => (c, i)

/-- One check of the header before the rest of admission: it fails with a code at task 0, or the rest decides. -/
theorem headerCheck_or {c : Prop} [Decidable c] {code : Nat} {rest tasks : Option (Nat × Nat)}
    (h : (∃ code, rest = some (code, 0)) ∨ rest = tasks) :
    (∃ code', (if c then some (code, 0) else rest) = some (code', 0)) ∨ (if c then some (code, 0) else rest) = tasks := by
  split
  · exact .inl ⟨code, rfl⟩
  · exact h

/-- Admission of a graph with tasks either fails a check of the header or goes by the tasks (R276, R277). -/
theorem admitGraph_header_or_tasks (v : AdmEnv) {g : Graph} (room : Option Nat) (cpl : Nat) (cplRoom : Option Nat)
    (htasks : g.tasks ≠ []) :
    (∃ code, admitGraph v g room cpl cplRoom = some (code, 0)) ∨ admitGraph v g room cpl cplRoom = tasksFail v g := by
  unfold admitGraph
  refine headerCheck_or ?_
  cases room with
  | none => exact .inl ⟨5, rfl⟩
  | some room =>
    refine headerCheck_or <| headerCheck_or <| headerCheck_or <| headerCheck_or <| headerCheck_or <| .inr ?_
    rw [if_neg (by simpa using htasks)]
    rfl

/-- Admission of a graph with tasks whose header and addresses pass goes by the tasks (R276, R277). -/
theorem admitGraph_of_header (v : AdmEnv) {g : Graph} {room cpl cplRoom : Nat} (htasks : g.tasks ≠ [])
    (haddr : g.addr < 2 ^ 40) (halign : g.addr % 64 = 0) (hcpl : cpl % 64 = 0) (hrec : 32 * GH.ntask g.hdr ≤ cplRoom)
    (hver : fld g.hdr 56 8 = 2) (hsize : fld g.hdr 48 8 = 64) (hresv : GH.resv0 g.hdr = true) (hlim : GH.limits g.hdr = true)
    (hspan : GH.span g.hdr ≤ room) : admitGraph v g (some room) cpl (some cplRoom) = tasksFail v g := by
  unfold admitGraph
  dsimp only
  rw [if_neg (not_or.mpr ⟨not_not_intro haddr, not_not_intro halign⟩), if_neg (by simp [hcpl]), if_neg (by simp [hrec]),
    if_neg (by simp [hver, hsize]), if_neg (by simp [hresv]), if_neg (by simp [hlim, hspan]), if_neg (by simpa using htasks)]
  rfl

/-- A descriptor of another version or size anywhere in the graph fails some task. -/
theorem tasksFail_of_version (v : AdmEnv) {g : Graph} {i : Nat} (hi : i < g.tasks.length)
    (h : fld g.tasks[i] 56 8 ≠ 2 ∨ fld g.tasks[i] 48 8 ≠ 128) : ∃ code task, tasksFail v g = some (code, task) := by
  suffices hsome : (tasksFail v g).isSome = true by
    obtain ⟨⟨code, task⟩, hfail⟩ := Option.isSome_iff_exists.mp hsome
    exact ⟨code, task, hfail⟩
  unfold tasksFail
  rw [List.findSome?_isSome_iff]
  refine ⟨(i, v.task g g.tasks[i]), ?_, ?_⟩
  · rw [List.mem_iff_getElem]
    exact ⟨i, by simpa using hi, by simp⟩
  · simp [taskFail_version v g _ i (v.task g g.tasks[i]) h]

/-- A first descriptor of another version or size is the first failure: code 0x01 at task 0. -/
theorem tasksFail_first_version (v : AdmEnv) {g : Graph} (h0 : 0 < g.tasks.length)
    (h : fld g.tasks[0] 56 8 ≠ 2 ∨ fld g.tasks[0] 48 8 ≠ 128) : tasksFail v g = some (1, 0) := by
  obtain ⟨d, ds, hds⟩ := List.exists_cons_of_length_pos h0
  simp only [hds, List.getElem_cons_zero] at h
  simp only [tasksFail, hds, List.map_cons, List.length_cons, List.range_succ_eq_map, List.zip_cons_cons, List.findSome?_cons,
    taskFail_version v g _ 0 (v.task g d) h, Option.map_some]

/-! ### The end of admission -/

variable {s : State}

/-- Admission of a slot whose graph fails a check: the slot is to be REJECTED with that code and task (R275, R279). -/
theorem State.endAdmission_rejects {n code task : Nat} (hst : (s.slot n).st = .admitting) (hadm : (s.slot n).admitted = false)
    (hleave : (s.slot n).leave = none) (hlive : s.live (s.slot n).ctx.toNat = true) (hfail : s.admitSlot n = some (code, task)) :
    ∃ h, s.endAdmission n = s.setSlot n { s.slot n with hash := h, leave := some (.rejected, code, task) } := by
  simp only [State.endAdmission, hst, hadm, hleave, hlive, hfail]
  exact ⟨_, rfl⟩

/-! ### The tick at which a slot leaves -/

/-- Of the slots, leaving changes the one that leaves: its state, and nothing is due any more. -/
theorem State.leaveSlot_slots (n : Nat) (st : SlotSt) :
    (s.leaveSlot n st).slots = (s.setSlot n { s.slot n with st := st, leave := none }).slots := by
  unfold State.leaveSlot
  dsimp only
  split <;> rfl

/-- A slot to be REJECTED is so after the tick, with its code and task, and no other slot changes (R275). -/
theorem State.leaveDue_rejected_slots {n : Fin 64} {code task : Nat} (h : s.slots[n].leave = some (.rejected, code, task)) :
    (s.leaveDue n).slots = (s.setSlot n { s.slots[n] with st := .rejected, leave := none, errCode := BitVec.ofNat 8 code
                                                          errTask := BitVec.ofNat 20 task }).slots := by
  rw [← State.slot_fin] at h ⊢
  simp only [State.leaveDue, h, if_pos, State.leaveSlot_slots, State.slot_setSlot s n _ n.isLt]
  simp [State.setSlot]

end Sys2Proof.Machine
end

section
namespace Sys2Proof.Proofs
open Machine Stated

/-- A graph that `HeaderOk` describes passes every check of the header, so that its tasks decide (R277). -/
theorem admitSlot_of_headerOk {s : State} {n : Fin 64} (hhdr : HeaderOk s n) (htasks : s.slots[n].graph.tasks ≠ []) :
    s.admitSlot n = tasksFail (s.admEnv n) s.slots[n].graph := by
  obtain ⟨-, haddr, hlt, halign, hcpl, ⟨cplRoom, hcplRoom, hrec⟩, hver, hsize, hresv, hlim, ⟨room, hroom, hspan⟩⟩ := hhdr
  rw [State.admitSlot, State.slot_fin, hroom, hcplRoom]
  exact admitGraph_of_header _ htasks (haddr ▸ hlt) (haddr ▸ halign) hcpl hrec hver hsize hresv hlim hspan

/-- A failed check makes the slot one that is to be REJECTED with the check's code and task (R275). -/
theorem runs_admissionEnd_rejects {s : State} {n : Fin 64} {code task : Nat} (hst : s.slots[n].st = .admitting)
    (hadm : s.slots[n].admitted = false) (hleave : s.slots[n].leave = none) (hlive : s.ctxs[s.slots[n].ctx.toFin].st = .live)
    (hfail : s.admitSlot n = some (code, task)) :
    Runs (.admissionEnd n) s fun t => t.slots[n].admitted = false ∧ t.slots[n].leave = some (.rejected, code, task) := by
  rw [← State.ctx_fin] at hlive
  rw [← State.slot_fin] at hst hadm hleave hlive
  have hlive' : s.live (s.slot n).ctx.toNat = true := decide_eq_true hlive
  obtain ⟨h, hend⟩ := State.endAdmission_rejects hst hadm hleave hlive' hfail
  have hslot := s.slots_setSlot n { s.slot n with hash := h, leave := some (.rejected, code, task) }
  exact ⟨_, congrArg Host.Outcome.next hend, (congrArg Slot.admitted hslot).trans hadm, congrArg Slot.leave hslot⟩

/-- Settles O27: another version fails its task's first check, so admission gives a code, and 0x01 when the first task is the one. -/
theorem admissionRejectsOtherDescriptorVersions : Obligations.AdmissionRejectsOtherDescriptorVersions := by
  unfold Obligations.AdmissionRejectsOtherDescriptorVersions
  intro n s hst hadm hleave hlive
  refine ⟨fun i hi hbad => ?_, fun hhdr h0 hbad => ?_, fun code task t hdue => ?_⟩
  · have htasks : s.slots[n].graph.tasks ≠ [] := List.ne_nil_of_length_pos (Nat.zero_lt_of_lt hi)
    obtain ⟨code, task, hfail⟩ : ∃ code task, s.admitSlot n = some (code, task) := by
      rw [State.admitSlot, State.slot_fin]
      obtain ⟨code, hcode⟩ | htasksFail := admitGraph_header_or_tasks (s.admEnv n) _ _ _ htasks
      · exact ⟨code, 0, hcode⟩
      · rw [htasksFail]
        exact tasksFail_of_version _ hi hbad
    obtain ⟨t, hrun, hadm', hleave'⟩ := runs_admissionEnd_rejects hst hadm hleave hlive hfail
    exact ⟨t, hrun, hadm', code, task, hleave'⟩
  · have hfail : s.admitSlot n = some (1, 0) := by
      rw [admitSlot_of_headerOk hhdr (List.ne_nil_of_length_pos h0), tasksFail_first_version _ h0 hbad]
    exact runs_admissionEnd_rejects hst hadm hleave hlive hfail
  · simp only [State.leaveDue_rejected_slots hdue, State.slots_setSlot, true_and]
    exact fun k hk => State.slots_setSlot_ne t _ hk

end Sys2Proof.Proofs
end

section
/-! SUPPORT. How a block scale byte reads (spec/02 R39): of an element of a queue entry and of a tensor in memory. -/
namespace Sys2Proof.Machine

theorem fld_lt (x lo w : Nat) : fld x lo w < 2 ^ w := Nat.mod_lt _ (Nat.two_pow_pos w)

@[simp] theorem Val.scale_nan (k : Int) : Val.nan.scale k = .nan := rfl

/-- Exact scalings add their exponents. -/
@[simp] theorem Val.scale_scale (v : Val) (j k : Int) : (v.scale j).scale k = v.scale (j + k) := by
  cases v with
  | nan => rfl
  | inf neg => rfl
  | fin neg m e =>
    by_cases hm : m = 0
    · simp [Val.scale, hm]
    · simp [Val.scale, hm, Int.add_assoc]

theorem Fmt.ne_selv_of_scaled {f : Fmt} (hf : f.scaled = true) : f ≠ .selv := by
  rintro rfl
  exact absurd hf (by decide)

/-- The value of an element relative to its block scale: its bobble's where it has one, else its code's (R41, R60). -/
def relVal (f : Fmt) (code : Nat) (bob : Option Nat) : Val := bob.elim (f.decode code) (Fmt.decode .e4m3)

/-! ### Of a queue entry -/

/-- The scale byte of element k of an entry: the element's own from a cable, else that of the 64-bit word it starts in. -/
def Ent.scaleByte (x : Ent) (f : Fmt) (cable : Bool) (k : Nat) : Nat :=
  fld x.sc.toNat (8 * (if cable then k else (x.off * 8 + k * f.width) / 64)) 8

theorem Ent.scaleByte_lt (x : Ent) (f : Fmt) (cable : Bool) (k : Nat) : x.scaleByte f cable k < 256 := fld_lt _ _ 8

/-- An element of a block-scaled entry has its byte's exponent, and a byte 0xFF makes it NaN (R39). -/
theorem Ent.el_of_scaled {f : Fmt} (hf : f.scaled = true) (x : Ent) (cable : Bool) {k : Nat} (hk : k < x.cut) :
    x.el f cable k = if x.scaleByte f cable k = 0xFF then { v := .nan, s := 0 } else
      { v := relVal f (fld x.data.toNat (k * f.width) f.width) (bobbleOf (x.slotsOf k) ((x.blk + k) % 32))
        s := (x.scaleByte f cable k : Int) - 127 } := by
  unfold Ent.el
  rw [if_neg (Nat.not_le_of_lt hk)]
  cases hbob : bobbleOf (x.slotsOf k) ((x.blk + k) % 32) <;> exact if_pos hf

/-! ### Of a tensor in memory -/

/-- The stored value of a block-scaled element: NaN under 0xFF, else its relative value at the byte's exponent (R39, R41). -/
theorem elemVal_of_scaled {f : Fmt} (hf : f.scaled = true) (c code : Nat) (bob : Option Nat) :
    elemVal f c code bob = if c = 0xFF then .nan else (relVal f code bob).scale ((c : Int) - 127) := by
  by_cases hc : c = 0xFF
  · simp [elemVal, hf, hc]
  · cases bob <;> simp [elemVal, relVal, scaledVal, hf, hc]

/-- The scale byte multiplies what the element holds under the byte 127, whose factor is 1. -/
theorem elemVal_eq_scale_unit {f : Fmt} (hf : f.scaled = true) {c : Nat} (hc : c ≠ 0xFF) (code : Nat) (bob : Option Nat) :
    elemVal f c code bob = (elemVal f 127 code bob).scale ((c : Int) - 127) := by
  simp [elemVal_of_scaled hf, hc]

/-- An element of a block-scaled tensor is read under the scale byte of its block (R295). -/
theorem TRec.val_of_scaled {t : TRec} (hf : t.f.scaled = true) (hraw : t.raw = false) (m : Tbl Byte) (base row col : Nat) :
    t.val m base row col = elemVal t.f (rdB m (t.key base + t.scaleOfs + row * t.rowScales + col / t.blk)).toNat
      (t.code m base row col) (bobbleOf (t.bobWords m base row col) (col % 32)) := by
  have hselv : t.selv = false := by simp [TRec.selv, Fmt.ne_selv_of_scaled hf]
  have hscaled : t.scaled = true := by simp [TRec.scaled, hraw, hf]
  simp [TRec.val, TRec.scale, hselv, hscaled]

end Sys2Proof.Machine
end

section
namespace Sys2Proof.Proofs
open Machine

/-- Settles O19: an entry's and a tensor's element both take the byte's exponent, or are NaN when the byte is 0xFF. -/
theorem blockScaleBytesScaleOrPoisonTheirBlock : Obligations.BlockScaleBytesScaleOrPoisonTheirBlock := by
  unfold Obligations.BlockScaleBytesScaleOrPoisonTheirBlock
  intro f hf
  refine ⟨fun x k cable hk => ?_, fun t m base row col htf hraw => ?_⟩
  · change (x.scaleByte f cable k ≠ 0xFF → _) ∧ (x.scaleByte f cable k = 0xFF → _)
    have hlt := x.scaleByte_lt f cable k
    rw [Ent.el_of_scaled hf x cable hk]
    refine ⟨fun hc => ?_, fun hc i => ?_⟩
    · rw [if_neg hc]
      exact ⟨rfl, by dsimp only; omega, by dsimp only; omega⟩
    · rw [if_pos hc, Val.scale_nan]
  · subst htf
    rw [TRec.val_of_scaled hf hraw]
    refine ⟨fun hc => elemVal_eq_scale_unit hf hc _ _, fun hc => ?_⟩
    rw [elemVal_of_scaled hf, if_pos hc]

end Sys2Proof.Proofs
end

section
/-! SUPPORT. Exact combination (spec/03 R74): two's complement of ACC, Skein words, adder trees and the words of a piece. -/
namespace Sys2Proof.Machine

/-! ### Two's complement -/

/-- Sign extension of w bits is the balanced residue modulo 2^w. -/
theorem sext_eq_bmod (x : Nat) {w : Nat} (hw : 0 < w) : sext x w = (x : Int).bmod (2 ^ w) := by
  obtain ⟨v, rfl⟩ := Nat.exists_eq_succ_of_ne_zero (Nat.ne_of_gt hw)
  have hhalf : (((2 ^ (v + 1) : Nat) : Int) + 1) / 2 = (2 ^ v : Nat) := by rw [Nat.pow_succ]; omega
  rw [Int.bmod_def, Nat.succ_eq_add_one, hhalf, ← Int.natCast_emod, sext, Nat.add_sub_cancel]
  by_cases hneg : 2 ^ v ≤ x % 2 ^ (v + 1)
  · rw [if_neg (Int.not_lt.mpr (Int.ofNat_le.mpr hneg))]
    simp [hneg]
  · rw [if_pos (Int.ofNat_lt.mpr (Nat.not_le.mp hneg))]
    simp [hneg]

theorem natCast_toTwos (w : Nat) (i : Int) : (toTwos w i : Int) = i % (2 ^ w : Nat) :=
  Int.toNat_of_nonneg (Int.emod_nonneg i (Int.natCast_ne_zero.mpr (Nat.ne_of_gt (Nat.two_pow_pos w))))

theorem toTwos_lt (w : Nat) (i : Int) : toTwos w i < 2 ^ w := by
  rw [← Int.ofNat_lt, natCast_toTwos]
  exact Int.emod_lt_of_pos i (Int.natCast_pos.mpr (Nat.two_pow_pos w))

theorem sext_toTwos {w : Nat} (hw : 0 < w) (i : Int) : sext (toTwos w i) w = i.bmod (2 ^ w) := by
  rw [sext_eq_bmod _ hw, natCast_toTwos, Int.emod_bmod]

/-- A summand may wrap before the sum does. -/
theorem toTwos_bmod_add (w : Nat) (i j : Int) : toTwos w (i.bmod (2 ^ w) + j) = toTwos w (i + j) := by
  rw [toTwos, toTwos, ← Int.emod_add_emod, Int.bmod_emod, Int.emod_add_emod]

/-! ### Skein words -/

theorem Sk.add_comm (a b : Sk) : a.add b = b.add a := by
  simp only [Sk.add, Bool.or_comm, Int.add_comm]

theorem Sk.add_assoc (a b c : Sk) : (a.add b).add c = a.add (b.add c) := by
  simp only [Sk.add, Bool.or_assoc, Int.add_assoc]

@[simp] theorem Sk.zero_add (a : Sk) : Sk.zero.add a = a := by simp [Sk.add, Sk.zero]
@[simp] theorem Sk.add_zero (a : Sk) : a.add Sk.zero = a := by rw [Sk.add_comm, Sk.zero_add]

/-- The special-state bits of a Skein word, in the order of R67. -/
def Sk.bits (k : Sk) : Nat := k.sat.toNat + 2 * k.ninf.toNat + 4 * k.pinf.toNat + 8 * k.nan.toNat

theorem Sk.toNat_toW (k : Sk) : k.toW.toNat = 2 ^ 192 * k.bits + toTwos 192 k.acc := by
  have hacc := toTwos_lt 192 k.acc
  have hbits : k.bits < 16 := by
    have := k.sat.toNat_lt; have := k.ninf.toNat_lt; have := k.pinf.toNat_lt; have := k.nan.toNat_lt
    unfold Sk.bits
    omega
  rw [Sk.toW, BitVec.toNat_ofNat, ← Sk.bits, Nat.add_comm, Nat.mod_eq_of_lt]
  omega

theorem Sk.fld_toW_acc (k : Sk) : BV.fld k.toW 0 192 = toTwos 192 k.acc := by
  rw [BV.fld, Sk.toNat_toW, fld, Nat.shiftRight_zero, Nat.mul_add_mod, Nat.mod_eq_of_lt (toTwos_lt 192 k.acc)]

theorem Sk.getLsbD_toW_bits (k : Sk) (j : Nat) : k.toW.getLsbD (192 + j) = k.bits.testBit j := by
  rw [BitVec.getLsbD, Sk.toNat_toW, Nat.testBit_two_pow_mul_add _ (toTwos_lt 192 k.acc), if_neg (by omega),
    Nat.add_sub_cancel_left]

theorem Sk.testBit_bits (k : Sk) : k.bits.testBit 0 = k.sat ∧ k.bits.testBit 1 = k.ninf ∧ k.bits.testBit 2 = k.pinf
    ∧ k.bits.testBit 3 = k.nan := by
  obtain ⟨nan, pinf, ninf, sat, acc⟩ := k
  dsimp only [Sk.bits]
  clear acc
  revert nan pinf ninf sat
  decide

/-- What a Skein word keeps of its fields: the special-state bits, and ACC modulo 2^192 (R67). -/
theorem Sk.of_toW (k : Sk) : Sk.of k.toW = { k with acc := k.acc.bmod (2 ^ 192) } := by
  obtain ⟨hsat, hninf, hpinf, hnan⟩ := k.testBit_bits
  rw [Sk.of, k.fld_toW_acc, sext_toTwos (by decide), k.getLsbD_toW_bits 3, k.getLsbD_toW_bits 2, k.getLsbD_toW_bits 1,
    k.getLsbD_toW_bits 0, hsat, hninf, hpinf, hnan]

/-- A sum may be cut to a word before a further contribution or after it. -/
theorem Sk.toW_of_toW_add (k a : Sk) : ((Sk.of k.toW).add a).toW = (k.add a).toW := by
  rw [Sk.of_toW]
  simp only [Sk.toW, Sk.add, toTwos_bmod_add]

theorem Sk.toW_add_of_toW (a k : Sk) : (a.add (Sk.of k.toW)).toW = (a.add k).toW := by
  rw [Sk.add_comm, Sk.toW_of_toW_add, Sk.add_comm]

/-! ### The adder tree -/

/-- One contribution rounded and added to a sum and its climb. -/
def sumStep (an : Anc) (p : Sk × Bool) (c : Contrib) : Sk × Bool := (p.1.add (c.round an).1, p.2 || (c.round an).2)

theorem sliceSum_eq_foldl (an : Anc) (cs : List Contrib) : sliceSum an cs = cs.foldl (sumStep an) (Sk.zero, false) := rfl

/-- Contributions summed onto a sum so far add their own sum to it; a climb of either shows. -/
theorem foldl_sumStep (an : Anc) (cs : List Contrib) (p : Sk × Bool) :
    cs.foldl (sumStep an) p = (p.1.add (sliceSum an cs).1, p.2 || (sliceSum an cs).2) := by
  rw [sliceSum_eq_foldl]
  induction cs generalizing p with
  | nil => simp
  | cons c cs ih =>
    rw [List.foldl_cons, List.foldl_cons, ih, ih (sumStep an (Sk.zero, false) c)]
    simp [sumStep, Sk.add_assoc, Bool.or_assoc]

theorem sliceSum_append (an : Anc) (cs ds : List Contrib) :
    sliceSum an (cs ++ ds) = ((sliceSum an cs).1.add (sliceSum an ds).1, (sliceSum an cs).2 || (sliceSum an ds).2) := by
  rw [sliceSum_eq_foldl, List.foldl_append, foldl_sumStep, ← sliceSum_eq_foldl]

theorem sliceSum_cons (an : Anc) (c : Contrib) (cs : List Contrib) :
    sliceSum an (c :: cs) = ((c.round an).1.add (sliceSum an cs).1, (c.round an).2 || (sliceSum an cs).2) := by
  rw [sliceSum_eq_foldl, List.foldl_cons, foldl_sumStep]
  simp [sumStep]

/-- The order of the contributions does not matter (R74). -/
theorem sliceSum_perm (an : Anc) {cs ds : List Contrib} (h : cs.Perm ds) : sliceSum an cs = sliceSum an ds := by
  induction h with
  | nil => rfl
  | cons c _ ih => rw [sliceSum_cons, sliceSum_cons, ih]
  | swap c d cs =>
    simp only [sliceSum_cons, ← Sk.add_assoc, ← Bool.or_assoc]
    rw [Sk.add_comm (c.round an).1, Bool.or_comm (c.round an).2]
  | trans _ _ ih₁ ih₂ => exact ih₁.trans ih₂

/-! ### The words of a piece -/

/-- A Skein word with another one's sum and bits combined into it. -/
def addW (v w : SkeinW) : SkeinW := ((Sk.of v).add (Sk.of w)).toW

theorem addW_right_comm (v w x : SkeinW) : addW (addW v w) x = addW (addW v x) w := by
  unfold addW
  rw [Sk.toW_of_toW_add, Sk.toW_of_toW_add, Sk.add_assoc, Sk.add_comm (Sk.of w), Sk.add_assoc]

/-- A contribution to a piece changes the word it names, alone. -/
theorem tget_accAdd (t : Tbl SkeinW) (i j : Nat) (w : SkeinW) :
    tget 0 (accAdd 0 t i w) j = if j = i then addW (tget 0 t i) w else tget 0 t j := by
  rw [accAdd, if_pos rfl, tget_tset, addW]

/-- What one contribution of a list makes of the word j. -/
def addWAt (j : Nat) (v : SkeinW) (e : Nat × SkeinW) : SkeinW := if j = e.1 then addW v e.2 else v

theorem addWAt_right_comm (j : Nat) (v : SkeinW) (e f : Nat × SkeinW) : addWAt j (addWAt j v e) f = addWAt j (addWAt j v f) e := by
  unfold addWAt
  by_cases he : j = e.1
  · by_cases hf : j = f.1
    · simp only [if_pos he, if_pos hf, addW_right_comm]
    · simp only [if_neg hf]
  · simp only [if_neg he]

/-- Each word of a piece sums the contributions that name it. -/
theorem tget_foldl_accAdd (t : Tbl SkeinW) (l : List (Nat × SkeinW)) (j : Nat) :
    tget 0 (l.foldl (fun u e => accAdd 0 u e.1 e.2) t) j = l.foldl (addWAt j) (tget 0 t j) := by
  refine (List.foldl_hom (tget 0 · j) fun u e => ?_).symm
  rw [tget_accAdd, addWAt]
  by_cases h : j = e.1
  · rw [if_pos h, if_pos h, h]
  · rw [if_neg h, if_neg h]

theorem tget_foldl_accAdd_perm (t : Tbl SkeinW) {l l' : List (Nat × SkeinW)} (h : l.Perm l') (j : Nat) :
    tget 0 (l.foldl (fun u e => accAdd 0 u e.1 e.2) t) j = tget 0 (l'.foldl (fun u e => accAdd 0 u e.1 e.2) t) j := by
  rw [tget_foldl_accAdd, tget_foldl_accAdd]
  exact h.foldl_eq' (fun e _ f _ v => addWAt_right_comm j v e f) _

end Sys2Proof.Machine
end

section
namespace Sys2Proof.Proofs
open Machine

/-- Settles O18: addition of the fields is associative and commutative, and wrapping ACC to a word commutes with it, so no order
or grouping shows in a tree, a Skein, an exchange or a piece. -/
theorem contributionsCombineExactly : Obligations.ContributionsCombineExactly := by
  unfold Obligations.ContributionsCombineExactly
  refine ⟨fun _ _ => rfl, fun an _ _ h => sliceSum_perm an h, fun an l l' => ?_, fun w x a => ?_, fun w x => Sk.add_comm _ _,
    fun t _ _ i h => tget_foldl_accAdd_perm t h i, tget_accAdd⟩
  · rw [sliceSum_append]
  · rw [Sk.toW_of_toW_add, Sk.toW_add_of_toW, Sk.add_assoc]

end Sys2Proof.Proofs
end

section
/-! SUPPORT. Zero (spec/03 R84, R96; spec/02 R31): zero magnitudes round and are written as 0, contributions of −0 sum to +0. -/
namespace Sys2Proof.Machine

/-! ### Zero magnitudes -/

theorem magDy_zero_isZero (e : Int) : (magDy 0 e).isZero = true := by simp [magDy, Mag.isZero]

theorem Mag.isZero_scale {m : Mag} (h : m.isZero = true) (k : Int) : (m.scale k).isZero = true := by
  cases m with
  | rat n d =>
    have hn : n = 0 := by simpa [Mag.isZero] using h
    simp [Mag.scale, Mag.isZero, hn]
  | sqrt n d =>
    have hn : n = 0 := by simpa [Mag.isZero] using h
    simp [Mag.scale, Mag.isZero, hn]

theorem rneAt_magDy_zero (e L : Int) : rneAt (magDy 0 e) L = 0 := by simp [rneAt, floorAt, magDy]

/-! ### Zero as an element code -/

theorem encMag_of_isZero (mb : Nat) (bias : Int) (top : Nat) (r : Rnd) {m : Mag} (h : m.isZero = true) :
    encMag mb bias top r m = some 0 := by simp [encMag, encFloatMag, h]

theorem Fmt.isSome_float_of_unscaled {f : Fmt} (hf : f.scaled = false) (hselv : f ≠ .selv) : f.float.isSome = true := by
  revert hf hselv
  cases f <;> decide

/-- A positive zero is code 0 of a floating-point format (R31). -/
theorem Fmt.encElem_zero_of_float {f : Fmt} (hf : f.float.isSome = true) (w : WrMode) (fixed : Bool) (s : Int) (r : Rnd) {m : Mag}
    (hm : m.isZero = true) : (f.encElem w fixed s r (.num false m)).code = 0 := by
  obtain ⟨⟨mb, bias, top⟩, hfloat⟩ := Option.isSome_iff_exists.mp hf
  simp [Fmt.encElem, hfloat, encMag_of_isZero mb bias top r (Mag.isZero_scale hm (-s)), Fmt.signBit]

/-! ### Zero as a contribution -/

/-- A zero rounds to nothing, of either sign, and does not climb (R84, R85). -/
theorem Contrib.round_zero (neg : Bool) (e : Int) (an : Anc) : (Contrib.ofVal (.fin neg 0 e)).round an = (Sk.zero, false) := by
  have hsig : signed neg 0 = 0 := by cases neg <;> rfl
  have hlim : 0 < climbLim an.cls := Nat.two_pow_pos _
  simp [Contrib.round, Contrib.ofVal, hsig, rneInt, rneAt_magDy_zero, hlim, Sk.zero]

theorem sliceSum_zeros (neg : Bool) (an : Anc) (es : List Int) :
    sliceSum an (es.map fun e => Contrib.ofVal (.fin neg 0 e)) = (Sk.zero, false) := by
  induction es with
  | nil => rfl
  | cons e es ih => rw [List.map_cons, sliceSum_cons, Contrib.round_zero, ih, Sk.zero_add, Bool.false_or]

/-- With no special-state bit set a Skein drains its ACC as a multiple of the grid's least bit (R95). -/
theorem Sk.drain_of_no_bits {k : Sk} (hnan : k.nan = false) (hpinf : k.pinf = false) (hninf : k.ninf = false) (hsat : k.sat = false)
    (cls : Nat) (T ls : Int) : k.drain cls T ls = .num (decide (k.acc < 0)) (magDy k.acc.natAbs (gridL cls T + ls)) := by
  simp [Sk.drain, hnan, hpinf, hninf, hsat]

end Sys2Proof.Machine
end

section
namespace Sys2Proof.Proofs
open Machine

/-- Settles O20: the drained magnitude is that of ACC, 0 with a positive sign, which every floating-point format writes as code 0;
and a −0 adds nothing to the sum. -/
theorem zeroSumsDrainAsPositiveZero : Obligations.ZeroSumsDrainAsPositiveZero := by
  unfold Obligations.ZeroSumsDrainAsPositiveZero
  refine ⟨fun w cls T ls hacc hnan hpinf hninf hsat => ?_, fun an es => ?_⟩
  · have hzero := magDy_zero_isZero (gridL cls T + ls)
    refine ⟨_, hzero, ?_, fun f wm r hf hselv => ?_⟩
    · rw [Sk.drain_of_no_bits hnan hpinf hninf hsat, hacc]
      rfl
    · exact Fmt.encElem_zero_of_float (Fmt.isSome_float_of_unscaled hf hselv) wm false 0 r hzero
  · rw [sliceSum_zeros]

end Sys2Proof.Proofs
end

section
/-! SUPPORT. The transaction of a function (spec/17 R449, R450): what BEGIN, COMMIT, ROLLBACK and a staged write make of it. -/
namespace Sys2Proof.Machine

open Stated (whole)

variable {s : State} {fn : Fin 16}

/-! ### Reading and replacing a transaction -/

theorem State.txn_fin (s : State) (fn : Fin 16) : s.txn fn = s.host.txn[fn] := by simp [State.txn]

theorem State.txns_setTxn (s : State) (fn : Fin 16) (x : Txn) : (s.setTxn fn x).host.txn[fn] = x := by
  rw [← State.txn_fin, State.txn_setTxn s fn x fn.isLt]
theorem State.txns_setTxn_ne (s : State) {fn g : Fin 16} (x : Txn) (h : g ≠ fn) : (s.setTxn fn x).host.txn[g] = s.host.txn[g] := by
  rw [← State.txn_fin, ← State.txn_fin, State.txn_setTxn_ne s fn g x (fun e => h (Fin.ext e.symm))]

/-- A transaction replaced by itself. -/
theorem State.setTxn_txn (s : State) (fn : Fin 16) : s.setTxn fn (s.txn fn) = s := by
  have hsame : s.host.txn.setIfInBounds fn (s.txn fn) = s.host.txn := by
    ext i hi
    rw [Vector.getElem_setIfInBounds]
    split
    next h => subst h; rw [State.txn_fin]; rfl
    next => rfl
  rw [State.setTxn, hsame]

/-! ### BEGIN, COMMIT and ROLLBACK -/

/-- A transaction that is neither idle nor open is pending, in one of the two codes left. -/
theorem Txn.st_of_pending {x : Txn} (h : 1 < x.st.toNat) : x.st = 2 ∨ x.st = 3 := by
  have := x.st.isLt
  rcases (by omega : x.st.toNat = 2 ∨ x.st.toNat = 3) with h | h
  · exact .inl (BitVec.eq_of_toNat_eq h)
  · exact .inr (BitVec.eq_of_toNat_eq h)

theorem State.txnBegin_idle (h : (s.txn fn).st = 0) :
    s.txnBegin fn = s.setTxn fn { s.txn fn with st := 1, count := 0, full := false, staged := [], cmds := [] } := by
  simp [State.txnBegin, h]
theorem State.txnBegin_open (h : (s.txn fn).st = 1) : s.txnBegin fn = s.txnResult fn 4 := by
  simp [State.txnBegin, h]
theorem State.txnBegin_pending (h : 1 < (s.txn fn).st.toNat) : s.txnBegin fn = s.txnResult fn 7 := by
  obtain h | h := Txn.st_of_pending h <;> simp [State.txnBegin, h]

theorem State.txnCommit_idle (h : (s.txn fn).st = 0) : s.txnCommit fn = s.txnResult fn 6 := by
  simp [State.txnCommit, h]
theorem State.txnCommit_open (h : (s.txn fn).st = 1) (hfull : (s.txn fn).full = false) :
    s.txnCommit fn = s.setTxn fn { s.txn fn with st := 2 } := by
  simp [State.txnCommit, h, hfull]
theorem State.txnCommit_full (h : (s.txn fn).st = 1) (hfull : (s.txn fn).full = true) : s.txnCommit fn = s.endTxn fn 5 := by
  simp [State.txnCommit, h, hfull]
theorem State.txnCommit_pending (h : 1 < (s.txn fn).st.toNat) : s.txnCommit fn = s.txnResult fn 7 := by
  obtain h | h := Txn.st_of_pending h <;> simp [State.txnCommit, h]

theorem State.txnRollback_idle (h : (s.txn fn).st = 0) : s.txnRollback fn = s.txnResult fn 6 := by
  simp [State.txnRollback, h]
theorem State.txnRollback_open (h : (s.txn fn).st = 1) : s.txnRollback fn
    = (s.setTxn fn { s.txn fn with st := 0, result := 2, count := 0, full := false, staged := [], cmds := [] }).fire fn 5 := by
  simp [State.txnRollback, h]
theorem State.txnRollback_pending (h : 1 < (s.txn fn).st.toNat) : s.txnRollback fn = s.txnResult fn 7 := by
  obtain h | h := Txn.st_of_pending h <;> simp [State.txnRollback, h]

/-! ### A staged write -/

@[simp] theorem whole_reg (r : Reg) (v : BitVec 64) : (whole r v).reg = r := rfl
@[simp] theorem whole_lo (r : Reg) (v : BitVec 64) : (whole r v).lo = true := rfl

theorem fld_halves (v : BitVec 64) : BitVec.ofNat 64 (BV.fld v 32 32 * 2 ^ 32 + BV.fld v 0 32) = v := by
  refine BitVec.eq_of_toNat_eq ?_
  have := v.isLt
  simp only [BV.fld, fld, BitVec.toNat_ofNat, Nat.shiftRight_eq_div_pow]
  omega

/-- A write of both halves leaves nothing of the register's content. -/
theorem Staged.over_whole (r : Reg) (v old : BitVec 64) : (whole r v).over old = v := fld_halves v

/-- Where no staged write names the register, the model's test for a second write fails. -/
theorem any_reg_eq_false {l : List Staged} {r : Reg} (v : BitVec 64) (hnew : ∀ w ∈ l, w.reg ≠ r) :
    (l.any fun y => y.reg = (whole r v).reg) = false :=
  List.any_eq_false.mpr fun w hw hr => hnew w hw (of_decide_eq_true hr)

theorem State.stage_new {r : Reg} {v : BitVec 64} (hnew : ∀ w ∈ (s.txn fn).staged, w.reg ≠ r)
    (hroom : (s.txn fn).staged.length + (s.txn fn).cmds.length < 256) : s.stage fn (whole r v)
      = s.setTxn fn { s.txn fn with staged := (s.txn fn).staged ++ [whole r v], count := (s.txn fn).count + 1 } := by
  simp only [State.stage, any_reg_eq_false v hnew, if_neg (Nat.not_le.mpr hroom)]
  rfl

theorem State.stage_again {r : Reg} {v : BitVec 64} (hold : ∃ w ∈ (s.txn fn).staged, w.reg = r) : s.stage fn (whole r v)
      = s.setTxn fn { s.txn fn with staged := (s.txn fn).staged.map fun w => if w.reg = r then whole r v else w } := by
  have hany : ((s.txn fn).staged.any fun y => y.reg = (whole r v).reg) = true := by
    obtain ⟨w, hw, hr⟩ := hold
    exact List.any_eq_true.mpr ⟨w, hw, decide_eq_true hr⟩
  simp only [State.stage, hany, if_pos, Staged.over_whole]
  simp [whole]

theorem State.stage_full {r : Reg} {v : BitVec 64} (hnew : ∀ w ∈ (s.txn fn).staged, w.reg ≠ r)
    (hfull : 256 ≤ (s.txn fn).staged.length + (s.txn fn).cmds.length) : s.stage fn (whole r v)
      = (s.setTxn fn { s.txn fn with result := 5, full := true }).fire fn 5 := by
  simp only [State.stage, any_reg_eq_false v hnew, if_pos hfull]
  rfl

/-! ### The commands -/

/-- The command in the field [1:0] of `TXN_CTRL` (R449). -/
def State.txnCtrl (s : State) (fn : Nat) : Nat → State
  | 1 => s.txnBegin fn
  | 2 => s.txnCommit fn
  | 3 => s.txnRollback fn
  | _ => s

/-- `TXN_CTRL` of any page, written with the shadow view as it is, gives its command to the function's transaction. -/
theorem State.writeNow_txnCtrl {r : Reg} {v : BitVec 64} (hofs : r.ofs = 0x18) (hshadow : v.getLsbD 2 = (s.txn fn).shadow) :
    s.writeNow fn (whole r v) = s.txnCtrl fn (BV.fld v 0 2) := by
  have hcmd : (whole r v).cmd = v := Staged.over_whole r v 0
  have hkeep : s.setTxn fn { s.txn fn with shadow := v.getLsbD 2 } = s := by
    rw [hshadow]
    exact s.setTxn_txn fn
  have hpage : decide ((whole r v).reg.ofs = 0x18) = true := decide_eq_true hofs
  simp only [State.writeNow, hpage, hcmd, if_pos, whole_lo, hkeep]
  rfl

/-- A value below 4 carries the command of its number, and 0 for the shadow view. -/
theorem txnCtrl_fields (k : Fin 4) : BV.fld (BitVec.ofNat 64 k) 0 2 = k ∧ (BitVec.ofNat 64 k).getLsbD 2 = false := by
  revert k
  decide

section
variable (hup : s.hostUp fn = true)
include hup

theorem exec_txnBegin : exec (.txnBegin fn) s = .next (s.txnBegin fn) := congrArg Host.Outcome.next (if_pos hup)
theorem exec_txnCommit : exec (.txnCommit fn) s = .next (s.txnCommit fn) := congrArg Host.Outcome.next (if_pos hup)
theorem exec_txnRollback : exec (.txnRollback fn) s = .next (s.txnRollback fn) := congrArg Host.Outcome.next (if_pos hup)

variable {sel : RegSel} {r : Reg} {v : BitVec 64} {w : Staged}
  (hreg : s.regOf fn sel = some r) (hpage : s.pageUp r.blk r.inst = true) (hwrite : Half.write .both sel r v = some w)
include hreg hpage hwrite

/-- While the transaction is open, a write of a transactional register is staged (R449). -/
theorem exec_registerWrite_staged (hwritable : r.writable = true) (hexempt : r.exempt = false) (hopen : (s.txn fn).st = 1) :
    exec (.registerWrite fn sel .both v) s = .next (s.stage fn w) := by
  change execRegisterWrite fn sel .both v s = _
  simp [execRegisterWrite, State.writeTxn, hup, hreg, hpage, hwrite, hwritable, hexempt, hopen]

/-- A write of a register that R450 exempts acts at once. -/
theorem exec_registerWrite_exempt (hexempt : r.exempt = true) (hreach : mayReach fn (s.owns fn) r = true) :
    exec (.registerWrite fn sel .both v) s = .next (s.writeNow fn w) := by
  change execRegisterWrite fn sel .both v s = _
  simp [execRegisterWrite, hup, hreg, hpage, hwrite, hexempt, hreach]

end

end Sys2Proof.Machine
end

section
namespace Sys2Proof.Proofs
open Machine Stated

/-! ### What a command on a transaction leaves unchanged -/

theorem only_host_out (s : State) (h : HostIf) (o : List Out) : Only [.host, .out] s { s with host := h, out := o } := by
  intro p hp
  cases p with
  | host | out => simp at hp
  | mem => exact fun _ => rfl
  | _ => rfl

theorem txnOnly_setTxn (s : State) (fn : Fin 16) (x : Txn) : TxnOnly fn false s (s.setTxn fn x) :=
  ⟨rfl, fun _ hg => s.txns_setTxn_ne x hg, rfl, only_host_out s _ _⟩
theorem txnOnly_setTxn_fire (s : State) (fn : Fin 16) (x : Txn) : TxnOnly fn true s ((s.setTxn fn x).fire fn 5) :=
  ⟨rfl, fun _ hg => s.txns_setTxn_ne x hg, rfl, only_host_out s _ _⟩

variable {s t : State} {fn : Fin 16} {c : Instr} {x : Txn}

/-- A command that only replaces the function's transaction. -/
theorem runs_setTxn (hrun : exec c s = .next t) (ht : t = s.setTxn fn x) :
    Runs c s fun t => t.host.txn[fn] = x ∧ TxnOnly fn false s t := by
  subst ht
  exact ⟨_, hrun, s.txns_setTxn fn x, txnOnly_setTxn s fn x⟩

/-- A command that also tells its result, by the function's vector 5 (R445). -/
theorem runs_setTxn_fire (hrun : exec c s = .next t) (ht : t = (s.setTxn fn x).fire fn 5) :
    Runs c s fun t => t.host.txn[fn] = x ∧ TxnOnly fn true s t := by
  subst ht
  exact ⟨_, hrun, s.txns_setTxn fn x, txnOnly_setTxn_fire s fn x⟩

end Sys2Proof.Proofs
end

section
namespace Sys2Proof.Proofs
open Machine Stated

/-- Settles O10: in each state of the transaction a command is one of its equations, which replaces the transaction and nothing else;
`TXN_CTRL` of any page comes down to the same commands. -/
theorem transactionsStageUntilTheCommit : Obligations.TransactionsStageUntilTheCommit := by
  unfold Obligations.TransactionsStageUntilTheCommit
  intro fn s hup
  simp only [← State.txn_fin s fn]
  have hbegin := exec_txnBegin hup
  have hcommit := exec_txnCommit hup
  have hrollback := exec_txnRollback hup
  refine ⟨fun hidle => ⟨?_, ?_, ?_⟩, fun hopen => ⟨?_, fun hfull => ?_, fun hfull => ?_, ?_, ?_⟩, fun hpending c hc => ?_, ?_⟩
  · exact runs_setTxn hbegin (State.txnBegin_idle hidle)
  · exact runs_setTxn_fire hcommit (State.txnCommit_idle hidle)
  · exact runs_setTxn_fire hrollback (State.txnRollback_idle hidle)
  · exact runs_setTxn_fire hbegin (State.txnBegin_open hopen)
  · exact runs_setTxn hcommit (State.txnCommit_open hopen hfull)
  · obtain ⟨t, hrun, htxn, honly⟩ := runs_setTxn_fire hcommit (State.txnCommit_full hopen hfull)
    exact ⟨t, hrun, by simp [htxn, honly]⟩
  · obtain ⟨t, hrun, htxn, honly⟩ := runs_setTxn_fire hrollback (State.txnRollback_open hopen)
    exact ⟨t, hrun, by simp [htxn, honly]⟩
  · intro sel r v hreg hwritable hexempt hpage hwrite
    have hstage := exec_registerWrite_staged hup hreg hpage hwrite hwritable hexempt hopen
    exact ⟨fun hnew hroom => runs_setTxn hstage (State.stage_new hnew hroom), fun hold => runs_setTxn hstage (State.stage_again hold),
      fun hnew hroom => runs_setTxn_fire hstage (State.stage_full hnew hroom)⟩
  · simp only [List.mem_cons, List.not_mem_nil, or_false] at hc
    obtain rfl | rfl | rfl := hc
    · exact runs_setTxn_fire hbegin (State.txnBegin_pending hpending)
    · exact runs_setTxn_fire hcommit (State.txnCommit_pending hpending)
    · exact runs_setTxn_fire hrollback (State.txnRollback_pending hpending)
  · intro sel r k hreg hofs hpage hreach hwrite hshadow
    have hexempt : r.exempt = true := by simp [Reg.exempt, hofs]
    obtain ⟨hcode, hview⟩ := txnCtrl_fields k
    rw [exec_registerWrite_exempt hup hreg hpage hwrite hexempt hreach, State.writeNow_txnCtrl hofs (hview.trans hshadow.symm),
      hcode, hbegin, hcommit, hrollback]
    match k with
    | 0 | 1 | 2 | 3 => rfl

end Sys2Proof.Proofs
end
